-- ==== Sys2Proof/Word.lean ====
section
/-!
DEFINITION. The words the manual counts in: bytes, 32-bit words, 48-bit virtual addresses, lane masks, and the
one shape of sparse table that every memory and register file of the model uses.
-/
namespace Sys2Proof

/-- One byte of a memory (R3: bit 0 is the least significant bit). -/
abbrev Byte := BitVec 8

/-- A 32-bit register element or scalar (R45). -/
abbrev Word := BitVec 32

/-- A 48-bit virtual address of a context's address space (R66). -/
abbrev Addr := BitVec 48

/-- A set of lanes of one group: bit l is lane l (R2). -/
abbrev Lanes := BitVec 32

/-- A 64-bit witness (R188). -/
abbrev Wit := BitVec 64

/-- The six sticky flags in the order of R52: IV, DZ, OF, UF, NX, SAT from bit 0 up. -/
abbrev FFlags := BitVec 6

/-- A sparse table: keys strictly rising. A memory lists only the cells that differ from what an unlisted one reads as. -/
abbrev Map (α : Type) := List (Nat × α)

end Sys2Proof
end

