-- ==== Sys2Proof/Syntax.lean ====
section
/-!
DEFINITION. The instructions of the opcode table, one constructor for each row: the encoded instructions with their fields at
the widths of the manual (R25, R27 and the family formats), and the device events, which have no encoding and name the things
they act on by number. Field h of a copy holds its four shape words, word 0 lowest (R36).
-/
namespace Sys2Proof

inductive Instr where
  /-- MOV_SHORT (R25). -/
  | movShort (l : BitVec 1) (sl : BitVec 5) (d : BitVec 5)
  /-- IADD_SHORT (R25). -/
  | iaddShort (l : BitVec 1) (sl : BitVec 5) (d : BitVec 5)
  /-- ISUB_SHORT (R25). -/
  | isubShort (l : BitVec 1) (sl : BitVec 5) (d : BitVec 5)
  /-- IMUL_SHORT (R25). -/
  | imulShort (l : BitVec 1) (sl : BitVec 5) (d : BitVec 5)
  /-- AND_SHORT (R25). -/
  | andShort (l : BitVec 1) (sl : BitVec 5) (d : BitVec 5)
  /-- OR_SHORT (R25). -/
  | orShort (l : BitVec 1) (sl : BitVec 5) (d : BitVec 5)
  /-- XOR_SHORT (R25). -/
  | xorShort (l : BitVec 1) (sl : BitVec 5) (d : BitVec 5)
  /-- SHL_SHORT (R25). -/
  | shlShort (l : BitVec 1) (sl : BitVec 5) (d : BitVec 5)
  /-- SHRL_SHORT (R25). -/
  | shrlShort (l : BitVec 1) (sl : BitVec 5) (d : BitVec 5)
  /-- SHRA_SHORT (R25). -/
  | shraShort (l : BitVec 1) (sl : BitVec 5) (d : BitVec 5)
  /-- FADD_SHORT (R25). -/
  | faddShort (l : BitVec 1) (sl : BitVec 5) (d : BitVec 5)
  /-- FSUB_SHORT (R25). -/
  | fsubShort (l : BitVec 1) (sl : BitVec 5) (d : BitVec 5)
  /-- FMUL_SHORT (R25). -/
  | fmulShort (l : BitVec 1) (sl : BitVec 5) (d : BitVec 5)
  /-- FMAX_SHORT (R25). -/
  | fmaxShort (l : BitVec 1) (sl : BitVec 5) (d : BitVec 5)
  /-- FMIN_SHORT (R25). -/
  | fminShort (l : BitVec 1) (sl : BitVec 5) (d : BitVec 5)
  /-- NOP (R26). -/
  | nop
  /-- IADD (R139). -/
  | iadd (g : BitVec 3) (b : BitVec 7) (a : BitVec 7) (d : BitVec 7)
  /-- ISUB (R139). -/
  | isub (g : BitVec 3) (b : BitVec 7) (a : BitVec 7) (d : BitVec 7)
  /-- IMUL (R139). -/
  | imul (g : BitVec 3) (b : BitVec 7) (a : BitVec 7) (d : BitVec 7)
  /-- IMULHS (R139). -/
  | imulhs (g : BitVec 3) (b : BitVec 7) (a : BitVec 7) (d : BitVec 7)
  /-- IMULHN (R139). -/
  | imulhn (g : BitVec 3) (b : BitVec 7) (a : BitVec 7) (d : BitVec 7)
  /-- IMINS (R139). -/
  | imins (g : BitVec 3) (b : BitVec 7) (a : BitVec 7) (d : BitVec 7)
  /-- IMAXS (R139). -/
  | imaxs (g : BitVec 3) (b : BitVec 7) (a : BitVec 7) (d : BitVec 7)
  /-- IMINN (R139). -/
  | iminn (g : BitVec 3) (b : BitVec 7) (a : BitVec 7) (d : BitVec 7)
  /-- IMAXN (R139). -/
  | imaxn (g : BitVec 3) (b : BitVec 7) (a : BitVec 7) (d : BitVec 7)
  /-- AND (R139). -/
  | and (g : BitVec 3) (b : BitVec 7) (a : BitVec 7) (d : BitVec 7)
  /-- OR (R139). -/
  | or (g : BitVec 3) (b : BitVec 7) (a : BitVec 7) (d : BitVec 7)
  /-- XOR (R139). -/
  | xor (g : BitVec 3) (b : BitVec 7) (a : BitVec 7) (d : BitVec 7)
  /-- ANDN (R139). -/
  | andn (g : BitVec 3) (b : BitVec 7) (a : BitVec 7) (d : BitVec 7)
  /-- SHL (R139). -/
  | shl (g : BitVec 3) (b : BitVec 7) (a : BitVec 7) (d : BitVec 7)
  /-- SHRL (R139). -/
  | shrl (g : BitVec 3) (b : BitVec 7) (a : BitVec 7) (d : BitVec 7)
  /-- SHRA (R139). -/
  | shra (g : BitVec 3) (b : BitVec 7) (a : BitVec 7) (d : BitVec 7)
  /-- ROTL (R139). -/
  | rotl (g : BitVec 3) (b : BitVec 7) (a : BitVec 7) (d : BitVec 7)
  /-- IABSD (R139). -/
  | iabsd (g : BitVec 3) (b : BitVec 7) (a : BitVec 7) (d : BitVec 7)
  /-- FADD (R140). -/
  | fadd (g : BitVec 3) (b : BitVec 7) (a : BitVec 7) (d : BitVec 7)
  /-- FSUB (R140). -/
  | fsub (g : BitVec 3) (b : BitVec 7) (a : BitVec 7) (d : BitVec 7)
  /-- FMUL (R140). -/
  | fmul (g : BitVec 3) (b : BitVec 7) (a : BitVec 7) (d : BitVec 7)
  /-- FMAC (R140). -/
  | fmac (g : BitVec 3) (b : BitVec 7) (a : BitVec 7) (d : BitVec 7)
  /-- FMIN (R140). -/
  | fmin (g : BitVec 3) (b : BitVec 7) (a : BitVec 7) (d : BitVec 7)
  /-- FMAX (R140). -/
  | fmax (g : BitVec 3) (b : BitVec 7) (a : BitVec 7) (d : BitVec 7)
  /-- FCPYS (R140). -/
  | fcpys (g : BitVec 3) (b : BitVec 7) (a : BitVec 7) (d : BitVec 7)
  /-- FSCALE (R140). -/
  | fscale (g : BitVec 3) (b : BitVec 7) (a : BitVec 7) (d : BitVec 7)
  /-- HADD2 (R141). -/
  | hadd2 (g : BitVec 3) (b : BitVec 7) (a : BitVec 7) (d : BitVec 7)
  /-- HSUB2 (R141). -/
  | hsub2 (g : BitVec 3) (b : BitVec 7) (a : BitVec 7) (d : BitVec 7)
  /-- HMUL2 (R141). -/
  | hmul2 (g : BitVec 3) (b : BitVec 7) (a : BitVec 7) (d : BitVec 7)
  /-- HFMAC2 (R141). -/
  | hfmac2 (g : BitVec 3) (b : BitVec 7) (a : BitVec 7) (d : BitVec 7)
  /-- HMIN2 (R141). -/
  | hmin2 (g : BitVec 3) (b : BitVec 7) (a : BitVec 7) (d : BitVec 7)
  /-- HMAX2 (R141). -/
  | hmax2 (g : BitVec 3) (b : BitVec 7) (a : BitVec 7) (d : BitVec 7)
  /-- BADD2 (R141). -/
  | badd2 (g : BitVec 3) (b : BitVec 7) (a : BitVec 7) (d : BitVec 7)
  /-- BSUB2 (R141). -/
  | bsub2 (g : BitVec 3) (b : BitVec 7) (a : BitVec 7) (d : BitVec 7)
  /-- BMUL2 (R141). -/
  | bmul2 (g : BitVec 3) (b : BitVec 7) (a : BitVec 7) (d : BitVec 7)
  /-- BFMAC2 (R141). -/
  | bfmac2 (g : BitVec 3) (b : BitVec 7) (a : BitVec 7) (d : BitVec 7)
  /-- BMIN2 (R141). -/
  | bmin2 (g : BitVec 3) (b : BitVec 7) (a : BitVec 7) (d : BitVec 7)
  /-- BMAX2 (R141). -/
  | bmax2 (g : BitVec 3) (b : BitVec 7) (a : BitVec 7) (d : BitVec 7)
  /-- SEL (R142). -/
  | sel (g : BitVec 3) (b : BitVec 7) (a : BitVec 7) (d : BitVec 7)
  /-- PRMT (R143). -/
  | prmt (g : BitVec 3) (b : BitVec 7) (a : BitVec 7) (d : BitVec 7)
  /-- IADDI (R144). -/
  | iaddi (im : BitVec 10) (a : BitVec 7) (d : BitVec 7)
  /-- IMULI (R144). -/
  | imuli (im : BitVec 10) (a : BitVec 7) (d : BitVec 7)
  /-- ANDI (R144). -/
  | andi (im : BitVec 10) (a : BitVec 7) (d : BitVec 7)
  /-- ORI (R144). -/
  | ori (im : BitVec 10) (a : BitVec 7) (d : BitVec 7)
  /-- XORI (R144). -/
  | xori (im : BitVec 10) (a : BitVec 7) (d : BitVec 7)
  /-- SHLI (R144). -/
  | shli (c : BitVec 5) (a : BitVec 7) (d : BitVec 7)
  /-- SHRLI (R144). -/
  | shrli (c : BitVec 5) (a : BitVec 7) (d : BitVec 7)
  /-- SHRAI (R144). -/
  | shrai (c : BitVec 5) (a : BitVec 7) (d : BitVec 7)
  /-- MOVI (R144). -/
  | movi (im : BitVec 10) (d : BitVec 7)
  /-- MOVHI (R144). -/
  | movhi (im : BitVec 10) (a : BitVec 7) (d : BitVec 7)
  /-- ICMPS (R145). -/
  | icmps (c : BitVec 1) (g : BitVec 3) (b : BitVec 7) (a : BitVec 7) (n : BitVec 3) (p : BitVec 3)
  /-- ICMPN (R145). -/
  | icmpn (c : BitVec 1) (g : BitVec 3) (b : BitVec 7) (a : BitVec 7) (n : BitVec 3) (p : BitVec 3)
  /-- FCMP (R145). -/
  | fcmp (c : BitVec 1) (g : BitVec 3) (b : BitVec 7) (a : BitVec 7) (n : BitVec 3) (p : BitVec 3)
  /-- PLOP (R146). -/
  | plop (c : BitVec 1) (g : BitVec 3) (b : BitVec 3) (a : BitVec 3) (n : BitVec 3) (p : BitVec 3)
  /-- FRCP (R147). -/
  | frcp (g : BitVec 3) (a : BitVec 7) (d : BitVec 7)
  /-- FRSQ (R147). -/
  | frsq (g : BitVec 3) (a : BitVec 7) (d : BitVec 7)
  /-- FSQRT (R147). -/
  | fsqrt (g : BitVec 3) (a : BitVec 7) (d : BitVec 7)
  /-- FEXP2 (R147). -/
  | fexp2 (g : BitVec 3) (a : BitVec 7) (d : BitVec 7)
  /-- FLOG2 (R147). -/
  | flog2 (g : BitVec 3) (a : BitVec 7) (d : BitVec 7)
  /-- FSIN (R147). -/
  | fsin (g : BitVec 3) (a : BitVec 7) (d : BitVec 7)
  /-- FCOS (R147). -/
  | fcos (g : BitVec 3) (a : BitVec 7) (d : BitVec 7)
  /-- FTANH (R147). -/
  | ftanh (g : BitVec 3) (a : BitVec 7) (d : BitVec 7)
  /-- FABS (R147). -/
  | fabs (g : BitVec 3) (a : BitVec 7) (d : BitVec 7)
  /-- FNEG (R147). -/
  | fneg (g : BitVec 3) (a : BitVec 7) (d : BitVec 7)
  /-- FFLOOR (R147). -/
  | ffloor (g : BitVec 3) (a : BitVec 7) (d : BitVec 7)
  /-- FCEIL (R147). -/
  | fceil (g : BitVec 3) (a : BitVec 7) (d : BitVec 7)
  /-- FRINT (R147). -/
  | frint (g : BitVec 3) (a : BitVec 7) (d : BitVec 7)
  /-- FEXPN (R147). -/
  | fexpn (g : BitVec 3) (a : BitVec 7) (d : BitVec 7)
  /-- NOT (R148). -/
  | not (g : BitVec 3) (a : BitVec 7) (d : BitVec 7)
  /-- NEG (R148). -/
  | neg (g : BitVec 3) (a : BitVec 7) (d : BitVec 7)
  /-- ABS (R148). -/
  | abs (g : BitVec 3) (a : BitVec 7) (d : BitVec 7)
  /-- POPC (R148). -/
  | popc (g : BitVec 3) (a : BitVec 7) (d : BitVec 7)
  /-- CLZ (R148). -/
  | clz (g : BitVec 3) (a : BitVec 7) (d : BitVec 7)
  /-- BREV (R148). -/
  | brev (g : BitVec 3) (a : BitVec 7) (d : BitVec 7)
  /-- SEXT8 (R148). -/
  | sext8 (g : BitVec 3) (a : BitVec 7) (d : BitVec 7)
  /-- SEXT16 (R148). -/
  | sext16 (g : BitVec 3) (a : BitVec 7) (d : BitVec 7)
  /-- CVT_S32_F32 (R149). -/
  | cvtS32F32 (g : BitVec 3) (r : BitVec 3) (a : BitVec 7) (d : BitVec 7)
  /-- CVT_N32_F32 (R149). -/
  | cvtN32F32 (g : BitVec 3) (r : BitVec 3) (a : BitVec 7) (d : BitVec 7)
  /-- CVT_F32_S32 (R149). -/
  | cvtF32S32 (g : BitVec 3) (r : BitVec 3) (a : BitVec 7) (d : BitVec 7)
  /-- CVT_F32_N32 (R149). -/
  | cvtF32N32 (g : BitVec 3) (r : BitVec 3) (a : BitVec 7) (d : BitVec 7)
  /-- CVT_H2_F32 (R149). -/
  | cvtH2F32 (g : BitVec 3) (r : BitVec 3) (a : BitVec 7) (d : BitVec 7)
  /-- CVT_B2_F32 (R149). -/
  | cvtB2F32 (g : BitVec 3) (r : BitVec 3) (a : BitVec 7) (d : BitVec 7)
  /-- CVT_F32_H2 (R149). -/
  | cvtF32H2 (g : BitVec 3) (r : BitVec 3) (a : BitVec 7) (d : BitVec 7)
  /-- CVT_F32_B2 (R149). -/
  | cvtF32B2 (g : BitVec 3) (r : BitVec 3) (a : BitVec 7) (d : BitVec 7)
  /-- CVT_B2_H2 (R149). -/
  | cvtB2H2 (g : BitVec 3) (r : BitVec 3) (a : BitVec 7) (d : BitVec 7)
  /-- CVT_H2_B2 (R149). -/
  | cvtH2B2 (g : BitVec 3) (r : BitVec 3) (a : BitVec 7) (d : BitVec 7)
  /-- QNT4 (R151). -/
  | qnt4 (f : BitVec 3) (b : BitVec 7) (a : BitVec 7) (d : BitVec 7)
  /-- QNT8 (R151). -/
  | qnt8 (f : BitVec 3) (b : BitVec 7) (a : BitVec 7) (d : BitVec 7)
  /-- DQNT4 (R152). -/
  | dqnt4 (f : BitVec 3) (b : BitVec 7) (a : BitVec 7) (q : BitVec 5)
  /-- DQNT8 (R152). -/
  | dqnt8 (f : BitVec 3) (b : BitVec 7) (a : BitVec 7) (q : BitVec 5)
  /-- AMAX (R153). -/
  | amax (g : BitVec 3) (sl : BitVec 2) (l : BitVec 2) (a : BitVec 7) (d : BitVec 7)
  /-- SHFL (R154). -/
  | shfl (m : BitVec 2) (b : BitVec 7) (a : BitVec 7) (d : BitVec 7)
  /-- BALLOT (R156). -/
  | ballot (sl : BitVec 3) (d : BitVec 7)
  /-- VOTE_ANY (R156). -/
  | voteAny (p : BitVec 3) (sl : BitVec 3)
  /-- VOTE_ALL (R156). -/
  | voteAll (p : BitVec 3) (sl : BitVec 3)
  /-- VOTE_UNI (R156). -/
  | voteUni (p : BitVec 3) (sl : BitVec 3)
  /-- REDUX_IADD (R156). -/
  | reduxIadd (a : BitVec 7) (d : BitVec 7)
  /-- REDUX_IMINS (R156). -/
  | reduxImins (a : BitVec 7) (d : BitVec 7)
  /-- REDUX_IMAXS (R156). -/
  | reduxImaxs (a : BitVec 7) (d : BitVec 7)
  /-- REDUX_IMINN (R156). -/
  | reduxIminn (a : BitVec 7) (d : BitVec 7)
  /-- REDUX_IMAXN (R156). -/
  | reduxImaxn (a : BitVec 7) (d : BitVec 7)
  /-- REDUX_AND (R156). -/
  | reduxAnd (a : BitVec 7) (d : BitVec 7)
  /-- REDUX_OR (R156). -/
  | reduxOr (a : BitVec 7) (d : BitVec 7)
  /-- REDUX_XOR (R156). -/
  | reduxXor (a : BitVec 7) (d : BitVec 7)
  /-- REDUX_FADD (R64). -/
  | reduxFadd (a : BitVec 7) (d : BitVec 7)
  /-- REDUX_FMAX (R156). -/
  | reduxFmax (a : BitVec 7) (d : BitVec 7)
  /-- MATCH (R156). -/
  | matchLanes (p : BitVec 3) (a : BitVec 7) (d : BitVec 7)
  /-- READLANE (R156). -/
  | readlane (k : BitVec 5) (a : BitVec 7) (d : BitVec 7)
  /-- TMOV_TO_REG (R183). -/
  | tmovToReg (t : BitVec 6) (x : BitVec 1) (sl : BitVec 6) (im : BitVec 5) (v : BitVec 5)
  /-- TMOV_TO_TILE (R183). -/
  | tmovToTile (t : BitVec 6) (x : BitVec 1) (sl : BitVec 6) (im : BitVec 5) (v : BitVec 5)
  /-- TZERO (R185). -/
  | tzero (t : BitVec 6)
  /-- TLDT (R186). -/
  | tldt (t : BitVec 6) (a : BitVec 6) (x : BitVec 6)
  /-- TSTT (R186). -/
  | tstt (t : BitVec 6) (a : BitVec 6) (x : BitVec 6)
  /-- TEPI (R187). -/
  | tepi (t : BitVec 6) (a : BitVec 6) (x : BitVec 6) (f : BitVec 3)
  /-- MMA (R176). -/
  | mma (t : BitVec 6) (sl : BitVec 5) (b : BitVec 3) (a : BitVec 3) (c : BitVec 1) (y : BitVec 1) (r : BitVec 1) (v : BitVec 3)
  /-- MMA_F16 (R176). -/
  | mmaF16 (t : BitVec 6) (sl : BitVec 5) (y : BitVec 1) (r : BitVec 1) (v : BitVec 3)
  /-- MMA_BF16 (R176). -/
  | mmaBf16 (t : BitVec 6) (sl : BitVec 5) (y : BitVec 1) (r : BitVec 1) (v : BitVec 3)
  /-- RCFG (R89). -/
  | rcfg (k : BitVec 3) (a : BitVec 6) (b : BitVec 6)
  /-- RWAIT_F (R89). -/
  | rwaitF (k : BitVec 3) (p : BitVec 1) (im : BitVec 4) (a : BitVec 6)
  /-- RWAIT_E (R89). -/
  | rwaitE (k : BitVec 3) (p : BitVec 1) (im : BitVec 4) (a : BitVec 6)
  /-- RREL (R87). -/
  | rrel (k : BitVec 3) (im : BitVec 4) (a : BitVec 6)
  /-- RARV (R87). -/
  | rarv (k : BitVec 3) (im : BitVec 4) (a : BitVec 6)
  /-- RSTAT (R89). -/
  | rstat (k : BitVec 3) (a : BitVec 6) (b : BitVec 6)
  /-- BAR (R122). -/
  | bar (im : BitVec 4)
  /-- BAR_P (R122). -/
  | barP (im : BitVec 2)
  /-- BAR_ARV (R122). -/
  | barArv (im : BitVec 4)
  /-- BAR_P_ARV (R122). -/
  | barPArv (im : BitVec 2)
  /-- FDSET (R157). -/
  | fdset (f : BitVec 3) (sl : BitVec 6)
  /-- FDGET (R157). -/
  | fdget (f : BitVec 3) (d : BitVec 6)
  /-- SADD (R160). -/
  | sadd (b : BitVec 6) (a : BitVec 6) (d : BitVec 6)
  /-- SSUB (R160). -/
  | ssub (b : BitVec 6) (a : BitVec 6) (d : BitVec 6)
  /-- SMUL (R160). -/
  | smul (b : BitVec 6) (a : BitVec 6) (d : BitVec 6)
  /-- SMULHN (R160). -/
  | smulhn (b : BitVec 6) (a : BitVec 6) (d : BitVec 6)
  /-- SAND (R160). -/
  | sand (b : BitVec 6) (a : BitVec 6) (d : BitVec 6)
  /-- SOR (R160). -/
  | sor (b : BitVec 6) (a : BitVec 6) (d : BitVec 6)
  /-- SXOR (R160). -/
  | sxor (b : BitVec 6) (a : BitVec 6) (d : BitVec 6)
  /-- SSHL (R160). -/
  | sshl (b : BitVec 6) (a : BitVec 6) (d : BitVec 6)
  /-- SSHRL (R160). -/
  | sshrl (b : BitVec 6) (a : BitVec 6) (d : BitVec 6)
  /-- SSHRA (R160). -/
  | sshra (b : BitVec 6) (a : BitVec 6) (d : BitVec 6)
  /-- SMINS (R160). -/
  | smins (b : BitVec 6) (a : BitVec 6) (d : BitVec 6)
  /-- SMAXS (R160). -/
  | smaxs (b : BitVec 6) (a : BitVec 6) (d : BitVec 6)
  /-- SMINN (R160). -/
  | sminn (b : BitVec 6) (a : BitVec 6) (d : BitVec 6)
  /-- SMAXN (R160). -/
  | smaxn (b : BitVec 6) (a : BitVec 6) (d : BitVec 6)
  /-- SMOV (R160). -/
  | smov (a : BitVec 6) (d : BitVec 6)
  /-- SADDI (R161). -/
  | saddi (im : BitVec 18) (d : BitVec 6)
  /-- SLIT (R161). -/
  | slit (im : BitVec 18) (d : BitVec 6)
  /-- SHI (R161). -/
  | shi (im : BitVec 14) (d : BitVec 6)
  /-- SCMP (R162). -/
  | scmp (n : BitVec 1) (c : BitVec 3) (b : BitVec 6) (a : BitVec 6) (p : BitVec 3)
  /-- V2S_FIRST (R163). -/
  | v2sFirst (a : BitVec 7) (d : BitVec 6)
  /-- V2S_LANE (R163). -/
  | v2sLane (k : BitVec 5) (a : BitVec 7) (d : BitVec 6)
  /-- SSR (R164). -/
  | ssr (n : BitVec 6) (d : BitVec 6)
  /-- SSW (R164). -/
  | ssw (n : BitVec 6) (sl : BitVec 6)
  /-- SSET (R164). -/
  | sset (sl : BitVec 6)
  /-- SCLR (R164). -/
  | sclr (sl : BitVec 6)
  /-- LDS (R112). -/
  | lds (f : BitVec 1) (sl : BitVec 3) (w : BitVec 6) (a : BitVec 7) (d : BitVec 7)
  /-- STS (R113). -/
  | sts (f : BitVec 1) (sl : BitVec 3) (w : BitVec 6) (a : BitVec 7) (d : BitVec 7)
  /-- LDT (R112). -/
  | ldt (f : BitVec 1) (sl : BitVec 3) (w : BitVec 6) (a : BitVec 7) (d : BitVec 7)
  /-- STT (R113). -/
  | stt (f : BitVec 1) (sl : BitVec 3) (w : BitVec 6) (a : BitVec 7) (d : BitVec 7)
  /-- LDRO (R109). -/
  | ldro (f : BitVec 1) (sl : BitVec 3) (w : BitVec 6) (a : BitVec 7) (d : BitVec 7)
  /-- ATS_ADD (R117). -/
  | atsAdd (f : BitVec 1) (b : BitVec 7) (a : BitVec 7) (q : BitVec 5)
  /-- ATS_ADD64 (R117). -/
  | atsAdd64 (f : BitVec 1) (b : BitVec 7) (a : BitVec 7) (q : BitVec 5)
  /-- ATS_MINS (R117). -/
  | atsMins (f : BitVec 1) (b : BitVec 7) (a : BitVec 7) (q : BitVec 5)
  /-- ATS_MAXS (R117). -/
  | atsMaxs (f : BitVec 1) (b : BitVec 7) (a : BitVec 7) (q : BitVec 5)
  /-- ATS_MINN (R117). -/
  | atsMinn (f : BitVec 1) (b : BitVec 7) (a : BitVec 7) (q : BitVec 5)
  /-- ATS_MAXN (R117). -/
  | atsMaxn (f : BitVec 1) (b : BitVec 7) (a : BitVec 7) (q : BitVec 5)
  /-- ATS_AND (R117). -/
  | atsAnd (f : BitVec 1) (b : BitVec 7) (a : BitVec 7) (q : BitVec 5)
  /-- ATS_OR (R117). -/
  | atsOr (f : BitVec 1) (b : BitVec 7) (a : BitVec 7) (q : BitVec 5)
  /-- ATS_XOR (R117). -/
  | atsXor (f : BitVec 1) (b : BitVec 7) (a : BitVec 7) (q : BitVec 5)
  /-- ATS_EXCH (R117). -/
  | atsExch (f : BitVec 1) (b : BitVec 7) (a : BitVec 7) (q : BitVec 5)
  /-- ATS_EXCH64 (R117). -/
  | atsExch64 (f : BitVec 1) (b : BitVec 7) (a : BitVec 7) (q : BitVec 5)
  /-- ATS_CAS (R117). -/
  | atsCas (f : BitVec 1) (b : BitVec 7) (a : BitVec 7) (q : BitVec 5)
  /-- ATS_CAS64 (R117). -/
  | atsCas64 (f : BitVec 1) (b : BitVec 7) (a : BitVec 7) (q : BitVec 5)
  /-- ATS_INCW (R117). -/
  | atsIncw (f : BitVec 1) (b : BitVec 7) (a : BitVec 7) (q : BitVec 5)
  /-- ATS_FADD (R117). -/
  | atsFadd (f : BitVec 1) (b : BitVec 7) (a : BitVec 7) (q : BitVec 5)
  /-- ATS_FADDB2 (R117). -/
  | atsFaddb2 (f : BitVec 1) (b : BitVec 7) (a : BitVec 7) (q : BitVec 5)
  /-- ATS_FMIN (R117). -/
  | atsFmin (f : BitVec 1) (b : BitVec 7) (a : BitVec 7) (q : BitVec 5)
  /-- ATS_FMAX (R117). -/
  | atsFmax (f : BitVec 1) (b : BitVec 7) (a : BitVec 7) (q : BitVec 5)
  /-- ATT_ADD (R117). -/
  | attAdd (f : BitVec 1) (b : BitVec 7) (a : BitVec 7) (q : BitVec 5)
  /-- ATT_ADD64 (R117). -/
  | attAdd64 (f : BitVec 1) (b : BitVec 7) (a : BitVec 7) (q : BitVec 5)
  /-- ATT_MINS (R117). -/
  | attMins (f : BitVec 1) (b : BitVec 7) (a : BitVec 7) (q : BitVec 5)
  /-- ATT_MAXS (R117). -/
  | attMaxs (f : BitVec 1) (b : BitVec 7) (a : BitVec 7) (q : BitVec 5)
  /-- ATT_MINN (R117). -/
  | attMinn (f : BitVec 1) (b : BitVec 7) (a : BitVec 7) (q : BitVec 5)
  /-- ATT_MAXN (R117). -/
  | attMaxn (f : BitVec 1) (b : BitVec 7) (a : BitVec 7) (q : BitVec 5)
  /-- ATT_AND (R117). -/
  | attAnd (f : BitVec 1) (b : BitVec 7) (a : BitVec 7) (q : BitVec 5)
  /-- ATT_OR (R117). -/
  | attOr (f : BitVec 1) (b : BitVec 7) (a : BitVec 7) (q : BitVec 5)
  /-- ATT_XOR (R117). -/
  | attXor (f : BitVec 1) (b : BitVec 7) (a : BitVec 7) (q : BitVec 5)
  /-- ATT_EXCH (R117). -/
  | attExch (f : BitVec 1) (b : BitVec 7) (a : BitVec 7) (q : BitVec 5)
  /-- ATT_EXCH64 (R117). -/
  | attExch64 (f : BitVec 1) (b : BitVec 7) (a : BitVec 7) (q : BitVec 5)
  /-- ATT_CAS (R117). -/
  | attCas (f : BitVec 1) (b : BitVec 7) (a : BitVec 7) (q : BitVec 5)
  /-- ATT_CAS64 (R117). -/
  | attCas64 (f : BitVec 1) (b : BitVec 7) (a : BitVec 7) (q : BitVec 5)
  /-- ATT_INCW (R117). -/
  | attIncw (f : BitVec 1) (b : BitVec 7) (a : BitVec 7) (q : BitVec 5)
  /-- ATT_FADD (R117). -/
  | attFadd (f : BitVec 1) (b : BitVec 7) (a : BitVec 7) (q : BitVec 5)
  /-- ATT_FADDB2 (R117). -/
  | attFaddb2 (f : BitVec 1) (b : BitVec 7) (a : BitVec 7) (q : BitVec 5)
  /-- ATT_FMIN (R117). -/
  | attFmin (f : BitVec 1) (b : BitVec 7) (a : BitVec 7) (q : BitVec 5)
  /-- ATT_FMAX (R117). -/
  | attFmax (f : BitVec 1) (b : BitVec 7) (a : BitVec 7) (q : BitVec 5)
  /-- SPILL (R119). -/
  | spill (n : BitVec 3) (sl : BitVec 12) (b : BitVec 7)
  /-- FILL (R119). -/
  | fill (f : BitVec 1) (n : BitVec 3) (sl : BitVec 12) (b : BitVec 7)
  /-- PREF_L1 (R120). -/
  | prefL1 (n : BitVec 6) (a : BitVec 7)
  /-- PREF_RO (R120). -/
  | prefRo (n : BitVec 6) (a : BitVec 7)
  /-- CPY (R83). -/
  | cpy (f : BitVec 1) (p : BitVec 1) (r : BitVec 1) (k : BitVec 3) (a : BitVec 6) (d : BitVec 6) (w : BitVec 6) (h : BitVec 128)
  /-- CPYO (R83). -/
  | cpyo (f : BitVec 1) (p : BitVec 1) (r : BitVec 1) (k : BitVec 3) (a : BitVec 6) (d : BitVec 6) (w : BitVec 6) (h : BitVec 128)
  /-- HBX_GATH (R91). -/
  | hbxGath (f : BitVec 1) (p : BitVec 1) (a : BitVec 6) (d : BitVec 6) (w : BitVec 6) (h : BitVec 128)
  /-- HBX_RDCE (R91). -/
  | hbxRdce (f : BitVec 1) (p : BitVec 1) (a : BitVec 6) (d : BitVec 6) (w : BitVec 6) (h : BitVec 128)
  /-- HBX_CONV (R92). -/
  | hbxConv (f : BitVec 1) (p : BitVec 1) (a : BitVec 6) (d : BitVec 6) (w : BitVec 6) (h : BitVec 128)
  /-- HBX_FILLZ (R93). -/
  | hbxFillz (f : BitVec 1) (p : BitVec 1) (a : BitVec 6) (d : BitVec 6) (w : BitVec 6) (h : BitVec 128)
  /-- CPYX_STAT (R94). -/
  | cpyxStat (c : BitVec 4) (d : BitVec 6)
  /-- CPYX_CANCEL (R94). -/
  | cpyxCancel (c : BitVec 4)
  /-- WMERGE (R199). -/
  | wmerge (g : BitVec 3) (b : BitVec 6) (a : BitVec 6) (d : BitVec 6)
  /-- WREDUCE (R200). -/
  | wreduce (g : BitVec 3) (a : BitVec 6) (d : BitVec 6)
  /-- WALL (R201). -/
  | wall (d : BitVec 6)
  /-- WWAIT (R201). -/
  | wwait (a : BitVec 6)
  /-- WTEST (R201). -/
  | wtest (p : BitVec 3) (a : BitVec 6)
  /-- QRES (R225). -/
  | qres (f : BitVec 1) (t : BitVec 1) (c : BitVec 5) (h : BitVec 6) (d : BitVec 6)
  /-- QRES_A (R225). -/
  | qresA (f : BitVec 1) (t : BitVec 1) (h : BitVec 6) (d : BitVec 6)
  /-- QENQ_L (R226). -/
  | qenqL (k : BitVec 5) (b : BitVec 7) (r : BitVec 6)
  /-- QENQ_G (R226). -/
  | qenqG (k : BitVec 5) (b : BitVec 7) (r : BitVec 6)
  /-- QENQ_M (R226). -/
  | qenqM (k : BitVec 5) (a : BitVec 6) (r : BitVec 6)
  /-- QPOST_L (R227). -/
  | qpostL (b : BitVec 7) (h : BitVec 6)
  /-- QPOST_G (R227). -/
  | qpostG (b : BitVec 7) (h : BitVec 6)
  /-- QPOST_M (R227). -/
  | qpostM (a : BitVec 6) (h : BitVec 6)
  /-- QDEQ_L (R228). -/
  | qdeqL (f : BitVec 1) (sl : BitVec 1) (p : BitVec 3) (d : BitVec 7) (h : BitVec 6) (w : BitVec 4)
  /-- QDEQ_G (R228). -/
  | qdeqG (f : BitVec 1) (sl : BitVec 1) (p : BitVec 3) (d : BitVec 7) (h : BitVec 6) (w : BitVec 4)
  /-- QDEQ_M (R228). -/
  | qdeqM (f : BitVec 1) (sl : BitVec 1) (p : BitVec 3) (a : BitVec 6) (h : BitVec 6) (w : BitVec 4)
  /-- QWAIT (R229). -/
  | qwait (a : BitVec 6) (h : BitVec 6)
  /-- QFLUSH (R229). -/
  | qflush (f : BitVec 1) (h : BitVec 6) (d : BitVec 6)
  /-- QVOID (R229). -/
  | qvoid (a : BitVec 6) (h : BitVec 6)
  /-- QSTAT (R229). -/
  | qstat (f : BitVec 1) (a : BitVec 6) (h : BitVec 6) (d : BitVec 6)
  /-- BR (R249). -/
  | br (o : BitVec 19) (n : BitVec 1) (p : BitVec 3)
  /-- BR_RG (R258). -/
  | brRg (o : BitVec 19) (n : BitVec 1) (p : BitVec 3)
  /-- BRU (R250). -/
  | bru (o : BitVec 19) (p : BitVec 3) (m : BitVec 2)
  /-- JMP (R251). -/
  | jmp (o : BitVec 23)
  /-- CALL (R251). -/
  | call (o : BitVec 23)
  /-- JMPI (R252). -/
  | jmpi (a : BitVec 7)
  /-- CALLI (R252). -/
  | calli (a : BitVec 7)
  /-- RET (R252). -/
  | ret
  /-- JOIN (R257). -/
  | join (b : BitVec 20)
  /-- JOIN_O (R256). -/
  | joinO
  /-- REGROUP (R261). -/
  | regroup (a : BitVec 7) (sl : BitVec 6)
  /-- YIELD (R263). -/
  | yield
  /-- EXIT (R264). -/
  | exit
  /-- TSEG (R283). -/
  | tseg (d : BitVec 6)
  /-- TSEG_ADDR (R283). -/
  | tsegAddr (a : BitVec 6) (d : BitVec 6)
  /-- TSTAT (R283). -/
  | tstat (sl : BitVec 4) (a : BitVec 6) (d : BitVec 6)
  /-- THINT (R283). -/
  | thint (h : BitVec 4)
  /-- TRAP (R316). -/
  | trap (im : BitVec 20)
  /-- BKPT (R316). -/
  | bkpt
  /-- CNTR (R316). -/
  | cntr (k : BitVec 3) (d : BitVec 6)
  /-- ISYNC (R316). -/
  | isync
  /-- NOP32 (R316). -/
  | nop32
  /-- CLAUSE_BEGIN (R22). -/
  | clauseBegin
  /-- RCFG_COMPLETE (R89). -/
  | rcfgComplete (g : Nat)
  /-- COPY_RETIRE (R73). -/
  | copyRetire (cmd : Nat)
  /-- COPY_TRANSLATION_FAULT (R76). -/
  | copyTranslationFault (cmd : Nat)
  /-- COPY_PROTECTION_FAULT (R76). -/
  | copyProtectionFault (cmd : Nat)
  /-- WITNESS_WAKE (R201). -/
  | witnessWake (g : Nat)
  /-- HANDLE_TRANSLATION_REPLY (R206). -/
  | handleTranslationReply (core : Nat) (handle : Nat)
  /-- QRES_REQUEST (R213). -/
  | qresRequest (msg : Nat)
  /-- QRES_DEFERRED_GRANT (R213). -/
  | qresDeferredGrant (queue : Nat)
  /-- QRES_GRANT_RECEIVE (R225). -/
  | qresGrantReceive (msg : Nat)
  /-- ELEMENT_ARRIVAL (R211). -/
  | elementArrival (msg : Nat)
  /-- POST_ARRIVAL (R214). -/
  | postArrival (msg : Nat)
  /-- QDEQ_CLAIM (R219). -/
  | qdeqClaim (op : Nat)
  /-- QDEQ_DELIVERY_COMPLETE (R228). -/
  | qdeqDeliveryComplete (op : Nat)
  /-- QFLUSH_COMPLETE (R223). -/
  | qflushComplete (op : Nat)
  /-- QSTAT_COMPLETE (R229). -/
  | qstatComplete (op : Nat)
  /-- REFILL_STEP (R209). -/
  | refillStep (queue : Nat)
  /-- ANSWER_ACK (R215). -/
  | answerAck (msg : Nat)
  /-- ANSWER_RETRY (R215). -/
  | answerRetry (msg : Nat)
  /-- ANSWER_MOVED (R215). -/
  | answerMoved (msg : Nat)
  /-- ANSWER_CHECK (R215). -/
  | answerCheck (msg : Nat)
  /-- ANSWER_REFUSED (R215). -/
  | answerRefused (msg : Nat)
  /-- RETENTION_TIMEOUT (R215). -/
  | retentionTimeout (copy : Nat)
  /-- STREAM_MESSAGE_ARRIVAL (R231). -/
  | streamMessageArrival (msg : Nat)
  /-- STREAM_DELIVERY_ACK (R231). -/
  | streamDeliveryAck (msg : Nat)
  /-- STREAM_RESEND_TIMEOUT (R231). -/
  | streamResendTimeout (stream : Nat)
  /-- FLIT_RECEIVE (R236). -/
  | flitReceive (link : Nat)
  /-- PARITY_REQUEST (R236). -/
  | parityRequest (link : Nat)
  /-- PARITY_RESPONSE (R236). -/
  | parityResponse (link : Nat)
  /-- REPLAY_REQUEST (R236). -/
  | replayRequest (link : Nat)
  /-- LINK_ACK (R236). -/
  | linkAck (link : Nat) (upto : Nat)
  /-- LINK_RETRAIN_COMPLETE (R237). -/
  | linkRetrainComplete (link : Nat)
  /-- BUFFER_ENTRY_ERROR (R237). -/
  | bufferEntryError (link : Nat)
  /-- WITHDRAWAL_ANNOUNCE (R238). -/
  | withdrawalAnnounce (die : Nat) (link : Nat)
  /-- CHANNEL_A_TIMEOUT (R238). -/
  | channelATimeout (link : Nat)
  /-- FABRIC_PACKET_RECEIVE (R241). -/
  | fabricPacketReceive (port : Nat)
  /-- PDS_RETRANSMIT (R241). -/
  | pdsRetransmit (port : Nat)
  /-- PAUSE_FRAME_RECEIVE (R240). -/
  | pauseFrameReceive (port : Nat)
  /-- JOIN_BOUND_EXPIRY (R257). -/
  | joinBoundExpiry (g : Nat)
  /-- POOL_ARRIVAL (R258). -/
  | poolArrival (g : Nat)
  /-- REGROUP_RELEASE (R260). -/
  | regroupRelease (pool : Nat)
  /-- THREAD_DEPART (R270). -/
  | threadDepart (g : Nat)
  /-- PACKER_STAGE (R275). -/
  | packerStage (core : Nat)
  /-- PACKER_WINDOW_EMIT (R275). -/
  | packerWindowEmit (core : Nat)
  /-- SEGMENT_LOAD_COMPLETE (R278). -/
  | segmentLoadComplete (grid : Nat) (seg : Nat)
  /-- GROUP_EVICT (R279). -/
  | groupEvict (core : Nat)
  /-- LOAD_COMPLETE (R112). -/
  | loadComplete (op : Nat)
  /-- STORE_COMPLETE (R113). -/
  | storeComplete (op : Nat)
  /-- ATOMIC_COMPLETE (R117). -/
  | atomicComplete (op : Nat)
  /-- FILL_COMPLETE (R119). -/
  | fillComplete (op : Nat)
  /-- SLICE_WRITE (R105). -/
  | sliceWrite (msg : Nat)
  /-- SLICE_ATOMIC (R100). -/
  | sliceAtomic (msg : Nat)
  /-- SLICE_READ (R106). -/
  | sliceRead (msg : Nat)
  /-- STORE_ANSWER (R106). -/
  | storeAnswer (msg : Nat)
  /-- TEAM_MEMORY_WINDOW_ACCESS (R98). -/
  | teamMemoryWindowAccess (msg : Nat)
  /-- L1_INVALIDATION (R105). -/
  | l1Invalidation (msg : Nat)
  /-- INVALIDATION_ACK (R105). -/
  | invalidationAck (msg : Nat)
  /-- PEER_PROBE (R107). -/
  | peerProbe (msg : Nat)
  /-- PROBE_REFUSAL (R106). -/
  | probeRefusal (msg : Nat)
  /-- SHARER_REGISTRATION (R107). -/
  | sharerRegistration (msg : Nat)
  /-- REGISTRATION_CONFIRM (R107). -/
  | registrationConfirm (msg : Nat)
  /-- L1_FILL (R108). -/
  | l1Fill (msg : Nat)
  /-- DIRECTORY_EVICTION (R105). -/
  | directoryEviction (die : Nat) (line : Nat)
  /-- FLUE_SNAPSHOT (R102). -/
  | flueSnapshot (die : Nat)
  /-- FLUE_APPLY (R102). -/
  | flueApply (die : Nat)
  /-- TICKET_SETTLE (R194). -/
  | ticketSettle (core : Nat)
  /-- REGISTER_GRANT (R130). -/
  | registerGrant (core : Nat)
  /-- REGISTER_REFILL (R131). -/
  | registerRefill (core : Nat)
  /-- CODE_LINE_FILL (R290). -/
  | codeLineFill (core : Nat) (ctx : Nat) (addr : Nat)
  /-- LAUNCH_START (R285). -/
  | launchStart (die : Nat)
  /-- PLOT_DISPATCH (R290). -/
  | plotDispatch (die : Nat)
  /-- TRAVEL_LAUNCH_START (R291). -/
  | travelLaunchStart (grid : Nat)
  /-- ACTIVE_ENTRY (R297). -/
  | activeEntry (quarter : Nat)
  /-- TIME_SLICE_EXPIRY (R297). -/
  | timeSliceExpiry (g : Nat)
  /-- FALLOW_RETURN (R297). -/
  | fallowReturn (g : Nat)
  /-- GROUP_END (R264). -/
  | groupEnd (g : Nat)
  /-- TEAM_COMPLETION (R293). -/
  | teamCompletion (team : Nat)
  /-- GRID_END (R300). -/
  | gridEnd (grid : Nat)
  /-- PREEMPT_TRIGGER (R301). -/
  | preemptTrigger (grid : Nat)
  /-- LAUNCH_UNIT_RESTORE (R301). -/
  | launchUnitRestore (ctx : Nat)
  /-- FAULT_DELIVERY_TIMEOUT (R305). -/
  | faultDeliveryTimeout (g : Nat)
  /-- SCRUB_ECC_ERROR (R305). -/
  | scrubEccError (die : Nat) (sub : Nat) (key : Nat)
  /-- CONTEXT_SAVE (R311). -/
  | contextSave (ctx : Nat)
  /-- DIE_RESET (R321). -/
  | dieReset (die : Nat)
  /-- DROOP_TRIP (R323). -/
  | droopTrip (die : Nat)
  /-- DAMPER_RELEASE (R323). -/
  | damperRelease (die : Nat)
  /-- FATAL_DIE_ERROR (R325). -/
  | fatalDieError (die : Nat) (cause : Nat)
  /-- HBM_WRITE (R319). -/
  | hbmWrite (chan : Nat)
  /-- HBM_READ (R319). -/
  | hbmRead (chan : Nat)
  /-- ENQUEUE (R319). -/
  | enqueue (chan : Nat)
  /-- DEQUEUE (R319). -/
  | dequeue (chan : Nat)
  /-- MGMT_REGISTER_WRITE (R319). -/
  | mgmtRegisterWrite (chan : Nat)
  /-- MGMT_REGISTER_READ (R319). -/
  | mgmtRegisterRead (chan : Nat)
  /-- MANAGEMENT_RESET (R325). -/
  | managementReset (chan : Nat)
  /-- CONTEXT_CREATE (R320). -/
  | contextCreate (chan : Nat)
  /-- CONTEXT_DESTROY (R218). -/
  | contextDestroy (chan : Nat)
  /-- TLB_INVALIDATE (R69). -/
  | tlbInvalidate (chan : Nat)
  /-- QUEUE_TRANSLATION_WRITE (R204). -/
  | queueTranslationWrite (chan : Nat)
  /-- MULTICAST_GROUP_WRITE (R205). -/
  | multicastGroupWrite (chan : Nat)
  /-- QUEUE_DESCRIPTOR_WRITE (R208). -/
  | queueDescriptorWrite (chan : Nat)
  /-- ACCESS_LIST_WRITE (R207). -/
  | accessListWrite (chan : Nat)
  /-- QUEUE_MOVE (R217). -/
  | queueMove (chan : Nat)
  /-- PREEMPT (R309). -/
  | preempt (chan : Nat)
  /-- RESTORE (R313). -/
  | restore (chan : Nat)
  /-- HALT_RETRY (R307). -/
  | haltRetry (chan : Nat)
  /-- HALT_SKIP (R307). -/
  | haltSkip (chan : Nat)
  /-- HALT_RESUME_COPY (R307). -/
  | haltResumeCopy (chan : Nat)
  /-- HALT_KILL (R307). -/
  | haltKill (chan : Nat)
  /-- KEY_INSTALL (R245). -/
  | keyInstall (chan : Nat)
  /-- COUNTER_ASSIGN (R324). -/
  | counterAssign (chan : Nat)
  /-- ATTESTATION_QUOTE (R322). -/
  | attestationQuote (chan : Nat)
  /-- ILLEGAL_INSTRUCTION (R39). -/
  | illegalInstruction (word : BitVec 32)
  /-- RETURN_ADDRESS_SPILL_COMPLETE (R253). -/
  | returnAddressSpillComplete (g : Nat) (lanes : Nat)
  /-- FABRIC_PORT_LINK_CHANGE (R243). -/
  | fabricPortLinkChange (port : Nat) (up : Nat)
  /-- CHIMNEY_PORT_LINK_UP (R317). -/
  | chimneyPortLinkUp
  /-- CHIMNEY_COMMAND_DISCARD (R318). -/
  | chimneyCommandDiscard (chan : Nat)
  /-- FALLBACK_TABLE_SWITCH (R238). -/
  | fallbackTableSwitch (die : Nat)
  deriving DecidableEq, Repr

end Sys2Proof
end

