-- ==== Sys2Proof/Decode.lean ====
section
/-!
DEFINITION. The decoder, from the bits of an instruction, and after it the encoder, from the same encoding tables. An
instruction is a number whose bit 0 is bit 0 of its first parcel; later parcels and shape words count on from it (R15, R36).
-/
namespace Sys2Proof

/-- The length in bytes of the instruction that starts with word w (R15). -/
def lengthOf (w : Nat) : Nat :=
  if w % 2 = 0 then 2
  else if 104 ≤ w / 2 % 128 ∧ w / 2 % 128 ≤ 106 then 20
  else 4

/-- The 16-bit short instructions by operation (R25, R26). -/
def decodeShort (w : Nat) : Option Instr :=
  match w / 2 % 16 with
  | 0 => some (.movShort (BitVec.ofNat 1 (w / 32768)) (BitVec.ofNat 5 (w / 1024)) (BitVec.ofNat 5 (w / 32)))
  | 1 => some (.iaddShort (BitVec.ofNat 1 (w / 32768)) (BitVec.ofNat 5 (w / 1024)) (BitVec.ofNat 5 (w / 32)))
  | 2 => some (.isubShort (BitVec.ofNat 1 (w / 32768)) (BitVec.ofNat 5 (w / 1024)) (BitVec.ofNat 5 (w / 32)))
  | 3 => some (.imulShort (BitVec.ofNat 1 (w / 32768)) (BitVec.ofNat 5 (w / 1024)) (BitVec.ofNat 5 (w / 32)))
  | 4 => some (.andShort (BitVec.ofNat 1 (w / 32768)) (BitVec.ofNat 5 (w / 1024)) (BitVec.ofNat 5 (w / 32)))
  | 5 => some (.orShort (BitVec.ofNat 1 (w / 32768)) (BitVec.ofNat 5 (w / 1024)) (BitVec.ofNat 5 (w / 32)))
  | 6 => some (.xorShort (BitVec.ofNat 1 (w / 32768)) (BitVec.ofNat 5 (w / 1024)) (BitVec.ofNat 5 (w / 32)))
  | 7 => some (.shlShort (BitVec.ofNat 1 (w / 32768)) (BitVec.ofNat 5 (w / 1024)) (BitVec.ofNat 5 (w / 32)))
  | 8 => some (.shrlShort (BitVec.ofNat 1 (w / 32768)) (BitVec.ofNat 5 (w / 1024)) (BitVec.ofNat 5 (w / 32)))
  | 9 => some (.shraShort (BitVec.ofNat 1 (w / 32768)) (BitVec.ofNat 5 (w / 1024)) (BitVec.ofNat 5 (w / 32)))
  | 10 => some (.faddShort (BitVec.ofNat 1 (w / 32768)) (BitVec.ofNat 5 (w / 1024)) (BitVec.ofNat 5 (w / 32)))
  | 11 => some (.fsubShort (BitVec.ofNat 1 (w / 32768)) (BitVec.ofNat 5 (w / 1024)) (BitVec.ofNat 5 (w / 32)))
  | 12 => some (.fmulShort (BitVec.ofNat 1 (w / 32768)) (BitVec.ofNat 5 (w / 1024)) (BitVec.ofNat 5 (w / 32)))
  | 13 => some (.fmaxShort (BitVec.ofNat 1 (w / 32768)) (BitVec.ofNat 5 (w / 1024)) (BitVec.ofNat 5 (w / 32)))
  | 14 => some (.fminShort (BitVec.ofNat 1 (w / 32768)) (BitVec.ofNat 5 (w / 1024)) (BitVec.ofNat 5 (w / 32)))
  | 15 => if w / 32 % 2048 = 0 then some .nop else none
  | _ => none

/-- Major 0x00: IADD. -/
def decodeMajor00 (w : Nat) : Option Instr :=
  some (.iadd (BitVec.ofNat 3 (w / 536870912)) (BitVec.ofNat 7 (w / 4194304)) (BitVec.ofNat 7 (w / 32768)) (BitVec.ofNat 7 (w / 256)))

/-- Major 0x01: ISUB. -/
def decodeMajor01 (w : Nat) : Option Instr :=
  some (.isub (BitVec.ofNat 3 (w / 536870912)) (BitVec.ofNat 7 (w / 4194304)) (BitVec.ofNat 7 (w / 32768)) (BitVec.ofNat 7 (w / 256)))

/-- Major 0x02: IMUL. -/
def decodeMajor02 (w : Nat) : Option Instr :=
  some (.imul (BitVec.ofNat 3 (w / 536870912)) (BitVec.ofNat 7 (w / 4194304)) (BitVec.ofNat 7 (w / 32768)) (BitVec.ofNat 7 (w / 256)))

/-- Major 0x03: IMULHS. -/
def decodeMajor03 (w : Nat) : Option Instr :=
  some (.imulhs (BitVec.ofNat 3 (w / 536870912)) (BitVec.ofNat 7 (w / 4194304)) (BitVec.ofNat 7 (w / 32768)) (BitVec.ofNat 7 (w / 256)))

/-- Major 0x04: IMULHN. -/
def decodeMajor04 (w : Nat) : Option Instr :=
  some (.imulhn (BitVec.ofNat 3 (w / 536870912)) (BitVec.ofNat 7 (w / 4194304)) (BitVec.ofNat 7 (w / 32768)) (BitVec.ofNat 7 (w / 256)))

/-- Major 0x05: IMINS. -/
def decodeMajor05 (w : Nat) : Option Instr :=
  some (.imins (BitVec.ofNat 3 (w / 536870912)) (BitVec.ofNat 7 (w / 4194304)) (BitVec.ofNat 7 (w / 32768)) (BitVec.ofNat 7 (w / 256)))

/-- Major 0x06: IMAXS. -/
def decodeMajor06 (w : Nat) : Option Instr :=
  some (.imaxs (BitVec.ofNat 3 (w / 536870912)) (BitVec.ofNat 7 (w / 4194304)) (BitVec.ofNat 7 (w / 32768)) (BitVec.ofNat 7 (w / 256)))

/-- Major 0x07: IMINN. -/
def decodeMajor07 (w : Nat) : Option Instr :=
  some (.iminn (BitVec.ofNat 3 (w / 536870912)) (BitVec.ofNat 7 (w / 4194304)) (BitVec.ofNat 7 (w / 32768)) (BitVec.ofNat 7 (w / 256)))

/-- Major 0x08: IMAXN. -/
def decodeMajor08 (w : Nat) : Option Instr :=
  some (.imaxn (BitVec.ofNat 3 (w / 536870912)) (BitVec.ofNat 7 (w / 4194304)) (BitVec.ofNat 7 (w / 32768)) (BitVec.ofNat 7 (w / 256)))

/-- Major 0x09: AND. -/
def decodeMajor09 (w : Nat) : Option Instr :=
  some (.and (BitVec.ofNat 3 (w / 536870912)) (BitVec.ofNat 7 (w / 4194304)) (BitVec.ofNat 7 (w / 32768)) (BitVec.ofNat 7 (w / 256)))

/-- Major 0x0A: OR. -/
def decodeMajor0A (w : Nat) : Option Instr :=
  some (.or (BitVec.ofNat 3 (w / 536870912)) (BitVec.ofNat 7 (w / 4194304)) (BitVec.ofNat 7 (w / 32768)) (BitVec.ofNat 7 (w / 256)))

/-- Major 0x0B: XOR. -/
def decodeMajor0B (w : Nat) : Option Instr :=
  some (.xor (BitVec.ofNat 3 (w / 536870912)) (BitVec.ofNat 7 (w / 4194304)) (BitVec.ofNat 7 (w / 32768)) (BitVec.ofNat 7 (w / 256)))

/-- Major 0x0C: ANDN. -/
def decodeMajor0C (w : Nat) : Option Instr :=
  some (.andn (BitVec.ofNat 3 (w / 536870912)) (BitVec.ofNat 7 (w / 4194304)) (BitVec.ofNat 7 (w / 32768)) (BitVec.ofNat 7 (w / 256)))

/-- Major 0x0D: SHL. -/
def decodeMajor0D (w : Nat) : Option Instr :=
  some (.shl (BitVec.ofNat 3 (w / 536870912)) (BitVec.ofNat 7 (w / 4194304)) (BitVec.ofNat 7 (w / 32768)) (BitVec.ofNat 7 (w / 256)))

/-- Major 0x0E: SHRL. -/
def decodeMajor0E (w : Nat) : Option Instr :=
  some (.shrl (BitVec.ofNat 3 (w / 536870912)) (BitVec.ofNat 7 (w / 4194304)) (BitVec.ofNat 7 (w / 32768)) (BitVec.ofNat 7 (w / 256)))

/-- Major 0x0F: SHRA. -/
def decodeMajor0F (w : Nat) : Option Instr :=
  some (.shra (BitVec.ofNat 3 (w / 536870912)) (BitVec.ofNat 7 (w / 4194304)) (BitVec.ofNat 7 (w / 32768)) (BitVec.ofNat 7 (w / 256)))

/-- Major 0x10: ROTL. -/
def decodeMajor10 (w : Nat) : Option Instr :=
  some (.rotl (BitVec.ofNat 3 (w / 536870912)) (BitVec.ofNat 7 (w / 4194304)) (BitVec.ofNat 7 (w / 32768)) (BitVec.ofNat 7 (w / 256)))

/-- Major 0x11: IABSD. -/
def decodeMajor11 (w : Nat) : Option Instr :=
  some (.iabsd (BitVec.ofNat 3 (w / 536870912)) (BitVec.ofNat 7 (w / 4194304)) (BitVec.ofNat 7 (w / 32768)) (BitVec.ofNat 7 (w / 256)))

/-- Major 0x18: FADD. -/
def decodeMajor18 (w : Nat) : Option Instr :=
  some (.fadd (BitVec.ofNat 3 (w / 536870912)) (BitVec.ofNat 7 (w / 4194304)) (BitVec.ofNat 7 (w / 32768)) (BitVec.ofNat 7 (w / 256)))

/-- Major 0x19: FSUB. -/
def decodeMajor19 (w : Nat) : Option Instr :=
  some (.fsub (BitVec.ofNat 3 (w / 536870912)) (BitVec.ofNat 7 (w / 4194304)) (BitVec.ofNat 7 (w / 32768)) (BitVec.ofNat 7 (w / 256)))

/-- Major 0x1A: FMUL. -/
def decodeMajor1A (w : Nat) : Option Instr :=
  some (.fmul (BitVec.ofNat 3 (w / 536870912)) (BitVec.ofNat 7 (w / 4194304)) (BitVec.ofNat 7 (w / 32768)) (BitVec.ofNat 7 (w / 256)))

/-- Major 0x1B: FMAC. -/
def decodeMajor1B (w : Nat) : Option Instr :=
  some (.fmac (BitVec.ofNat 3 (w / 536870912)) (BitVec.ofNat 7 (w / 4194304)) (BitVec.ofNat 7 (w / 32768)) (BitVec.ofNat 7 (w / 256)))

/-- Major 0x1C: FMIN. -/
def decodeMajor1C (w : Nat) : Option Instr :=
  some (.fmin (BitVec.ofNat 3 (w / 536870912)) (BitVec.ofNat 7 (w / 4194304)) (BitVec.ofNat 7 (w / 32768)) (BitVec.ofNat 7 (w / 256)))

/-- Major 0x1D: FMAX. -/
def decodeMajor1D (w : Nat) : Option Instr :=
  some (.fmax (BitVec.ofNat 3 (w / 536870912)) (BitVec.ofNat 7 (w / 4194304)) (BitVec.ofNat 7 (w / 32768)) (BitVec.ofNat 7 (w / 256)))

/-- Major 0x1E: FCPYS. -/
def decodeMajor1E (w : Nat) : Option Instr :=
  some (.fcpys (BitVec.ofNat 3 (w / 536870912)) (BitVec.ofNat 7 (w / 4194304)) (BitVec.ofNat 7 (w / 32768)) (BitVec.ofNat 7 (w / 256)))

/-- Major 0x1F: FSCALE. -/
def decodeMajor1F (w : Nat) : Option Instr :=
  some (.fscale (BitVec.ofNat 3 (w / 536870912)) (BitVec.ofNat 7 (w / 4194304)) (BitVec.ofNat 7 (w / 32768)) (BitVec.ofNat 7 (w / 256)))

/-- Major 0x20: HADD2. -/
def decodeMajor20 (w : Nat) : Option Instr :=
  some (.hadd2 (BitVec.ofNat 3 (w / 536870912)) (BitVec.ofNat 7 (w / 4194304)) (BitVec.ofNat 7 (w / 32768)) (BitVec.ofNat 7 (w / 256)))

/-- Major 0x21: HSUB2. -/
def decodeMajor21 (w : Nat) : Option Instr :=
  some (.hsub2 (BitVec.ofNat 3 (w / 536870912)) (BitVec.ofNat 7 (w / 4194304)) (BitVec.ofNat 7 (w / 32768)) (BitVec.ofNat 7 (w / 256)))

/-- Major 0x22: HMUL2. -/
def decodeMajor22 (w : Nat) : Option Instr :=
  some (.hmul2 (BitVec.ofNat 3 (w / 536870912)) (BitVec.ofNat 7 (w / 4194304)) (BitVec.ofNat 7 (w / 32768)) (BitVec.ofNat 7 (w / 256)))

/-- Major 0x23: HFMAC2. -/
def decodeMajor23 (w : Nat) : Option Instr :=
  some (.hfmac2 (BitVec.ofNat 3 (w / 536870912)) (BitVec.ofNat 7 (w / 4194304)) (BitVec.ofNat 7 (w / 32768)) (BitVec.ofNat 7 (w / 256)))

/-- Major 0x24: HMIN2. -/
def decodeMajor24 (w : Nat) : Option Instr :=
  some (.hmin2 (BitVec.ofNat 3 (w / 536870912)) (BitVec.ofNat 7 (w / 4194304)) (BitVec.ofNat 7 (w / 32768)) (BitVec.ofNat 7 (w / 256)))

/-- Major 0x25: HMAX2. -/
def decodeMajor25 (w : Nat) : Option Instr :=
  some (.hmax2 (BitVec.ofNat 3 (w / 536870912)) (BitVec.ofNat 7 (w / 4194304)) (BitVec.ofNat 7 (w / 32768)) (BitVec.ofNat 7 (w / 256)))

/-- Major 0x26: BADD2. -/
def decodeMajor26 (w : Nat) : Option Instr :=
  some (.badd2 (BitVec.ofNat 3 (w / 536870912)) (BitVec.ofNat 7 (w / 4194304)) (BitVec.ofNat 7 (w / 32768)) (BitVec.ofNat 7 (w / 256)))

/-- Major 0x27: BSUB2. -/
def decodeMajor27 (w : Nat) : Option Instr :=
  some (.bsub2 (BitVec.ofNat 3 (w / 536870912)) (BitVec.ofNat 7 (w / 4194304)) (BitVec.ofNat 7 (w / 32768)) (BitVec.ofNat 7 (w / 256)))

/-- Major 0x28: BMUL2. -/
def decodeMajor28 (w : Nat) : Option Instr :=
  some (.bmul2 (BitVec.ofNat 3 (w / 536870912)) (BitVec.ofNat 7 (w / 4194304)) (BitVec.ofNat 7 (w / 32768)) (BitVec.ofNat 7 (w / 256)))

/-- Major 0x29: BFMAC2. -/
def decodeMajor29 (w : Nat) : Option Instr :=
  some (.bfmac2 (BitVec.ofNat 3 (w / 536870912)) (BitVec.ofNat 7 (w / 4194304)) (BitVec.ofNat 7 (w / 32768)) (BitVec.ofNat 7 (w / 256)))

/-- Major 0x2A: BMIN2. -/
def decodeMajor2A (w : Nat) : Option Instr :=
  some (.bmin2 (BitVec.ofNat 3 (w / 536870912)) (BitVec.ofNat 7 (w / 4194304)) (BitVec.ofNat 7 (w / 32768)) (BitVec.ofNat 7 (w / 256)))

/-- Major 0x2B: BMAX2. -/
def decodeMajor2B (w : Nat) : Option Instr :=
  some (.bmax2 (BitVec.ofNat 3 (w / 536870912)) (BitVec.ofNat 7 (w / 4194304)) (BitVec.ofNat 7 (w / 32768)) (BitVec.ofNat 7 (w / 256)))

/-- Major 0x2C: SEL. -/
def decodeMajor2C (w : Nat) : Option Instr :=
  some (.sel (BitVec.ofNat 3 (w / 536870912)) (BitVec.ofNat 7 (w / 4194304)) (BitVec.ofNat 7 (w / 32768)) (BitVec.ofNat 7 (w / 256)))

/-- Major 0x2D: PRMT. -/
def decodeMajor2D (w : Nat) : Option Instr :=
  some (.prmt (BitVec.ofNat 3 (w / 536870912)) (BitVec.ofNat 7 (w / 4194304)) (BitVec.ofNat 7 (w / 32768)) (BitVec.ofNat 7 (w / 256)))

/-- Major 0x30: IADDI. -/
def decodeMajor30 (w : Nat) : Option Instr :=
  some (.iaddi (BitVec.ofNat 10 (w / 4194304)) (BitVec.ofNat 7 (w / 32768)) (BitVec.ofNat 7 (w / 256)))

/-- Major 0x31: IMULI. -/
def decodeMajor31 (w : Nat) : Option Instr :=
  some (.imuli (BitVec.ofNat 10 (w / 4194304)) (BitVec.ofNat 7 (w / 32768)) (BitVec.ofNat 7 (w / 256)))

/-- Major 0x32: ANDI. -/
def decodeMajor32 (w : Nat) : Option Instr :=
  some (.andi (BitVec.ofNat 10 (w / 4194304)) (BitVec.ofNat 7 (w / 32768)) (BitVec.ofNat 7 (w / 256)))

/-- Major 0x33: ORI. -/
def decodeMajor33 (w : Nat) : Option Instr :=
  some (.ori (BitVec.ofNat 10 (w / 4194304)) (BitVec.ofNat 7 (w / 32768)) (BitVec.ofNat 7 (w / 256)))

/-- Major 0x34: XORI. -/
def decodeMajor34 (w : Nat) : Option Instr :=
  some (.xori (BitVec.ofNat 10 (w / 4194304)) (BitVec.ofNat 7 (w / 32768)) (BitVec.ofNat 7 (w / 256)))

/-- Major 0x35: SHLI. -/
def decodeMajor35 (w : Nat) : Option Instr :=
  if w / 134217728 % 32 = 0 then some (.shli (BitVec.ofNat 5 (w / 4194304)) (BitVec.ofNat 7 (w / 32768)) (BitVec.ofNat 7 (w / 256)))
  else none

/-- Major 0x36: SHRLI. -/
def decodeMajor36 (w : Nat) : Option Instr :=
  if w / 134217728 % 32 = 0 then some (.shrli (BitVec.ofNat 5 (w / 4194304)) (BitVec.ofNat 7 (w / 32768)) (BitVec.ofNat 7 (w / 256)))
  else none

/-- Major 0x37: SHRAI. -/
def decodeMajor37 (w : Nat) : Option Instr :=
  if w / 134217728 % 32 = 0 then some (.shrai (BitVec.ofNat 5 (w / 4194304)) (BitVec.ofNat 7 (w / 32768)) (BitVec.ofNat 7 (w / 256)))
  else none

/-- Major 0x38: MOVI. -/
def decodeMajor38 (w : Nat) : Option Instr :=
  if w / 32768 % 128 = 0 then some (.movi (BitVec.ofNat 10 (w / 4194304)) (BitVec.ofNat 7 (w / 256)))
  else none

/-- Major 0x39: MOVHI. -/
def decodeMajor39 (w : Nat) : Option Instr :=
  some (.movhi (BitVec.ofNat 10 (w / 4194304)) (BitVec.ofNat 7 (w / 32768)) (BitVec.ofNat 7 (w / 256)))

/-- Major 0x3C: ICMPS. -/
def decodeMajor3C (w : Nat) : Option Instr :=
  some (.icmps (BitVec.ofNat 1 (w / 2147483648)) (BitVec.ofNat 3 (w / 268435456)) (BitVec.ofNat 7 (w / 2097152)) (BitVec.ofNat 7 (w / 16384)) (BitVec.ofNat 3 (w / 2048)) (BitVec.ofNat 3 (w / 256)))

/-- Major 0x3D: ICMPN. -/
def decodeMajor3D (w : Nat) : Option Instr :=
  some (.icmpn (BitVec.ofNat 1 (w / 2147483648)) (BitVec.ofNat 3 (w / 268435456)) (BitVec.ofNat 7 (w / 2097152)) (BitVec.ofNat 7 (w / 16384)) (BitVec.ofNat 3 (w / 2048)) (BitVec.ofNat 3 (w / 256)))

/-- Major 0x3E: FCMP. -/
def decodeMajor3E (w : Nat) : Option Instr :=
  some (.fcmp (BitVec.ofNat 1 (w / 2147483648)) (BitVec.ofNat 3 (w / 268435456)) (BitVec.ofNat 7 (w / 2097152)) (BitVec.ofNat 7 (w / 16384)) (BitVec.ofNat 3 (w / 2048)) (BitVec.ofNat 3 (w / 256)))

/-- Major 0x3F: PLOP. -/
def decodeMajor3F (w : Nat) : Option Instr :=
  if w / 131072 % 16 = 0 ∧ w / 16777216 % 16 = 0 then some (.plop (BitVec.ofNat 1 (w / 2147483648)) (BitVec.ofNat 3 (w / 268435456)) (BitVec.ofNat 3 (w / 2097152)) (BitVec.ofNat 3 (w / 16384)) (BitVec.ofNat 3 (w / 2048)) (BitVec.ofNat 3 (w / 256)))
  else none

/-- Major 0x40: FRCP, FRSQ, FSQRT, FEXP2, FLOG2, FSIN, FCOS, FTANH, FABS, FNEG, FFLOOR, FCEIL, FRINT, FEXPN. -/
def decodeMajor40 (w : Nat) : Option Instr :=
  if w / 4194304 % 64 = 0 ∧ w / 2147483648 % 2 = 0 then some (.frcp (BitVec.ofNat 3 (w / 268435456)) (BitVec.ofNat 7 (w / 32768)) (BitVec.ofNat 7 (w / 256)))
  else if w / 4194304 % 64 = 1 ∧ w / 2147483648 % 2 = 0 then some (.frsq (BitVec.ofNat 3 (w / 268435456)) (BitVec.ofNat 7 (w / 32768)) (BitVec.ofNat 7 (w / 256)))
  else if w / 4194304 % 64 = 2 ∧ w / 2147483648 % 2 = 0 then some (.fsqrt (BitVec.ofNat 3 (w / 268435456)) (BitVec.ofNat 7 (w / 32768)) (BitVec.ofNat 7 (w / 256)))
  else if w / 4194304 % 64 = 3 ∧ w / 2147483648 % 2 = 0 then some (.fexp2 (BitVec.ofNat 3 (w / 268435456)) (BitVec.ofNat 7 (w / 32768)) (BitVec.ofNat 7 (w / 256)))
  else if w / 4194304 % 64 = 4 ∧ w / 2147483648 % 2 = 0 then some (.flog2 (BitVec.ofNat 3 (w / 268435456)) (BitVec.ofNat 7 (w / 32768)) (BitVec.ofNat 7 (w / 256)))
  else if w / 4194304 % 64 = 5 ∧ w / 2147483648 % 2 = 0 then some (.fsin (BitVec.ofNat 3 (w / 268435456)) (BitVec.ofNat 7 (w / 32768)) (BitVec.ofNat 7 (w / 256)))
  else if w / 4194304 % 64 = 6 ∧ w / 2147483648 % 2 = 0 then some (.fcos (BitVec.ofNat 3 (w / 268435456)) (BitVec.ofNat 7 (w / 32768)) (BitVec.ofNat 7 (w / 256)))
  else if w / 4194304 % 64 = 7 ∧ w / 2147483648 % 2 = 0 then some (.ftanh (BitVec.ofNat 3 (w / 268435456)) (BitVec.ofNat 7 (w / 32768)) (BitVec.ofNat 7 (w / 256)))
  else if w / 4194304 % 64 = 8 ∧ w / 2147483648 % 2 = 0 then some (.fabs (BitVec.ofNat 3 (w / 268435456)) (BitVec.ofNat 7 (w / 32768)) (BitVec.ofNat 7 (w / 256)))
  else if w / 4194304 % 64 = 9 ∧ w / 2147483648 % 2 = 0 then some (.fneg (BitVec.ofNat 3 (w / 268435456)) (BitVec.ofNat 7 (w / 32768)) (BitVec.ofNat 7 (w / 256)))
  else if w / 4194304 % 64 = 10 ∧ w / 2147483648 % 2 = 0 then some (.ffloor (BitVec.ofNat 3 (w / 268435456)) (BitVec.ofNat 7 (w / 32768)) (BitVec.ofNat 7 (w / 256)))
  else if w / 4194304 % 64 = 11 ∧ w / 2147483648 % 2 = 0 then some (.fceil (BitVec.ofNat 3 (w / 268435456)) (BitVec.ofNat 7 (w / 32768)) (BitVec.ofNat 7 (w / 256)))
  else if w / 4194304 % 64 = 12 ∧ w / 2147483648 % 2 = 0 then some (.frint (BitVec.ofNat 3 (w / 268435456)) (BitVec.ofNat 7 (w / 32768)) (BitVec.ofNat 7 (w / 256)))
  else if w / 4194304 % 64 = 13 ∧ w / 2147483648 % 2 = 0 then some (.fexpn (BitVec.ofNat 3 (w / 268435456)) (BitVec.ofNat 7 (w / 32768)) (BitVec.ofNat 7 (w / 256)))
  else none

/-- Major 0x41: NOT, NEG, ABS, POPC, CLZ, BREV, SEXT8, SEXT16. -/
def decodeMajor41 (w : Nat) : Option Instr :=
  if w / 4194304 % 64 = 0 ∧ w / 2147483648 % 2 = 0 then some (.not (BitVec.ofNat 3 (w / 268435456)) (BitVec.ofNat 7 (w / 32768)) (BitVec.ofNat 7 (w / 256)))
  else if w / 4194304 % 64 = 1 ∧ w / 2147483648 % 2 = 0 then some (.neg (BitVec.ofNat 3 (w / 268435456)) (BitVec.ofNat 7 (w / 32768)) (BitVec.ofNat 7 (w / 256)))
  else if w / 4194304 % 64 = 2 ∧ w / 2147483648 % 2 = 0 then some (.abs (BitVec.ofNat 3 (w / 268435456)) (BitVec.ofNat 7 (w / 32768)) (BitVec.ofNat 7 (w / 256)))
  else if w / 4194304 % 64 = 3 ∧ w / 2147483648 % 2 = 0 then some (.popc (BitVec.ofNat 3 (w / 268435456)) (BitVec.ofNat 7 (w / 32768)) (BitVec.ofNat 7 (w / 256)))
  else if w / 4194304 % 64 = 4 ∧ w / 2147483648 % 2 = 0 then some (.clz (BitVec.ofNat 3 (w / 268435456)) (BitVec.ofNat 7 (w / 32768)) (BitVec.ofNat 7 (w / 256)))
  else if w / 4194304 % 64 = 5 ∧ w / 2147483648 % 2 = 0 then some (.brev (BitVec.ofNat 3 (w / 268435456)) (BitVec.ofNat 7 (w / 32768)) (BitVec.ofNat 7 (w / 256)))
  else if w / 4194304 % 64 = 6 ∧ w / 2147483648 % 2 = 0 then some (.sext8 (BitVec.ofNat 3 (w / 268435456)) (BitVec.ofNat 7 (w / 32768)) (BitVec.ofNat 7 (w / 256)))
  else if w / 4194304 % 64 = 7 ∧ w / 2147483648 % 2 = 0 then some (.sext16 (BitVec.ofNat 3 (w / 268435456)) (BitVec.ofNat 7 (w / 32768)) (BitVec.ofNat 7 (w / 256)))
  else none

/-- Major 0x42: CVT_S32_F32, CVT_N32_F32, CVT_F32_S32, CVT_F32_N32, CVT_H2_F32, CVT_B2_F32, CVT_F32_H2, CVT_F32_B2, CVT_B2_H2, CVT_H2_B2. -/
def decodeMajor42 (w : Nat) : Option Instr :=
  if w / 33554432 % 16 = 0 then some (.cvtS32F32 (BitVec.ofNat 3 (w / 536870912)) (BitVec.ofNat 3 (w / 4194304)) (BitVec.ofNat 7 (w / 32768)) (BitVec.ofNat 7 (w / 256)))
  else if w / 33554432 % 16 = 1 then some (.cvtN32F32 (BitVec.ofNat 3 (w / 536870912)) (BitVec.ofNat 3 (w / 4194304)) (BitVec.ofNat 7 (w / 32768)) (BitVec.ofNat 7 (w / 256)))
  else if w / 33554432 % 16 = 2 then some (.cvtF32S32 (BitVec.ofNat 3 (w / 536870912)) (BitVec.ofNat 3 (w / 4194304)) (BitVec.ofNat 7 (w / 32768)) (BitVec.ofNat 7 (w / 256)))
  else if w / 33554432 % 16 = 3 then some (.cvtF32N32 (BitVec.ofNat 3 (w / 536870912)) (BitVec.ofNat 3 (w / 4194304)) (BitVec.ofNat 7 (w / 32768)) (BitVec.ofNat 7 (w / 256)))
  else if w / 33554432 % 16 = 4 then some (.cvtH2F32 (BitVec.ofNat 3 (w / 536870912)) (BitVec.ofNat 3 (w / 4194304)) (BitVec.ofNat 7 (w / 32768)) (BitVec.ofNat 7 (w / 256)))
  else if w / 33554432 % 16 = 5 then some (.cvtB2F32 (BitVec.ofNat 3 (w / 536870912)) (BitVec.ofNat 3 (w / 4194304)) (BitVec.ofNat 7 (w / 32768)) (BitVec.ofNat 7 (w / 256)))
  else if w / 33554432 % 16 = 6 then some (.cvtF32H2 (BitVec.ofNat 3 (w / 536870912)) (BitVec.ofNat 3 (w / 4194304)) (BitVec.ofNat 7 (w / 32768)) (BitVec.ofNat 7 (w / 256)))
  else if w / 33554432 % 16 = 7 then some (.cvtF32B2 (BitVec.ofNat 3 (w / 536870912)) (BitVec.ofNat 3 (w / 4194304)) (BitVec.ofNat 7 (w / 32768)) (BitVec.ofNat 7 (w / 256)))
  else if w / 33554432 % 16 = 8 then some (.cvtB2H2 (BitVec.ofNat 3 (w / 536870912)) (BitVec.ofNat 3 (w / 4194304)) (BitVec.ofNat 7 (w / 32768)) (BitVec.ofNat 7 (w / 256)))
  else if w / 33554432 % 16 = 9 then some (.cvtH2B2 (BitVec.ofNat 3 (w / 536870912)) (BitVec.ofNat 3 (w / 4194304)) (BitVec.ofNat 7 (w / 32768)) (BitVec.ofNat 7 (w / 256)))
  else none

/-- Major 0x43: QNT4. -/
def decodeMajor43 (w : Nat) : Option Instr :=
  some (.qnt4 (BitVec.ofNat 3 (w / 536870912)) (BitVec.ofNat 7 (w / 4194304)) (BitVec.ofNat 7 (w / 32768)) (BitVec.ofNat 7 (w / 256)))

/-- Major 0x44: QNT8. -/
def decodeMajor44 (w : Nat) : Option Instr :=
  some (.qnt8 (BitVec.ofNat 3 (w / 536870912)) (BitVec.ofNat 7 (w / 4194304)) (BitVec.ofNat 7 (w / 32768)) (BitVec.ofNat 7 (w / 256)))

/-- Major 0x45: DQNT4, DQNT8. -/
def decodeMajor45 (w : Nat) : Option Instr :=
  if w / 256 % 2 = 0 ∧ w / 2147483648 % 2 = 0 then some (.dqnt4 (BitVec.ofNat 3 (w / 268435456)) (BitVec.ofNat 7 (w / 2097152)) (BitVec.ofNat 7 (w / 16384)) (BitVec.ofNat 5 (w / 512)))
  else if w / 256 % 2 = 0 ∧ w / 2147483648 % 2 = 1 then some (.dqnt8 (BitVec.ofNat 3 (w / 268435456)) (BitVec.ofNat 7 (w / 2097152)) (BitVec.ofNat 7 (w / 16384)) (BitVec.ofNat 5 (w / 512)))
  else none

/-- Major 0x46: AMAX. -/
def decodeMajor46 (w : Nat) : Option Instr :=
  if w / 4194304 % 8 = 0 then some (.amax (BitVec.ofNat 3 (w / 536870912)) (BitVec.ofNat 2 (w / 134217728)) (BitVec.ofNat 2 (w / 33554432)) (BitVec.ofNat 7 (w / 32768)) (BitVec.ofNat 7 (w / 256)))
  else none

/-- Major 0x47: SHFL. -/
def decodeMajor47 (w : Nat) : Option Instr :=
  if w / 536870912 % 2 = 0 then some (.shfl (BitVec.ofNat 2 (w / 1073741824)) (BitVec.ofNat 7 (w / 4194304)) (BitVec.ofNat 7 (w / 32768)) (BitVec.ofNat 7 (w / 256)))
  else none

/-- Major 0x48: BALLOT, VOTE_ANY, VOTE_ALL, VOTE_UNI, REDUX_IADD, REDUX_IMINS, REDUX_IMAXS, REDUX_IMINN, REDUX_IMAXN, REDUX_AND, REDUX_OR, REDUX_XOR, REDUX_FADD, REDUX_FMAX, MATCH, READLANE. -/
def decodeMajor48 (w : Nat) : Option Instr :=
  if w / 32768 % 128 = 0 ∧ w / 33554432 % 128 = 0 then some (.ballot (BitVec.ofNat 3 (w / 4194304)) (BitVec.ofNat 7 (w / 256)))
  else if w / 256 % 16384 = 0 ∧ w / 268435456 % 16 = 1 then some (.voteAny (BitVec.ofNat 3 (w / 33554432)) (BitVec.ofNat 3 (w / 4194304)))
  else if w / 256 % 16384 = 0 ∧ w / 268435456 % 16 = 2 then some (.voteAll (BitVec.ofNat 3 (w / 33554432)) (BitVec.ofNat 3 (w / 4194304)))
  else if w / 256 % 16384 = 0 ∧ w / 268435456 % 16 = 3 then some (.voteUni (BitVec.ofNat 3 (w / 33554432)) (BitVec.ofNat 3 (w / 4194304)))
  else if w / 4194304 % 1024 = 256 then some (.reduxIadd (BitVec.ofNat 7 (w / 32768)) (BitVec.ofNat 7 (w / 256)))
  else if w / 4194304 % 1024 = 320 then some (.reduxImins (BitVec.ofNat 7 (w / 32768)) (BitVec.ofNat 7 (w / 256)))
  else if w / 4194304 % 1024 = 384 then some (.reduxImaxs (BitVec.ofNat 7 (w / 32768)) (BitVec.ofNat 7 (w / 256)))
  else if w / 4194304 % 1024 = 448 then some (.reduxIminn (BitVec.ofNat 7 (w / 32768)) (BitVec.ofNat 7 (w / 256)))
  else if w / 4194304 % 1024 = 512 then some (.reduxImaxn (BitVec.ofNat 7 (w / 32768)) (BitVec.ofNat 7 (w / 256)))
  else if w / 4194304 % 1024 = 576 then some (.reduxAnd (BitVec.ofNat 7 (w / 32768)) (BitVec.ofNat 7 (w / 256)))
  else if w / 4194304 % 1024 = 640 then some (.reduxOr (BitVec.ofNat 7 (w / 32768)) (BitVec.ofNat 7 (w / 256)))
  else if w / 4194304 % 1024 = 704 then some (.reduxXor (BitVec.ofNat 7 (w / 32768)) (BitVec.ofNat 7 (w / 256)))
  else if w / 4194304 % 1024 = 768 then some (.reduxFadd (BitVec.ofNat 7 (w / 32768)) (BitVec.ofNat 7 (w / 256)))
  else if w / 4194304 % 1024 = 832 then some (.reduxFmax (BitVec.ofNat 7 (w / 32768)) (BitVec.ofNat 7 (w / 256)))
  else if w / 4194304 % 8 = 0 ∧ w / 268435456 % 16 = 14 then some (.matchLanes (BitVec.ofNat 3 (w / 33554432)) (BitVec.ofNat 7 (w / 32768)) (BitVec.ofNat 7 (w / 256)))
  else if w / 134217728 % 32 = 30 then some (.readlane (BitVec.ofNat 5 (w / 4194304)) (BitVec.ofNat 7 (w / 32768)) (BitVec.ofNat 7 (w / 256)))
  else none

/-- Major 0x49: TMOV_TO_REG, TMOV_TO_TILE. -/
def decodeMajor49 (w : Nat) : Option Instr :=
  if w / 8192 % 2 = 0 then some (.tmovToReg (BitVec.ofNat 6 (w / 67108864)) (BitVec.ofNat 1 (w / 33554432)) (BitVec.ofNat 6 (w / 524288)) (BitVec.ofNat 5 (w / 16384)) (BitVec.ofNat 5 (w / 256)))
  else if w / 8192 % 2 = 1 then some (.tmovToTile (BitVec.ofNat 6 (w / 67108864)) (BitVec.ofNat 1 (w / 33554432)) (BitVec.ofNat 6 (w / 524288)) (BitVec.ofNat 5 (w / 16384)) (BitVec.ofNat 5 (w / 256)))
  else none

/-- Major 0x4A: TZERO, TLDT, TSTT, TEPI. -/
def decodeMajor4A (w : Nat) : Option Instr :=
  if w / 256 % 65536 = 0 ∧ w / 1073741824 % 4 = 0 then some (.tzero (BitVec.ofNat 6 (w / 16777216)))
  else if w / 256 % 16 = 0 ∧ w / 1073741824 % 4 = 1 then some (.tldt (BitVec.ofNat 6 (w / 16777216)) (BitVec.ofNat 6 (w / 262144)) (BitVec.ofNat 6 (w / 4096)))
  else if w / 256 % 16 = 0 ∧ w / 1073741824 % 4 = 2 then some (.tstt (BitVec.ofNat 6 (w / 16777216)) (BitVec.ofNat 6 (w / 262144)) (BitVec.ofNat 6 (w / 4096)))
  else if w / 256 % 2 = 0 ∧ w / 1073741824 % 4 = 3 then some (.tepi (BitVec.ofNat 6 (w / 16777216)) (BitVec.ofNat 6 (w / 262144)) (BitVec.ofNat 6 (w / 4096)) (BitVec.ofNat 3 (w / 512)))
  else none

/-- Major 0x4B: MMA, MMA_F16, MMA_BF16. -/
def decodeMajor4B (w : Nat) : Option Instr :=
  if w / 16384 % 2 = 0 then some (.mma (BitVec.ofNat 6 (w / 67108864)) (BitVec.ofNat 5 (w / 2097152)) (BitVec.ofNat 3 (w / 262144)) (BitVec.ofNat 3 (w / 32768)) (BitVec.ofNat 1 (w / 8192)) (BitVec.ofNat 1 (w / 4096)) (BitVec.ofNat 1 (w / 2048)) (BitVec.ofNat 3 (w / 256)))
  else if w / 8192 % 256 = 2 then some (.mmaF16 (BitVec.ofNat 6 (w / 67108864)) (BitVec.ofNat 5 (w / 2097152)) (BitVec.ofNat 1 (w / 4096)) (BitVec.ofNat 1 (w / 2048)) (BitVec.ofNat 3 (w / 256)))
  else if w / 8192 % 256 = 6 then some (.mmaBf16 (BitVec.ofNat 6 (w / 67108864)) (BitVec.ofNat 5 (w / 2097152)) (BitVec.ofNat 1 (w / 4096)) (BitVec.ofNat 1 (w / 2048)) (BitVec.ofNat 3 (w / 256)))
  else none

/-- Major 0x4C: RCFG, RWAIT_F, RWAIT_E, RREL, RARV, RSTAT. -/
def decodeMajor4C (w : Nat) : Option Instr :=
  if w / 1048576 % 32 = 0 ∧ w / 268435456 % 16 = 0 then some (.rcfg (BitVec.ofNat 3 (w / 33554432)) (BitVec.ofNat 6 (w / 16384)) (BitVec.ofNat 6 (w / 256)))
  else if w / 256 % 64 = 0 ∧ w / 268435456 % 16 = 1 then some (.rwaitF (BitVec.ofNat 3 (w / 33554432)) (BitVec.ofNat 1 (w / 16777216)) (BitVec.ofNat 4 (w / 1048576)) (BitVec.ofNat 6 (w / 16384)))
  else if w / 256 % 64 = 0 ∧ w / 268435456 % 16 = 2 then some (.rwaitE (BitVec.ofNat 3 (w / 33554432)) (BitVec.ofNat 1 (w / 16777216)) (BitVec.ofNat 4 (w / 1048576)) (BitVec.ofNat 6 (w / 16384)))
  else if w / 256 % 64 = 0 ∧ w / 16777216 % 2 = 0 ∧ w / 268435456 % 16 = 3 then some (.rrel (BitVec.ofNat 3 (w / 33554432)) (BitVec.ofNat 4 (w / 1048576)) (BitVec.ofNat 6 (w / 16384)))
  else if w / 256 % 64 = 0 ∧ w / 16777216 % 2 = 0 ∧ w / 268435456 % 16 = 4 then some (.rarv (BitVec.ofNat 3 (w / 33554432)) (BitVec.ofNat 4 (w / 1048576)) (BitVec.ofNat 6 (w / 16384)))
  else if w / 1048576 % 32 = 0 ∧ w / 268435456 % 16 = 5 then some (.rstat (BitVec.ofNat 3 (w / 33554432)) (BitVec.ofNat 6 (w / 16384)) (BitVec.ofNat 6 (w / 256)))
  else none

/-- Major 0x4D: BAR, BAR_P, BAR_ARV, BAR_P_ARV. -/
def decodeMajor4D (w : Nat) : Option Instr :=
  if w / 256 % 65536 = 0 ∧ w / 268435456 % 16 = 0 then some (.bar (BitVec.ofNat 4 (w / 16777216)))
  else if w / 256 % 65536 = 0 ∧ w / 67108864 % 64 = 4 then some (.barP (BitVec.ofNat 2 (w / 16777216)))
  else if w / 256 % 65536 = 0 ∧ w / 268435456 % 16 = 2 then some (.barArv (BitVec.ofNat 4 (w / 16777216)))
  else if w / 256 % 65536 = 0 ∧ w / 67108864 % 64 = 12 then some (.barPArv (BitVec.ofNat 2 (w / 16777216)))
  else none

/-- Major 0x4E: FDSET, FDGET. -/
def decodeMajor4E (w : Nat) : Option Instr :=
  if w / 256 % 64 = 0 ∧ w / 1048576 % 32 = 0 ∧ w / 268435456 % 16 = 0 then some (.fdset (BitVec.ofNat 3 (w / 33554432)) (BitVec.ofNat 6 (w / 16384)))
  else if w / 16384 % 2048 = 0 ∧ w / 268435456 % 16 = 1 then some (.fdget (BitVec.ofNat 3 (w / 33554432)) (BitVec.ofNat 6 (w / 256)))
  else none

/-- Major 0x50: SADD, SSUB, SMUL, SMULHN, SAND, SOR, SXOR, SSHL, SSHRL, SSHRA, SMINS, SMAXS, SMINN, SMAXN, SMOV. -/
def decodeMajor50 (w : Nat) : Option Instr :=
  if w / 67108864 % 64 = 0 then some (.sadd (BitVec.ofNat 6 (w / 1048576)) (BitVec.ofNat 6 (w / 16384)) (BitVec.ofNat 6 (w / 256)))
  else if w / 67108864 % 64 = 1 then some (.ssub (BitVec.ofNat 6 (w / 1048576)) (BitVec.ofNat 6 (w / 16384)) (BitVec.ofNat 6 (w / 256)))
  else if w / 67108864 % 64 = 2 then some (.smul (BitVec.ofNat 6 (w / 1048576)) (BitVec.ofNat 6 (w / 16384)) (BitVec.ofNat 6 (w / 256)))
  else if w / 67108864 % 64 = 3 then some (.smulhn (BitVec.ofNat 6 (w / 1048576)) (BitVec.ofNat 6 (w / 16384)) (BitVec.ofNat 6 (w / 256)))
  else if w / 67108864 % 64 = 4 then some (.sand (BitVec.ofNat 6 (w / 1048576)) (BitVec.ofNat 6 (w / 16384)) (BitVec.ofNat 6 (w / 256)))
  else if w / 67108864 % 64 = 5 then some (.sor (BitVec.ofNat 6 (w / 1048576)) (BitVec.ofNat 6 (w / 16384)) (BitVec.ofNat 6 (w / 256)))
  else if w / 67108864 % 64 = 6 then some (.sxor (BitVec.ofNat 6 (w / 1048576)) (BitVec.ofNat 6 (w / 16384)) (BitVec.ofNat 6 (w / 256)))
  else if w / 67108864 % 64 = 7 then some (.sshl (BitVec.ofNat 6 (w / 1048576)) (BitVec.ofNat 6 (w / 16384)) (BitVec.ofNat 6 (w / 256)))
  else if w / 67108864 % 64 = 8 then some (.sshrl (BitVec.ofNat 6 (w / 1048576)) (BitVec.ofNat 6 (w / 16384)) (BitVec.ofNat 6 (w / 256)))
  else if w / 67108864 % 64 = 9 then some (.sshra (BitVec.ofNat 6 (w / 1048576)) (BitVec.ofNat 6 (w / 16384)) (BitVec.ofNat 6 (w / 256)))
  else if w / 67108864 % 64 = 10 then some (.smins (BitVec.ofNat 6 (w / 1048576)) (BitVec.ofNat 6 (w / 16384)) (BitVec.ofNat 6 (w / 256)))
  else if w / 67108864 % 64 = 11 then some (.smaxs (BitVec.ofNat 6 (w / 1048576)) (BitVec.ofNat 6 (w / 16384)) (BitVec.ofNat 6 (w / 256)))
  else if w / 67108864 % 64 = 12 then some (.sminn (BitVec.ofNat 6 (w / 1048576)) (BitVec.ofNat 6 (w / 16384)) (BitVec.ofNat 6 (w / 256)))
  else if w / 67108864 % 64 = 13 then some (.smaxn (BitVec.ofNat 6 (w / 1048576)) (BitVec.ofNat 6 (w / 16384)) (BitVec.ofNat 6 (w / 256)))
  else if w / 1048576 % 4096 = 896 then some (.smov (BitVec.ofNat 6 (w / 16384)) (BitVec.ofNat 6 (w / 256)))
  else none

/-- Major 0x51: SADDI. -/
def decodeMajor51 (w : Nat) : Option Instr :=
  some (.saddi (BitVec.ofNat 18 (w / 16384)) (BitVec.ofNat 6 (w / 256)))

/-- Major 0x52: SLIT. -/
def decodeMajor52 (w : Nat) : Option Instr :=
  some (.slit (BitVec.ofNat 18 (w / 16384)) (BitVec.ofNat 6 (w / 256)))

/-- Major 0x53: SHI. -/
def decodeMajor53 (w : Nat) : Option Instr :=
  if w / 268435456 % 16 = 0 then some (.shi (BitVec.ofNat 14 (w / 16384)) (BitVec.ofNat 6 (w / 256)))
  else none

/-- Major 0x54: SCMP. -/
def decodeMajor54 (w : Nat) : Option Instr :=
  if w / 256 % 8 = 0 ∧ w / 536870912 % 4 = 0 then some (.scmp (BitVec.ofNat 1 (w / 2147483648)) (BitVec.ofNat 3 (w / 67108864)) (BitVec.ofNat 6 (w / 1048576)) (BitVec.ofNat 6 (w / 16384)) (BitVec.ofNat 3 (w / 2048)))
  else none

/-- Major 0x55: V2S_FIRST, V2S_LANE. -/
def decodeMajor55 (w : Nat) : Option Instr :=
  if w / 16384 % 2 = 0 ∧ w / 4194304 % 1024 = 0 then some (.v2sFirst (BitVec.ofNat 7 (w / 32768)) (BitVec.ofNat 6 (w / 256)))
  else if w / 16384 % 2 = 0 ∧ w / 134217728 % 32 = 8 then some (.v2sLane (BitVec.ofNat 5 (w / 4194304)) (BitVec.ofNat 7 (w / 32768)) (BitVec.ofNat 6 (w / 256)))
  else none

/-- Major 0x56: SSR, SSW, SSET, SCLR. -/
def decodeMajor56 (w : Nat) : Option Instr :=
  if w / 16384 % 64 = 0 ∧ w / 67108864 % 64 = 0 then some (.ssr (BitVec.ofNat 6 (w / 1048576)) (BitVec.ofNat 6 (w / 256)))
  else if w / 256 % 64 = 0 ∧ w / 67108864 % 64 = 16 then some (.ssw (BitVec.ofNat 6 (w / 1048576)) (BitVec.ofNat 6 (w / 16384)))
  else if w / 256 % 64 = 0 ∧ w / 1048576 % 4096 = 2056 then some (.sset (BitVec.ofNat 6 (w / 16384)))
  else if w / 256 % 64 = 0 ∧ w / 1048576 % 4096 = 3080 then some (.sclr (BitVec.ofNat 6 (w / 16384)))
  else none

/-- Major 0x58: LDS. -/
def decodeMajor58 (w : Nat) : Option Instr :=
  some (.lds (BitVec.ofNat 1 (w / 2147483648)) (BitVec.ofNat 3 (w / 268435456)) (BitVec.ofNat 6 (w / 4194304)) (BitVec.ofNat 7 (w / 32768)) (BitVec.ofNat 7 (w / 256)))

/-- Major 0x59: STS. -/
def decodeMajor59 (w : Nat) : Option Instr :=
  some (.sts (BitVec.ofNat 1 (w / 2147483648)) (BitVec.ofNat 3 (w / 268435456)) (BitVec.ofNat 6 (w / 4194304)) (BitVec.ofNat 7 (w / 32768)) (BitVec.ofNat 7 (w / 256)))

/-- Major 0x5A: LDT. -/
def decodeMajor5A (w : Nat) : Option Instr :=
  some (.ldt (BitVec.ofNat 1 (w / 2147483648)) (BitVec.ofNat 3 (w / 268435456)) (BitVec.ofNat 6 (w / 4194304)) (BitVec.ofNat 7 (w / 32768)) (BitVec.ofNat 7 (w / 256)))

/-- Major 0x5B: STT. -/
def decodeMajor5B (w : Nat) : Option Instr :=
  some (.stt (BitVec.ofNat 1 (w / 2147483648)) (BitVec.ofNat 3 (w / 268435456)) (BitVec.ofNat 6 (w / 4194304)) (BitVec.ofNat 7 (w / 32768)) (BitVec.ofNat 7 (w / 256)))

/-- Major 0x5C: LDRO. -/
def decodeMajor5C (w : Nat) : Option Instr :=
  some (.ldro (BitVec.ofNat 1 (w / 2147483648)) (BitVec.ofNat 3 (w / 268435456)) (BitVec.ofNat 6 (w / 4194304)) (BitVec.ofNat 7 (w / 32768)) (BitVec.ofNat 7 (w / 256)))

/-- Major 0x5D: ATS_ADD, ATS_ADD64, ATS_MINS, ATS_MAXS, ATS_MINN. -/
def decodeMajor5D (w : Nat) : Option Instr :=
  if w / 256 % 2 = 0 ∧ w / 268435456 % 8 = 0 then some (.atsAdd (BitVec.ofNat 1 (w / 2147483648)) (BitVec.ofNat 7 (w / 2097152)) (BitVec.ofNat 7 (w / 16384)) (BitVec.ofNat 5 (w / 512)))
  else if w / 256 % 2 = 0 ∧ w / 268435456 % 8 = 4 then some (.atsAdd64 (BitVec.ofNat 1 (w / 2147483648)) (BitVec.ofNat 7 (w / 2097152)) (BitVec.ofNat 7 (w / 16384)) (BitVec.ofNat 5 (w / 512)))
  else if w / 256 % 2 = 0 ∧ w / 268435456 % 8 = 1 then some (.atsMins (BitVec.ofNat 1 (w / 2147483648)) (BitVec.ofNat 7 (w / 2097152)) (BitVec.ofNat 7 (w / 16384)) (BitVec.ofNat 5 (w / 512)))
  else if w / 256 % 2 = 0 ∧ w / 268435456 % 8 = 2 then some (.atsMaxs (BitVec.ofNat 1 (w / 2147483648)) (BitVec.ofNat 7 (w / 2097152)) (BitVec.ofNat 7 (w / 16384)) (BitVec.ofNat 5 (w / 512)))
  else if w / 256 % 2 = 0 ∧ w / 268435456 % 8 = 3 then some (.atsMinn (BitVec.ofNat 1 (w / 2147483648)) (BitVec.ofNat 7 (w / 2097152)) (BitVec.ofNat 7 (w / 16384)) (BitVec.ofNat 5 (w / 512)))
  else none

/-- Major 0x5E: ATS_MAXN, ATS_AND, ATS_OR, ATS_XOR. -/
def decodeMajor5E (w : Nat) : Option Instr :=
  if w / 256 % 2 = 0 ∧ w / 268435456 % 8 = 0 then some (.atsMaxn (BitVec.ofNat 1 (w / 2147483648)) (BitVec.ofNat 7 (w / 2097152)) (BitVec.ofNat 7 (w / 16384)) (BitVec.ofNat 5 (w / 512)))
  else if w / 256 % 2 = 0 ∧ w / 268435456 % 8 = 1 then some (.atsAnd (BitVec.ofNat 1 (w / 2147483648)) (BitVec.ofNat 7 (w / 2097152)) (BitVec.ofNat 7 (w / 16384)) (BitVec.ofNat 5 (w / 512)))
  else if w / 256 % 2 = 0 ∧ w / 268435456 % 8 = 2 then some (.atsOr (BitVec.ofNat 1 (w / 2147483648)) (BitVec.ofNat 7 (w / 2097152)) (BitVec.ofNat 7 (w / 16384)) (BitVec.ofNat 5 (w / 512)))
  else if w / 256 % 2 = 0 ∧ w / 268435456 % 8 = 3 then some (.atsXor (BitVec.ofNat 1 (w / 2147483648)) (BitVec.ofNat 7 (w / 2097152)) (BitVec.ofNat 7 (w / 16384)) (BitVec.ofNat 5 (w / 512)))
  else none

/-- Major 0x5F: ATS_EXCH, ATS_EXCH64, ATS_CAS, ATS_CAS64, ATS_INCW. -/
def decodeMajor5F (w : Nat) : Option Instr :=
  if w / 256 % 2 = 0 ∧ w / 268435456 % 8 = 0 then some (.atsExch (BitVec.ofNat 1 (w / 2147483648)) (BitVec.ofNat 7 (w / 2097152)) (BitVec.ofNat 7 (w / 16384)) (BitVec.ofNat 5 (w / 512)))
  else if w / 256 % 2 = 0 ∧ w / 268435456 % 8 = 4 then some (.atsExch64 (BitVec.ofNat 1 (w / 2147483648)) (BitVec.ofNat 7 (w / 2097152)) (BitVec.ofNat 7 (w / 16384)) (BitVec.ofNat 5 (w / 512)))
  else if w / 256 % 2 = 0 ∧ w / 268435456 % 8 = 1 then some (.atsCas (BitVec.ofNat 1 (w / 2147483648)) (BitVec.ofNat 7 (w / 2097152)) (BitVec.ofNat 7 (w / 16384)) (BitVec.ofNat 5 (w / 512)))
  else if w / 256 % 2 = 0 ∧ w / 268435456 % 8 = 5 then some (.atsCas64 (BitVec.ofNat 1 (w / 2147483648)) (BitVec.ofNat 7 (w / 2097152)) (BitVec.ofNat 7 (w / 16384)) (BitVec.ofNat 5 (w / 512)))
  else if w / 256 % 2 = 0 ∧ w / 268435456 % 8 = 2 then some (.atsIncw (BitVec.ofNat 1 (w / 2147483648)) (BitVec.ofNat 7 (w / 2097152)) (BitVec.ofNat 7 (w / 16384)) (BitVec.ofNat 5 (w / 512)))
  else none

/-- Major 0x60: ATS_FADD, ATS_FADDB2, ATS_FMIN, ATS_FMAX. -/
def decodeMajor60 (w : Nat) : Option Instr :=
  if w / 256 % 2 = 0 ∧ w / 268435456 % 8 = 0 then some (.atsFadd (BitVec.ofNat 1 (w / 2147483648)) (BitVec.ofNat 7 (w / 2097152)) (BitVec.ofNat 7 (w / 16384)) (BitVec.ofNat 5 (w / 512)))
  else if w / 256 % 2 = 0 ∧ w / 268435456 % 8 = 1 then some (.atsFaddb2 (BitVec.ofNat 1 (w / 2147483648)) (BitVec.ofNat 7 (w / 2097152)) (BitVec.ofNat 7 (w / 16384)) (BitVec.ofNat 5 (w / 512)))
  else if w / 256 % 2 = 0 ∧ w / 268435456 % 8 = 2 then some (.atsFmin (BitVec.ofNat 1 (w / 2147483648)) (BitVec.ofNat 7 (w / 2097152)) (BitVec.ofNat 7 (w / 16384)) (BitVec.ofNat 5 (w / 512)))
  else if w / 256 % 2 = 0 ∧ w / 268435456 % 8 = 3 then some (.atsFmax (BitVec.ofNat 1 (w / 2147483648)) (BitVec.ofNat 7 (w / 2097152)) (BitVec.ofNat 7 (w / 16384)) (BitVec.ofNat 5 (w / 512)))
  else none

/-- Major 0x61: ATT_ADD, ATT_ADD64, ATT_MINS, ATT_MAXS, ATT_MINN. -/
def decodeMajor61 (w : Nat) : Option Instr :=
  if w / 256 % 2 = 0 ∧ w / 268435456 % 8 = 0 then some (.attAdd (BitVec.ofNat 1 (w / 2147483648)) (BitVec.ofNat 7 (w / 2097152)) (BitVec.ofNat 7 (w / 16384)) (BitVec.ofNat 5 (w / 512)))
  else if w / 256 % 2 = 0 ∧ w / 268435456 % 8 = 4 then some (.attAdd64 (BitVec.ofNat 1 (w / 2147483648)) (BitVec.ofNat 7 (w / 2097152)) (BitVec.ofNat 7 (w / 16384)) (BitVec.ofNat 5 (w / 512)))
  else if w / 256 % 2 = 0 ∧ w / 268435456 % 8 = 1 then some (.attMins (BitVec.ofNat 1 (w / 2147483648)) (BitVec.ofNat 7 (w / 2097152)) (BitVec.ofNat 7 (w / 16384)) (BitVec.ofNat 5 (w / 512)))
  else if w / 256 % 2 = 0 ∧ w / 268435456 % 8 = 2 then some (.attMaxs (BitVec.ofNat 1 (w / 2147483648)) (BitVec.ofNat 7 (w / 2097152)) (BitVec.ofNat 7 (w / 16384)) (BitVec.ofNat 5 (w / 512)))
  else if w / 256 % 2 = 0 ∧ w / 268435456 % 8 = 3 then some (.attMinn (BitVec.ofNat 1 (w / 2147483648)) (BitVec.ofNat 7 (w / 2097152)) (BitVec.ofNat 7 (w / 16384)) (BitVec.ofNat 5 (w / 512)))
  else none

/-- Major 0x62: ATT_MAXN, ATT_AND, ATT_OR, ATT_XOR. -/
def decodeMajor62 (w : Nat) : Option Instr :=
  if w / 256 % 2 = 0 ∧ w / 268435456 % 8 = 0 then some (.attMaxn (BitVec.ofNat 1 (w / 2147483648)) (BitVec.ofNat 7 (w / 2097152)) (BitVec.ofNat 7 (w / 16384)) (BitVec.ofNat 5 (w / 512)))
  else if w / 256 % 2 = 0 ∧ w / 268435456 % 8 = 1 then some (.attAnd (BitVec.ofNat 1 (w / 2147483648)) (BitVec.ofNat 7 (w / 2097152)) (BitVec.ofNat 7 (w / 16384)) (BitVec.ofNat 5 (w / 512)))
  else if w / 256 % 2 = 0 ∧ w / 268435456 % 8 = 2 then some (.attOr (BitVec.ofNat 1 (w / 2147483648)) (BitVec.ofNat 7 (w / 2097152)) (BitVec.ofNat 7 (w / 16384)) (BitVec.ofNat 5 (w / 512)))
  else if w / 256 % 2 = 0 ∧ w / 268435456 % 8 = 3 then some (.attXor (BitVec.ofNat 1 (w / 2147483648)) (BitVec.ofNat 7 (w / 2097152)) (BitVec.ofNat 7 (w / 16384)) (BitVec.ofNat 5 (w / 512)))
  else none

/-- Major 0x63: ATT_EXCH, ATT_EXCH64, ATT_CAS, ATT_CAS64, ATT_INCW. -/
def decodeMajor63 (w : Nat) : Option Instr :=
  if w / 256 % 2 = 0 ∧ w / 268435456 % 8 = 0 then some (.attExch (BitVec.ofNat 1 (w / 2147483648)) (BitVec.ofNat 7 (w / 2097152)) (BitVec.ofNat 7 (w / 16384)) (BitVec.ofNat 5 (w / 512)))
  else if w / 256 % 2 = 0 ∧ w / 268435456 % 8 = 4 then some (.attExch64 (BitVec.ofNat 1 (w / 2147483648)) (BitVec.ofNat 7 (w / 2097152)) (BitVec.ofNat 7 (w / 16384)) (BitVec.ofNat 5 (w / 512)))
  else if w / 256 % 2 = 0 ∧ w / 268435456 % 8 = 1 then some (.attCas (BitVec.ofNat 1 (w / 2147483648)) (BitVec.ofNat 7 (w / 2097152)) (BitVec.ofNat 7 (w / 16384)) (BitVec.ofNat 5 (w / 512)))
  else if w / 256 % 2 = 0 ∧ w / 268435456 % 8 = 5 then some (.attCas64 (BitVec.ofNat 1 (w / 2147483648)) (BitVec.ofNat 7 (w / 2097152)) (BitVec.ofNat 7 (w / 16384)) (BitVec.ofNat 5 (w / 512)))
  else if w / 256 % 2 = 0 ∧ w / 268435456 % 8 = 2 then some (.attIncw (BitVec.ofNat 1 (w / 2147483648)) (BitVec.ofNat 7 (w / 2097152)) (BitVec.ofNat 7 (w / 16384)) (BitVec.ofNat 5 (w / 512)))
  else none

/-- Major 0x64: ATT_FADD, ATT_FADDB2, ATT_FMIN, ATT_FMAX. -/
def decodeMajor64 (w : Nat) : Option Instr :=
  if w / 256 % 2 = 0 ∧ w / 268435456 % 8 = 0 then some (.attFadd (BitVec.ofNat 1 (w / 2147483648)) (BitVec.ofNat 7 (w / 2097152)) (BitVec.ofNat 7 (w / 16384)) (BitVec.ofNat 5 (w / 512)))
  else if w / 256 % 2 = 0 ∧ w / 268435456 % 8 = 1 then some (.attFaddb2 (BitVec.ofNat 1 (w / 2147483648)) (BitVec.ofNat 7 (w / 2097152)) (BitVec.ofNat 7 (w / 16384)) (BitVec.ofNat 5 (w / 512)))
  else if w / 256 % 2 = 0 ∧ w / 268435456 % 8 = 2 then some (.attFmin (BitVec.ofNat 1 (w / 2147483648)) (BitVec.ofNat 7 (w / 2097152)) (BitVec.ofNat 7 (w / 16384)) (BitVec.ofNat 5 (w / 512)))
  else if w / 256 % 2 = 0 ∧ w / 268435456 % 8 = 3 then some (.attFmax (BitVec.ofNat 1 (w / 2147483648)) (BitVec.ofNat 7 (w / 2097152)) (BitVec.ofNat 7 (w / 16384)) (BitVec.ofNat 5 (w / 512)))
  else none

/-- Major 0x65: SPILL, FILL. -/
def decodeMajor65 (w : Nat) : Option Instr :=
  if w / 1073741824 % 4 = 0 then some (.spill (BitVec.ofNat 3 (w / 134217728)) (BitVec.ofNat 12 (w / 32768)) (BitVec.ofNat 7 (w / 256)))
  else if w / 1073741824 % 2 = 1 then some (.fill (BitVec.ofNat 1 (w / 2147483648)) (BitVec.ofNat 3 (w / 134217728)) (BitVec.ofNat 12 (w / 32768)) (BitVec.ofNat 7 (w / 256)))
  else none

/-- Major 0x66: PREF_L1, PREF_RO. -/
def decodeMajor66 (w : Nat) : Option Instr :=
  if w / 256 % 128 = 0 ∧ w / 268435456 % 16 = 0 then some (.prefL1 (BitVec.ofNat 6 (w / 4194304)) (BitVec.ofNat 7 (w / 32768)))
  else if w / 256 % 128 = 0 ∧ w / 268435456 % 16 = 1 then some (.prefRo (BitVec.ofNat 6 (w / 4194304)) (BitVec.ofNat 7 (w / 32768)))
  else none

/-- Major 0x68: CPY. -/
def decodeMajor68 (w : Nat) : Option Instr :=
  some (.cpy (BitVec.ofNat 1 (w / 2147483648)) (BitVec.ofNat 1 (w / 1073741824)) (BitVec.ofNat 1 (w / 536870912)) (BitVec.ofNat 3 (w / 67108864)) (BitVec.ofNat 6 (w / 1048576)) (BitVec.ofNat 6 (w / 16384)) (BitVec.ofNat 6 (w / 256)) (BitVec.ofNat 128 (w / 4294967296)))

/-- Major 0x69: CPYO. -/
def decodeMajor69 (w : Nat) : Option Instr :=
  some (.cpyo (BitVec.ofNat 1 (w / 2147483648)) (BitVec.ofNat 1 (w / 1073741824)) (BitVec.ofNat 1 (w / 536870912)) (BitVec.ofNat 3 (w / 67108864)) (BitVec.ofNat 6 (w / 1048576)) (BitVec.ofNat 6 (w / 16384)) (BitVec.ofNat 6 (w / 256)) (BitVec.ofNat 128 (w / 4294967296)))

/-- Major 0x6A: HBX_GATH, HBX_RDCE, HBX_CONV, HBX_FILLZ. -/
def decodeMajor6A (w : Nat) : Option Instr :=
  if w / 67108864 % 4 = 0 ∧ w / 268435456 % 4 = 0 then some (.hbxGath (BitVec.ofNat 1 (w / 2147483648)) (BitVec.ofNat 1 (w / 1073741824)) (BitVec.ofNat 6 (w / 1048576)) (BitVec.ofNat 6 (w / 16384)) (BitVec.ofNat 6 (w / 256)) (BitVec.ofNat 128 (w / 4294967296)))
  else if w / 67108864 % 4 = 0 ∧ w / 268435456 % 4 = 1 then some (.hbxRdce (BitVec.ofNat 1 (w / 2147483648)) (BitVec.ofNat 1 (w / 1073741824)) (BitVec.ofNat 6 (w / 1048576)) (BitVec.ofNat 6 (w / 16384)) (BitVec.ofNat 6 (w / 256)) (BitVec.ofNat 128 (w / 4294967296)))
  else if w / 67108864 % 4 = 0 ∧ w / 268435456 % 4 = 2 then some (.hbxConv (BitVec.ofNat 1 (w / 2147483648)) (BitVec.ofNat 1 (w / 1073741824)) (BitVec.ofNat 6 (w / 1048576)) (BitVec.ofNat 6 (w / 16384)) (BitVec.ofNat 6 (w / 256)) (BitVec.ofNat 128 (w / 4294967296)))
  else if w / 67108864 % 4 = 0 ∧ w / 268435456 % 4 = 3 then some (.hbxFillz (BitVec.ofNat 1 (w / 2147483648)) (BitVec.ofNat 1 (w / 1073741824)) (BitVec.ofNat 6 (w / 1048576)) (BitVec.ofNat 6 (w / 16384)) (BitVec.ofNat 6 (w / 256)) (BitVec.ofNat 128 (w / 4294967296)))
  else none

/-- Major 0x6B: CPYX_STAT, CPYX_CANCEL. -/
def decodeMajor6B (w : Nat) : Option Instr :=
  if w / 16384 % 256 = 0 ∧ w / 67108864 % 64 = 0 then some (.cpyxStat (BitVec.ofNat 4 (w / 4194304)) (BitVec.ofNat 6 (w / 256)))
  else if w / 256 % 16384 = 0 ∧ w / 67108864 % 64 = 1 then some (.cpyxCancel (BitVec.ofNat 4 (w / 4194304)))
  else none

/-- Major 0x6C: WMERGE. -/
def decodeMajor6C (w : Nat) : Option Instr :=
  if w / 67108864 % 8 = 0 then some (.wmerge (BitVec.ofNat 3 (w / 536870912)) (BitVec.ofNat 6 (w / 1048576)) (BitVec.ofNat 6 (w / 16384)) (BitVec.ofNat 6 (w / 256)))
  else none

/-- Major 0x6D: WREDUCE. -/
def decodeMajor6D (w : Nat) : Option Instr :=
  if w / 1048576 % 512 = 0 then some (.wreduce (BitVec.ofNat 3 (w / 536870912)) (BitVec.ofNat 6 (w / 16384)) (BitVec.ofNat 6 (w / 256)))
  else none

/-- Major 0x6E: WALL, WWAIT, WTEST. -/
def decodeMajor6E (w : Nat) : Option Instr :=
  if w / 16384 % 262144 = 0 then some (.wall (BitVec.ofNat 6 (w / 256)))
  else if w / 256 % 64 = 0 ∧ w / 1048576 % 4096 = 1024 then some (.wwait (BitVec.ofNat 6 (w / 16384)))
  else if w / 256 % 64 = 0 ∧ w / 1048576 % 128 = 0 ∧ w / 1073741824 % 4 = 2 then some (.wtest (BitVec.ofNat 3 (w / 134217728)) (BitVec.ofNat 6 (w / 16384)))
  else none

/-- Major 0x70: QRES, QRES_A. -/
def decodeMajor70 (w : Nat) : Option Instr :=
  if w / 1048576 % 16 = 0 ∧ w / 536870912 % 2 = 0 then some (.qres (BitVec.ofNat 1 (w / 2147483648)) (BitVec.ofNat 1 (w / 1073741824)) (BitVec.ofNat 5 (w / 16777216)) (BitVec.ofNat 6 (w / 16384)) (BitVec.ofNat 6 (w / 256)))
  else if w / 1048576 % 1024 = 512 then some (.qresA (BitVec.ofNat 1 (w / 2147483648)) (BitVec.ofNat 1 (w / 1073741824)) (BitVec.ofNat 6 (w / 16384)) (BitVec.ofNat 6 (w / 256)))
  else none

/-- Major 0x71: QENQ_L, QENQ_G, QENQ_M. -/
def decodeMajor71 (w : Nat) : Option Instr :=
  if w / 256 % 16 = 0 ∧ w / 1073741824 % 4 = 0 then some (.qenqL (BitVec.ofNat 5 (w / 33554432)) (BitVec.ofNat 7 (w / 262144)) (BitVec.ofNat 6 (w / 4096)))
  else if w / 256 % 16 = 0 ∧ w / 1073741824 % 4 = 1 then some (.qenqG (BitVec.ofNat 5 (w / 33554432)) (BitVec.ofNat 7 (w / 262144)) (BitVec.ofNat 6 (w / 4096)))
  else if w / 256 % 16 = 0 ∧ w / 16777216 % 2 = 0 ∧ w / 1073741824 % 4 = 2 then some (.qenqM (BitVec.ofNat 5 (w / 33554432)) (BitVec.ofNat 6 (w / 262144)) (BitVec.ofNat 6 (w / 4096)))
  else none

/-- Major 0x72: QPOST_L, QPOST_G, QPOST_M. -/
def decodeMajor72 (w : Nat) : Option Instr :=
  if w / 256 % 16 = 0 ∧ w / 33554432 % 128 = 0 then some (.qpostL (BitVec.ofNat 7 (w / 262144)) (BitVec.ofNat 6 (w / 4096)))
  else if w / 256 % 16 = 0 ∧ w / 33554432 % 128 = 32 then some (.qpostG (BitVec.ofNat 7 (w / 262144)) (BitVec.ofNat 6 (w / 4096)))
  else if w / 256 % 16 = 0 ∧ w / 16777216 % 256 = 128 then some (.qpostM (BitVec.ofNat 6 (w / 262144)) (BitVec.ofNat 6 (w / 4096)))
  else none

/-- Major 0x73: QDEQ_L, QDEQ_G, QDEQ_M. -/
def decodeMajor73 (w : Nat) : Option Instr :=
  if w / 268435456 % 4 = 0 then some (.qdeqL (BitVec.ofNat 1 (w / 2147483648)) (BitVec.ofNat 1 (w / 1073741824)) (BitVec.ofNat 3 (w / 33554432)) (BitVec.ofNat 7 (w / 262144)) (BitVec.ofNat 6 (w / 4096)) (BitVec.ofNat 4 (w / 256)))
  else if w / 268435456 % 4 = 1 then some (.qdeqG (BitVec.ofNat 1 (w / 2147483648)) (BitVec.ofNat 1 (w / 1073741824)) (BitVec.ofNat 3 (w / 33554432)) (BitVec.ofNat 7 (w / 262144)) (BitVec.ofNat 6 (w / 4096)) (BitVec.ofNat 4 (w / 256)))
  else if w / 16777216 % 2 = 0 ∧ w / 268435456 % 4 = 2 then some (.qdeqM (BitVec.ofNat 1 (w / 2147483648)) (BitVec.ofNat 1 (w / 1073741824)) (BitVec.ofNat 3 (w / 33554432)) (BitVec.ofNat 6 (w / 262144)) (BitVec.ofNat 6 (w / 4096)) (BitVec.ofNat 4 (w / 256)))
  else none

/-- Major 0x74: QWAIT, QFLUSH, QVOID, QSTAT. -/
def decodeMajor74 (w : Nat) : Option Instr :=
  if w / 256 % 128 = 0 ∧ w / 134217728 % 32 = 0 then some (.qwait (BitVec.ofNat 6 (w / 2097152)) (BitVec.ofNat 6 (w / 32768)))
  else if w / 256 % 2 = 0 ∧ w / 2097152 % 256 = 0 ∧ w / 1073741824 % 4 = 1 then some (.qflush (BitVec.ofNat 1 (w / 536870912)) (BitVec.ofNat 6 (w / 32768)) (BitVec.ofNat 6 (w / 512)))
  else if w / 256 % 128 = 0 ∧ w / 134217728 % 32 = 16 then some (.qvoid (BitVec.ofNat 6 (w / 2097152)) (BitVec.ofNat 6 (w / 32768)))
  else if w / 256 % 2 = 0 ∧ w / 134217728 % 4 = 0 ∧ w / 1073741824 % 4 = 3 then some (.qstat (BitVec.ofNat 1 (w / 536870912)) (BitVec.ofNat 6 (w / 2097152)) (BitVec.ofNat 6 (w / 32768)) (BitVec.ofNat 6 (w / 512)))
  else none

/-- Major 0x76: BR, BR_RG. -/
noncomputable def decodeMajor76 (w : Nat) : Option Instr :=
  if w / 4096 % 2 = 0 then some (.br (BitVec.ofNat 19 (w / 8192)) (BitVec.ofNat 1 (w / 2048)) (BitVec.ofNat 3 (w / 256)))
  else if w / 4096 % 2 = 1 then some (.brRg (BitVec.ofNat 19 (w / 8192)) (BitVec.ofNat 1 (w / 2048)) (BitVec.ofNat 3 (w / 256)))
  else none

/-- Major 0x77: BRU. -/
noncomputable def decodeMajor77 (w : Nat) : Option Instr :=
  some (.bru (BitVec.ofNat 19 (w / 8192)) (BitVec.ofNat 3 (w / 1024)) (BitVec.ofNat 2 (w / 256)))

/-- Major 0x78: JMP, CALL. -/
noncomputable def decodeMajor78 (w : Nat) : Option Instr :=
  if w / 256 % 2 = 0 then some (.jmp (BitVec.ofNat 23 (w / 512)))
  else if w / 256 % 2 = 1 then some (.call (BitVec.ofNat 23 (w / 512)))
  else none

/-- Major 0x79: JMPI, CALLI, RET. -/
noncomputable def decodeMajor79 (w : Nat) : Option Instr :=
  if w / 256 % 8192 = 0 ∧ w / 268435456 % 16 = 0 then some (.jmpi (BitVec.ofNat 7 (w / 2097152)))
  else if w / 256 % 8192 = 0 ∧ w / 268435456 % 16 = 1 then some (.calli (BitVec.ofNat 7 (w / 2097152)))
  else if w / 256 % 16777216 = 2097152 then some .ret
  else none

/-- Major 0x7A: JOIN, JOIN_O, REGROUP, YIELD, EXIT. -/
noncomputable def decodeMajor7A (w : Nat) : Option Instr :=
  if w / 268435456 % 16 = 0 then some (.join (BitVec.ofNat 20 (w / 256)))
  else if w / 256 % 16777216 = 1048576 then some .joinO
  else if w / 256 % 128 = 0 ∧ w / 268435456 % 16 = 2 then some (.regroup (BitVec.ofNat 7 (w / 2097152)) (BitVec.ofNat 6 (w / 32768)))
  else if w / 256 % 16777216 = 3145728 then some .yield
  else if w / 256 % 16777216 = 4194304 then some .exit
  else none

/-- Major 0x7B: TSEG, TSEG_ADDR, TSTAT, THINT. -/
noncomputable def decodeMajor7B (w : Nat) : Option Instr :=
  if w / 16384 % 262144 = 0 then some (.tseg (BitVec.ofNat 6 (w / 256)))
  else if w / 1048576 % 4096 = 16 then some (.tsegAddr (BitVec.ofNat 6 (w / 16384)) (BitVec.ofNat 6 (w / 256)))
  else if w / 1048576 % 16 = 0 ∧ w / 268435456 % 16 = 1 then some (.tstat (BitVec.ofNat 4 (w / 16777216)) (BitVec.ofNat 6 (w / 16384)) (BitVec.ofNat 6 (w / 256)))
  else if w / 256 % 65536 = 0 ∧ w / 268435456 % 16 = 2 then some (.thint (BitVec.ofNat 4 (w / 16777216)))
  else none

/-- Major 0x7E: TRAP, BKPT, CNTR, ISYNC, NOP32. -/
noncomputable def decodeMajor7E (w : Nat) : Option Instr :=
  if w / 268435456 % 16 = 0 then some (.trap (BitVec.ofNat 20 (w / 256)))
  else if w / 256 % 16777216 = 1048576 then some .bkpt
  else if w / 16384 % 2048 = 0 ∧ w / 268435456 % 16 = 2 then some (.cntr (BitVec.ofNat 3 (w / 33554432)) (BitVec.ofNat 6 (w / 256)))
  else if w / 256 % 16777216 = 3145728 then some .isync
  else if w / 256 % 16777216 = 4194304 then some .nop32
  else none

/-- The 32-bit words by major opcode (R38). -/
noncomputable def decodeMajor (m w : Nat) : Option Instr :=
  match m with
  | 0 => decodeMajor00 w
  | 1 => decodeMajor01 w
  | 2 => decodeMajor02 w
  | 3 => decodeMajor03 w
  | 4 => decodeMajor04 w
  | 5 => decodeMajor05 w
  | 6 => decodeMajor06 w
  | 7 => decodeMajor07 w
  | 8 => decodeMajor08 w
  | 9 => decodeMajor09 w
  | 10 => decodeMajor0A w
  | 11 => decodeMajor0B w
  | 12 => decodeMajor0C w
  | 13 => decodeMajor0D w
  | 14 => decodeMajor0E w
  | 15 => decodeMajor0F w
  | 16 => decodeMajor10 w
  | 17 => decodeMajor11 w
  | 24 => decodeMajor18 w
  | 25 => decodeMajor19 w
  | 26 => decodeMajor1A w
  | 27 => decodeMajor1B w
  | 28 => decodeMajor1C w
  | 29 => decodeMajor1D w
  | 30 => decodeMajor1E w
  | 31 => decodeMajor1F w
  | 32 => decodeMajor20 w
  | 33 => decodeMajor21 w
  | 34 => decodeMajor22 w
  | 35 => decodeMajor23 w
  | 36 => decodeMajor24 w
  | 37 => decodeMajor25 w
  | 38 => decodeMajor26 w
  | 39 => decodeMajor27 w
  | 40 => decodeMajor28 w
  | 41 => decodeMajor29 w
  | 42 => decodeMajor2A w
  | 43 => decodeMajor2B w
  | 44 => decodeMajor2C w
  | 45 => decodeMajor2D w
  | 48 => decodeMajor30 w
  | 49 => decodeMajor31 w
  | 50 => decodeMajor32 w
  | 51 => decodeMajor33 w
  | 52 => decodeMajor34 w
  | 53 => decodeMajor35 w
  | 54 => decodeMajor36 w
  | 55 => decodeMajor37 w
  | 56 => decodeMajor38 w
  | 57 => decodeMajor39 w
  | 60 => decodeMajor3C w
  | 61 => decodeMajor3D w
  | 62 => decodeMajor3E w
  | 63 => decodeMajor3F w
  | 64 => decodeMajor40 w
  | 65 => decodeMajor41 w
  | 66 => decodeMajor42 w
  | 67 => decodeMajor43 w
  | 68 => decodeMajor44 w
  | 69 => decodeMajor45 w
  | 70 => decodeMajor46 w
  | 71 => decodeMajor47 w
  | 72 => decodeMajor48 w
  | 73 => decodeMajor49 w
  | 74 => decodeMajor4A w
  | 75 => decodeMajor4B w
  | 76 => decodeMajor4C w
  | 77 => decodeMajor4D w
  | 78 => decodeMajor4E w
  | 80 => decodeMajor50 w
  | 81 => decodeMajor51 w
  | 82 => decodeMajor52 w
  | 83 => decodeMajor53 w
  | 84 => decodeMajor54 w
  | 85 => decodeMajor55 w
  | 86 => decodeMajor56 w
  | 88 => decodeMajor58 w
  | 89 => decodeMajor59 w
  | 90 => decodeMajor5A w
  | 91 => decodeMajor5B w
  | 92 => decodeMajor5C w
  | 93 => decodeMajor5D w
  | 94 => decodeMajor5E w
  | 95 => decodeMajor5F w
  | 96 => decodeMajor60 w
  | 97 => decodeMajor61 w
  | 98 => decodeMajor62 w
  | 99 => decodeMajor63 w
  | 100 => decodeMajor64 w
  | 101 => decodeMajor65 w
  | 102 => decodeMajor66 w
  | 104 => decodeMajor68 w
  | 105 => decodeMajor69 w
  | 106 => decodeMajor6A w
  | 107 => decodeMajor6B w
  | 108 => decodeMajor6C w
  | 109 => decodeMajor6D w
  | 110 => decodeMajor6E w
  | 112 => decodeMajor70 w
  | 113 => decodeMajor71 w
  | 114 => decodeMajor72 w
  | 115 => decodeMajor73 w
  | 116 => decodeMajor74 w
  | 118 => decodeMajor76 w
  | 119 => decodeMajor77 w
  | 120 => decodeMajor78 w
  | 121 => decodeMajor79 w
  | 122 => decodeMajor7A w
  | 123 => decodeMajor7B w
  | 126 => decodeMajor7E w
  | _ => none

/-- What the decoder says of the bits at an instruction position. -/
inductive Decoded where
  | ok (i : Instr) (len : Nat)
  | illegal (name : String) (len : Nat)
  deriving DecidableEq, Repr

/-- Decodes an instruction (R38, R39): reserved words are refused by name. -/
noncomputable def decode (w : Nat) : Decoded :=
  if w % 2 = 0 then
    match decodeShort w with
    | some i => .ok i 2
    | none => .illegal "short op 15 that is not NOP" 2
  else
    match decodeMajor (w / 2 % 128) w with
    | some i => .ok i (lengthOf w)
    | none => .illegal (if w / 2 % 128 = 127 then "clause header in an instruction position" else "reserved major, minor or field") (lengthOf w)

/-- The instruction the decoder reads from an instruction whose bits are w; the bits above nbits are zero. -/
noncomputable def decodeTableWord (nbits w : Nat) : Option Instr :=
  match decode (w % 2 ^ nbits) with
  | .ok i _ => some i
  | .illegal _ _ => none

/-- The words of an instruction, from the encoding tables; a device event has none. -/
def encode : Instr → Option Nat
  | .clauseBegin => none
  | .movShort l sl d => some (0 + l.toNat * 32768 + sl.toNat * 1024 + d.toNat * 32)
  | .iaddShort l sl d => some (2 + l.toNat * 32768 + sl.toNat * 1024 + d.toNat * 32)
  | .isubShort l sl d => some (4 + l.toNat * 32768 + sl.toNat * 1024 + d.toNat * 32)
  | .imulShort l sl d => some (6 + l.toNat * 32768 + sl.toNat * 1024 + d.toNat * 32)
  | .andShort l sl d => some (8 + l.toNat * 32768 + sl.toNat * 1024 + d.toNat * 32)
  | .orShort l sl d => some (10 + l.toNat * 32768 + sl.toNat * 1024 + d.toNat * 32)
  | .xorShort l sl d => some (12 + l.toNat * 32768 + sl.toNat * 1024 + d.toNat * 32)
  | .shlShort l sl d => some (14 + l.toNat * 32768 + sl.toNat * 1024 + d.toNat * 32)
  | .shrlShort l sl d => some (16 + l.toNat * 32768 + sl.toNat * 1024 + d.toNat * 32)
  | .shraShort l sl d => some (18 + l.toNat * 32768 + sl.toNat * 1024 + d.toNat * 32)
  | .faddShort l sl d => some (20 + l.toNat * 32768 + sl.toNat * 1024 + d.toNat * 32)
  | .fsubShort l sl d => some (22 + l.toNat * 32768 + sl.toNat * 1024 + d.toNat * 32)
  | .fmulShort l sl d => some (24 + l.toNat * 32768 + sl.toNat * 1024 + d.toNat * 32)
  | .fmaxShort l sl d => some (26 + l.toNat * 32768 + sl.toNat * 1024 + d.toNat * 32)
  | .fminShort l sl d => some (28 + l.toNat * 32768 + sl.toNat * 1024 + d.toNat * 32)
  | .nop => some (30)
  | .iadd g b a d => some (1 + g.toNat * 536870912 + b.toNat * 4194304 + a.toNat * 32768 + d.toNat * 256)
  | .isub g b a d => some (3 + g.toNat * 536870912 + b.toNat * 4194304 + a.toNat * 32768 + d.toNat * 256)
  | .imul g b a d => some (5 + g.toNat * 536870912 + b.toNat * 4194304 + a.toNat * 32768 + d.toNat * 256)
  | .imulhs g b a d => some (7 + g.toNat * 536870912 + b.toNat * 4194304 + a.toNat * 32768 + d.toNat * 256)
  | .imulhn g b a d => some (9 + g.toNat * 536870912 + b.toNat * 4194304 + a.toNat * 32768 + d.toNat * 256)
  | .imins g b a d => some (11 + g.toNat * 536870912 + b.toNat * 4194304 + a.toNat * 32768 + d.toNat * 256)
  | .imaxs g b a d => some (13 + g.toNat * 536870912 + b.toNat * 4194304 + a.toNat * 32768 + d.toNat * 256)
  | .iminn g b a d => some (15 + g.toNat * 536870912 + b.toNat * 4194304 + a.toNat * 32768 + d.toNat * 256)
  | .imaxn g b a d => some (17 + g.toNat * 536870912 + b.toNat * 4194304 + a.toNat * 32768 + d.toNat * 256)
  | .and g b a d => some (19 + g.toNat * 536870912 + b.toNat * 4194304 + a.toNat * 32768 + d.toNat * 256)
  | .or g b a d => some (21 + g.toNat * 536870912 + b.toNat * 4194304 + a.toNat * 32768 + d.toNat * 256)
  | .xor g b a d => some (23 + g.toNat * 536870912 + b.toNat * 4194304 + a.toNat * 32768 + d.toNat * 256)
  | .andn g b a d => some (25 + g.toNat * 536870912 + b.toNat * 4194304 + a.toNat * 32768 + d.toNat * 256)
  | .shl g b a d => some (27 + g.toNat * 536870912 + b.toNat * 4194304 + a.toNat * 32768 + d.toNat * 256)
  | .shrl g b a d => some (29 + g.toNat * 536870912 + b.toNat * 4194304 + a.toNat * 32768 + d.toNat * 256)
  | .shra g b a d => some (31 + g.toNat * 536870912 + b.toNat * 4194304 + a.toNat * 32768 + d.toNat * 256)
  | .rotl g b a d => some (33 + g.toNat * 536870912 + b.toNat * 4194304 + a.toNat * 32768 + d.toNat * 256)
  | .iabsd g b a d => some (35 + g.toNat * 536870912 + b.toNat * 4194304 + a.toNat * 32768 + d.toNat * 256)
  | .fadd g b a d => some (49 + g.toNat * 536870912 + b.toNat * 4194304 + a.toNat * 32768 + d.toNat * 256)
  | .fsub g b a d => some (51 + g.toNat * 536870912 + b.toNat * 4194304 + a.toNat * 32768 + d.toNat * 256)
  | .fmul g b a d => some (53 + g.toNat * 536870912 + b.toNat * 4194304 + a.toNat * 32768 + d.toNat * 256)
  | .fmac g b a d => some (55 + g.toNat * 536870912 + b.toNat * 4194304 + a.toNat * 32768 + d.toNat * 256)
  | .fmin g b a d => some (57 + g.toNat * 536870912 + b.toNat * 4194304 + a.toNat * 32768 + d.toNat * 256)
  | .fmax g b a d => some (59 + g.toNat * 536870912 + b.toNat * 4194304 + a.toNat * 32768 + d.toNat * 256)
  | .fcpys g b a d => some (61 + g.toNat * 536870912 + b.toNat * 4194304 + a.toNat * 32768 + d.toNat * 256)
  | .fscale g b a d => some (63 + g.toNat * 536870912 + b.toNat * 4194304 + a.toNat * 32768 + d.toNat * 256)
  | .hadd2 g b a d => some (65 + g.toNat * 536870912 + b.toNat * 4194304 + a.toNat * 32768 + d.toNat * 256)
  | .hsub2 g b a d => some (67 + g.toNat * 536870912 + b.toNat * 4194304 + a.toNat * 32768 + d.toNat * 256)
  | .hmul2 g b a d => some (69 + g.toNat * 536870912 + b.toNat * 4194304 + a.toNat * 32768 + d.toNat * 256)
  | .hfmac2 g b a d => some (71 + g.toNat * 536870912 + b.toNat * 4194304 + a.toNat * 32768 + d.toNat * 256)
  | .hmin2 g b a d => some (73 + g.toNat * 536870912 + b.toNat * 4194304 + a.toNat * 32768 + d.toNat * 256)
  | .hmax2 g b a d => some (75 + g.toNat * 536870912 + b.toNat * 4194304 + a.toNat * 32768 + d.toNat * 256)
  | .badd2 g b a d => some (77 + g.toNat * 536870912 + b.toNat * 4194304 + a.toNat * 32768 + d.toNat * 256)
  | .bsub2 g b a d => some (79 + g.toNat * 536870912 + b.toNat * 4194304 + a.toNat * 32768 + d.toNat * 256)
  | .bmul2 g b a d => some (81 + g.toNat * 536870912 + b.toNat * 4194304 + a.toNat * 32768 + d.toNat * 256)
  | .bfmac2 g b a d => some (83 + g.toNat * 536870912 + b.toNat * 4194304 + a.toNat * 32768 + d.toNat * 256)
  | .bmin2 g b a d => some (85 + g.toNat * 536870912 + b.toNat * 4194304 + a.toNat * 32768 + d.toNat * 256)
  | .bmax2 g b a d => some (87 + g.toNat * 536870912 + b.toNat * 4194304 + a.toNat * 32768 + d.toNat * 256)
  | .sel g b a d => some (89 + g.toNat * 536870912 + b.toNat * 4194304 + a.toNat * 32768 + d.toNat * 256)
  | .prmt g b a d => some (91 + g.toNat * 536870912 + b.toNat * 4194304 + a.toNat * 32768 + d.toNat * 256)
  | .iaddi im a d => some (97 + im.toNat * 4194304 + a.toNat * 32768 + d.toNat * 256)
  | .imuli im a d => some (99 + im.toNat * 4194304 + a.toNat * 32768 + d.toNat * 256)
  | .andi im a d => some (101 + im.toNat * 4194304 + a.toNat * 32768 + d.toNat * 256)
  | .ori im a d => some (103 + im.toNat * 4194304 + a.toNat * 32768 + d.toNat * 256)
  | .xori im a d => some (105 + im.toNat * 4194304 + a.toNat * 32768 + d.toNat * 256)
  | .shli c a d => some (107 + c.toNat * 4194304 + a.toNat * 32768 + d.toNat * 256)
  | .shrli c a d => some (109 + c.toNat * 4194304 + a.toNat * 32768 + d.toNat * 256)
  | .shrai c a d => some (111 + c.toNat * 4194304 + a.toNat * 32768 + d.toNat * 256)
  | .movi im d => some (113 + im.toNat * 4194304 + d.toNat * 256)
  | .movhi im a d => some (115 + im.toNat * 4194304 + a.toNat * 32768 + d.toNat * 256)
  | .icmps c g b a n p => some (121 + c.toNat * 2147483648 + g.toNat * 268435456 + b.toNat * 2097152 + a.toNat * 16384 + n.toNat * 2048 + p.toNat * 256)
  | .icmpn c g b a n p => some (123 + c.toNat * 2147483648 + g.toNat * 268435456 + b.toNat * 2097152 + a.toNat * 16384 + n.toNat * 2048 + p.toNat * 256)
  | .fcmp c g b a n p => some (125 + c.toNat * 2147483648 + g.toNat * 268435456 + b.toNat * 2097152 + a.toNat * 16384 + n.toNat * 2048 + p.toNat * 256)
  | .plop c g b a n p => some (127 + c.toNat * 2147483648 + g.toNat * 268435456 + b.toNat * 2097152 + a.toNat * 16384 + n.toNat * 2048 + p.toNat * 256)
  | .frcp g a d => some (129 + g.toNat * 268435456 + a.toNat * 32768 + d.toNat * 256)
  | .frsq g a d => some (4194433 + g.toNat * 268435456 + a.toNat * 32768 + d.toNat * 256)
  | .fsqrt g a d => some (8388737 + g.toNat * 268435456 + a.toNat * 32768 + d.toNat * 256)
  | .fexp2 g a d => some (12583041 + g.toNat * 268435456 + a.toNat * 32768 + d.toNat * 256)
  | .flog2 g a d => some (16777345 + g.toNat * 268435456 + a.toNat * 32768 + d.toNat * 256)
  | .fsin g a d => some (20971649 + g.toNat * 268435456 + a.toNat * 32768 + d.toNat * 256)
  | .fcos g a d => some (25165953 + g.toNat * 268435456 + a.toNat * 32768 + d.toNat * 256)
  | .ftanh g a d => some (29360257 + g.toNat * 268435456 + a.toNat * 32768 + d.toNat * 256)
  | .fabs g a d => some (33554561 + g.toNat * 268435456 + a.toNat * 32768 + d.toNat * 256)
  | .fneg g a d => some (37748865 + g.toNat * 268435456 + a.toNat * 32768 + d.toNat * 256)
  | .ffloor g a d => some (41943169 + g.toNat * 268435456 + a.toNat * 32768 + d.toNat * 256)
  | .fceil g a d => some (46137473 + g.toNat * 268435456 + a.toNat * 32768 + d.toNat * 256)
  | .frint g a d => some (50331777 + g.toNat * 268435456 + a.toNat * 32768 + d.toNat * 256)
  | .fexpn g a d => some (54526081 + g.toNat * 268435456 + a.toNat * 32768 + d.toNat * 256)
  | .not g a d => some (131 + g.toNat * 268435456 + a.toNat * 32768 + d.toNat * 256)
  | .neg g a d => some (4194435 + g.toNat * 268435456 + a.toNat * 32768 + d.toNat * 256)
  | .abs g a d => some (8388739 + g.toNat * 268435456 + a.toNat * 32768 + d.toNat * 256)
  | .popc g a d => some (12583043 + g.toNat * 268435456 + a.toNat * 32768 + d.toNat * 256)
  | .clz g a d => some (16777347 + g.toNat * 268435456 + a.toNat * 32768 + d.toNat * 256)
  | .brev g a d => some (20971651 + g.toNat * 268435456 + a.toNat * 32768 + d.toNat * 256)
  | .sext8 g a d => some (25165955 + g.toNat * 268435456 + a.toNat * 32768 + d.toNat * 256)
  | .sext16 g a d => some (29360259 + g.toNat * 268435456 + a.toNat * 32768 + d.toNat * 256)
  | .cvtS32F32 g r a d => some (133 + g.toNat * 536870912 + r.toNat * 4194304 + a.toNat * 32768 + d.toNat * 256)
  | .cvtN32F32 g r a d => some (33554565 + g.toNat * 536870912 + r.toNat * 4194304 + a.toNat * 32768 + d.toNat * 256)
  | .cvtF32S32 g r a d => some (67108997 + g.toNat * 536870912 + r.toNat * 4194304 + a.toNat * 32768 + d.toNat * 256)
  | .cvtF32N32 g r a d => some (100663429 + g.toNat * 536870912 + r.toNat * 4194304 + a.toNat * 32768 + d.toNat * 256)
  | .cvtH2F32 g r a d => some (134217861 + g.toNat * 536870912 + r.toNat * 4194304 + a.toNat * 32768 + d.toNat * 256)
  | .cvtB2F32 g r a d => some (167772293 + g.toNat * 536870912 + r.toNat * 4194304 + a.toNat * 32768 + d.toNat * 256)
  | .cvtF32H2 g r a d => some (201326725 + g.toNat * 536870912 + r.toNat * 4194304 + a.toNat * 32768 + d.toNat * 256)
  | .cvtF32B2 g r a d => some (234881157 + g.toNat * 536870912 + r.toNat * 4194304 + a.toNat * 32768 + d.toNat * 256)
  | .cvtB2H2 g r a d => some (268435589 + g.toNat * 536870912 + r.toNat * 4194304 + a.toNat * 32768 + d.toNat * 256)
  | .cvtH2B2 g r a d => some (301990021 + g.toNat * 536870912 + r.toNat * 4194304 + a.toNat * 32768 + d.toNat * 256)
  | .qnt4 f b a d => some (135 + f.toNat * 536870912 + b.toNat * 4194304 + a.toNat * 32768 + d.toNat * 256)
  | .qnt8 f b a d => some (137 + f.toNat * 536870912 + b.toNat * 4194304 + a.toNat * 32768 + d.toNat * 256)
  | .dqnt4 f b a q => some (139 + f.toNat * 268435456 + b.toNat * 2097152 + a.toNat * 16384 + q.toNat * 512)
  | .dqnt8 f b a q => some (2147483787 + f.toNat * 268435456 + b.toNat * 2097152 + a.toNat * 16384 + q.toNat * 512)
  | .amax g sl l a d => some (141 + g.toNat * 536870912 + sl.toNat * 134217728 + l.toNat * 33554432 + a.toNat * 32768 + d.toNat * 256)
  | .shfl m b a d => some (143 + m.toNat * 1073741824 + b.toNat * 4194304 + a.toNat * 32768 + d.toNat * 256)
  | .ballot sl d => some (145 + sl.toNat * 4194304 + d.toNat * 256)
  | .voteAny p sl => some (268435601 + p.toNat * 33554432 + sl.toNat * 4194304)
  | .voteAll p sl => some (536871057 + p.toNat * 33554432 + sl.toNat * 4194304)
  | .voteUni p sl => some (805306513 + p.toNat * 33554432 + sl.toNat * 4194304)
  | .reduxIadd a d => some (1073741969 + a.toNat * 32768 + d.toNat * 256)
  | .reduxImins a d => some (1342177425 + a.toNat * 32768 + d.toNat * 256)
  | .reduxImaxs a d => some (1610612881 + a.toNat * 32768 + d.toNat * 256)
  | .reduxIminn a d => some (1879048337 + a.toNat * 32768 + d.toNat * 256)
  | .reduxImaxn a d => some (2147483793 + a.toNat * 32768 + d.toNat * 256)
  | .reduxAnd a d => some (2415919249 + a.toNat * 32768 + d.toNat * 256)
  | .reduxOr a d => some (2684354705 + a.toNat * 32768 + d.toNat * 256)
  | .reduxXor a d => some (2952790161 + a.toNat * 32768 + d.toNat * 256)
  | .reduxFadd a d => some (3221225617 + a.toNat * 32768 + d.toNat * 256)
  | .reduxFmax a d => some (3489661073 + a.toNat * 32768 + d.toNat * 256)
  | .matchLanes p a d => some (3758096529 + p.toNat * 33554432 + a.toNat * 32768 + d.toNat * 256)
  | .readlane k a d => some (4026531985 + k.toNat * 4194304 + a.toNat * 32768 + d.toNat * 256)
  | .tmovToReg t x sl im v => some (147 + t.toNat * 67108864 + x.toNat * 33554432 + sl.toNat * 524288 + im.toNat * 16384 + v.toNat * 256)
  | .tmovToTile t x sl im v => some (8339 + t.toNat * 67108864 + x.toNat * 33554432 + sl.toNat * 524288 + im.toNat * 16384 + v.toNat * 256)
  | .tzero t => some (149 + t.toNat * 16777216)
  | .tldt t a x => some (1073741973 + t.toNat * 16777216 + a.toNat * 262144 + x.toNat * 4096)
  | .tstt t a x => some (2147483797 + t.toNat * 16777216 + a.toNat * 262144 + x.toNat * 4096)
  | .tepi t a x f => some (3221225621 + t.toNat * 16777216 + a.toNat * 262144 + x.toNat * 4096 + f.toNat * 512)
  | .mma t sl b a c y r v => some (151 + t.toNat * 67108864 + sl.toNat * 2097152 + b.toNat * 262144 + a.toNat * 32768 + c.toNat * 8192 + y.toNat * 4096 + r.toNat * 2048 + v.toNat * 256)
  | .mmaF16 t sl y r v => some (16535 + t.toNat * 67108864 + sl.toNat * 2097152 + y.toNat * 4096 + r.toNat * 2048 + v.toNat * 256)
  | .mmaBf16 t sl y r v => some (49303 + t.toNat * 67108864 + sl.toNat * 2097152 + y.toNat * 4096 + r.toNat * 2048 + v.toNat * 256)
  | .rcfg k a b => some (153 + k.toNat * 33554432 + a.toNat * 16384 + b.toNat * 256)
  | .rcfgComplete _ => none
  | .rwaitF k p im a => some (268435609 + k.toNat * 33554432 + p.toNat * 16777216 + im.toNat * 1048576 + a.toNat * 16384)
  | .rwaitE k p im a => some (536871065 + k.toNat * 33554432 + p.toNat * 16777216 + im.toNat * 1048576 + a.toNat * 16384)
  | .rrel k im a => some (805306521 + k.toNat * 33554432 + im.toNat * 1048576 + a.toNat * 16384)
  | .rarv k im a => some (1073741977 + k.toNat * 33554432 + im.toNat * 1048576 + a.toNat * 16384)
  | .rstat k a b => some (1342177433 + k.toNat * 33554432 + a.toNat * 16384 + b.toNat * 256)
  | .bar im => some (155 + im.toNat * 16777216)
  | .barP im => some (268435611 + im.toNat * 16777216)
  | .barArv im => some (536871067 + im.toNat * 16777216)
  | .barPArv im => some (805306523 + im.toNat * 16777216)
  | .fdset f sl => some (157 + f.toNat * 33554432 + sl.toNat * 16384)
  | .fdget f d => some (268435613 + f.toNat * 33554432 + d.toNat * 256)
  | .sadd b a d => some (161 + b.toNat * 1048576 + a.toNat * 16384 + d.toNat * 256)
  | .ssub b a d => some (67109025 + b.toNat * 1048576 + a.toNat * 16384 + d.toNat * 256)
  | .smul b a d => some (134217889 + b.toNat * 1048576 + a.toNat * 16384 + d.toNat * 256)
  | .smulhn b a d => some (201326753 + b.toNat * 1048576 + a.toNat * 16384 + d.toNat * 256)
  | .sand b a d => some (268435617 + b.toNat * 1048576 + a.toNat * 16384 + d.toNat * 256)
  | .sor b a d => some (335544481 + b.toNat * 1048576 + a.toNat * 16384 + d.toNat * 256)
  | .sxor b a d => some (402653345 + b.toNat * 1048576 + a.toNat * 16384 + d.toNat * 256)
  | .sshl b a d => some (469762209 + b.toNat * 1048576 + a.toNat * 16384 + d.toNat * 256)
  | .sshrl b a d => some (536871073 + b.toNat * 1048576 + a.toNat * 16384 + d.toNat * 256)
  | .sshra b a d => some (603979937 + b.toNat * 1048576 + a.toNat * 16384 + d.toNat * 256)
  | .smins b a d => some (671088801 + b.toNat * 1048576 + a.toNat * 16384 + d.toNat * 256)
  | .smaxs b a d => some (738197665 + b.toNat * 1048576 + a.toNat * 16384 + d.toNat * 256)
  | .sminn b a d => some (805306529 + b.toNat * 1048576 + a.toNat * 16384 + d.toNat * 256)
  | .smaxn b a d => some (872415393 + b.toNat * 1048576 + a.toNat * 16384 + d.toNat * 256)
  | .smov a d => some (939524257 + a.toNat * 16384 + d.toNat * 256)
  | .saddi im d => some (163 + im.toNat * 16384 + d.toNat * 256)
  | .slit im d => some (165 + im.toNat * 16384 + d.toNat * 256)
  | .shi im d => some (167 + im.toNat * 16384 + d.toNat * 256)
  | .scmp n c b a p => some (169 + n.toNat * 2147483648 + c.toNat * 67108864 + b.toNat * 1048576 + a.toNat * 16384 + p.toNat * 2048)
  | .v2sFirst a d => some (171 + a.toNat * 32768 + d.toNat * 256)
  | .v2sLane k a d => some (1073741995 + k.toNat * 4194304 + a.toNat * 32768 + d.toNat * 256)
  | .ssr n d => some (173 + n.toNat * 1048576 + d.toNat * 256)
  | .ssw n sl => some (1073741997 + n.toNat * 1048576 + sl.toNat * 16384)
  | .sset sl => some (2155872429 + sl.toNat * 16384)
  | .sclr sl => some (3229614253 + sl.toNat * 16384)
  | .lds f sl w a d => some (177 + f.toNat * 2147483648 + sl.toNat * 268435456 + w.toNat * 4194304 + a.toNat * 32768 + d.toNat * 256)
  | .sts f sl w a d => some (179 + f.toNat * 2147483648 + sl.toNat * 268435456 + w.toNat * 4194304 + a.toNat * 32768 + d.toNat * 256)
  | .ldt f sl w a d => some (181 + f.toNat * 2147483648 + sl.toNat * 268435456 + w.toNat * 4194304 + a.toNat * 32768 + d.toNat * 256)
  | .stt f sl w a d => some (183 + f.toNat * 2147483648 + sl.toNat * 268435456 + w.toNat * 4194304 + a.toNat * 32768 + d.toNat * 256)
  | .ldro f sl w a d => some (185 + f.toNat * 2147483648 + sl.toNat * 268435456 + w.toNat * 4194304 + a.toNat * 32768 + d.toNat * 256)
  | .atsAdd f b a q => some (187 + f.toNat * 2147483648 + b.toNat * 2097152 + a.toNat * 16384 + q.toNat * 512)
  | .atsAdd64 f b a q => some (1073742011 + f.toNat * 2147483648 + b.toNat * 2097152 + a.toNat * 16384 + q.toNat * 512)
  | .atsMins f b a q => some (268435643 + f.toNat * 2147483648 + b.toNat * 2097152 + a.toNat * 16384 + q.toNat * 512)
  | .atsMaxs f b a q => some (536871099 + f.toNat * 2147483648 + b.toNat * 2097152 + a.toNat * 16384 + q.toNat * 512)
  | .atsMinn f b a q => some (805306555 + f.toNat * 2147483648 + b.toNat * 2097152 + a.toNat * 16384 + q.toNat * 512)
  | .atsMaxn f b a q => some (189 + f.toNat * 2147483648 + b.toNat * 2097152 + a.toNat * 16384 + q.toNat * 512)
  | .atsAnd f b a q => some (268435645 + f.toNat * 2147483648 + b.toNat * 2097152 + a.toNat * 16384 + q.toNat * 512)
  | .atsOr f b a q => some (536871101 + f.toNat * 2147483648 + b.toNat * 2097152 + a.toNat * 16384 + q.toNat * 512)
  | .atsXor f b a q => some (805306557 + f.toNat * 2147483648 + b.toNat * 2097152 + a.toNat * 16384 + q.toNat * 512)
  | .atsExch f b a q => some (191 + f.toNat * 2147483648 + b.toNat * 2097152 + a.toNat * 16384 + q.toNat * 512)
  | .atsExch64 f b a q => some (1073742015 + f.toNat * 2147483648 + b.toNat * 2097152 + a.toNat * 16384 + q.toNat * 512)
  | .atsCas f b a q => some (268435647 + f.toNat * 2147483648 + b.toNat * 2097152 + a.toNat * 16384 + q.toNat * 512)
  | .atsCas64 f b a q => some (1342177471 + f.toNat * 2147483648 + b.toNat * 2097152 + a.toNat * 16384 + q.toNat * 512)
  | .atsIncw f b a q => some (536871103 + f.toNat * 2147483648 + b.toNat * 2097152 + a.toNat * 16384 + q.toNat * 512)
  | .atsFadd f b a q => some (193 + f.toNat * 2147483648 + b.toNat * 2097152 + a.toNat * 16384 + q.toNat * 512)
  | .atsFaddb2 f b a q => some (268435649 + f.toNat * 2147483648 + b.toNat * 2097152 + a.toNat * 16384 + q.toNat * 512)
  | .atsFmin f b a q => some (536871105 + f.toNat * 2147483648 + b.toNat * 2097152 + a.toNat * 16384 + q.toNat * 512)
  | .atsFmax f b a q => some (805306561 + f.toNat * 2147483648 + b.toNat * 2097152 + a.toNat * 16384 + q.toNat * 512)
  | .attAdd f b a q => some (195 + f.toNat * 2147483648 + b.toNat * 2097152 + a.toNat * 16384 + q.toNat * 512)
  | .attAdd64 f b a q => some (1073742019 + f.toNat * 2147483648 + b.toNat * 2097152 + a.toNat * 16384 + q.toNat * 512)
  | .attMins f b a q => some (268435651 + f.toNat * 2147483648 + b.toNat * 2097152 + a.toNat * 16384 + q.toNat * 512)
  | .attMaxs f b a q => some (536871107 + f.toNat * 2147483648 + b.toNat * 2097152 + a.toNat * 16384 + q.toNat * 512)
  | .attMinn f b a q => some (805306563 + f.toNat * 2147483648 + b.toNat * 2097152 + a.toNat * 16384 + q.toNat * 512)
  | .attMaxn f b a q => some (197 + f.toNat * 2147483648 + b.toNat * 2097152 + a.toNat * 16384 + q.toNat * 512)
  | .attAnd f b a q => some (268435653 + f.toNat * 2147483648 + b.toNat * 2097152 + a.toNat * 16384 + q.toNat * 512)
  | .attOr f b a q => some (536871109 + f.toNat * 2147483648 + b.toNat * 2097152 + a.toNat * 16384 + q.toNat * 512)
  | .attXor f b a q => some (805306565 + f.toNat * 2147483648 + b.toNat * 2097152 + a.toNat * 16384 + q.toNat * 512)
  | .attExch f b a q => some (199 + f.toNat * 2147483648 + b.toNat * 2097152 + a.toNat * 16384 + q.toNat * 512)
  | .attExch64 f b a q => some (1073742023 + f.toNat * 2147483648 + b.toNat * 2097152 + a.toNat * 16384 + q.toNat * 512)
  | .attCas f b a q => some (268435655 + f.toNat * 2147483648 + b.toNat * 2097152 + a.toNat * 16384 + q.toNat * 512)
  | .attCas64 f b a q => some (1342177479 + f.toNat * 2147483648 + b.toNat * 2097152 + a.toNat * 16384 + q.toNat * 512)
  | .attIncw f b a q => some (536871111 + f.toNat * 2147483648 + b.toNat * 2097152 + a.toNat * 16384 + q.toNat * 512)
  | .attFadd f b a q => some (201 + f.toNat * 2147483648 + b.toNat * 2097152 + a.toNat * 16384 + q.toNat * 512)
  | .attFaddb2 f b a q => some (268435657 + f.toNat * 2147483648 + b.toNat * 2097152 + a.toNat * 16384 + q.toNat * 512)
  | .attFmin f b a q => some (536871113 + f.toNat * 2147483648 + b.toNat * 2097152 + a.toNat * 16384 + q.toNat * 512)
  | .attFmax f b a q => some (805306569 + f.toNat * 2147483648 + b.toNat * 2097152 + a.toNat * 16384 + q.toNat * 512)
  | .spill n sl b => some (203 + n.toNat * 134217728 + sl.toNat * 32768 + b.toNat * 256)
  | .fill f n sl b => some (1073742027 + f.toNat * 2147483648 + n.toNat * 134217728 + sl.toNat * 32768 + b.toNat * 256)
  | .prefL1 n a => some (205 + n.toNat * 4194304 + a.toNat * 32768)
  | .prefRo n a => some (268435661 + n.toNat * 4194304 + a.toNat * 32768)
  | .cpy f p r k a d w h => some (209 + f.toNat * 2147483648 + p.toNat * 1073741824 + r.toNat * 536870912 + k.toNat * 67108864 + a.toNat * 1048576 + d.toNat * 16384 + w.toNat * 256 + h.toNat * 4294967296)
  | .cpyo f p r k a d w h => some (211 + f.toNat * 2147483648 + p.toNat * 1073741824 + r.toNat * 536870912 + k.toNat * 67108864 + a.toNat * 1048576 + d.toNat * 16384 + w.toNat * 256 + h.toNat * 4294967296)
  | .hbxGath f p a d w h => some (213 + f.toNat * 2147483648 + p.toNat * 1073741824 + a.toNat * 1048576 + d.toNat * 16384 + w.toNat * 256 + h.toNat * 4294967296)
  | .hbxRdce f p a d w h => some (268435669 + f.toNat * 2147483648 + p.toNat * 1073741824 + a.toNat * 1048576 + d.toNat * 16384 + w.toNat * 256 + h.toNat * 4294967296)
  | .hbxConv f p a d w h => some (536871125 + f.toNat * 2147483648 + p.toNat * 1073741824 + a.toNat * 1048576 + d.toNat * 16384 + w.toNat * 256 + h.toNat * 4294967296)
  | .hbxFillz f p a d w h => some (805306581 + f.toNat * 2147483648 + p.toNat * 1073741824 + a.toNat * 1048576 + d.toNat * 16384 + w.toNat * 256 + h.toNat * 4294967296)
  | .cpyxStat c d => some (215 + c.toNat * 4194304 + d.toNat * 256)
  | .cpyxCancel c => some (67109079 + c.toNat * 4194304)
  | .copyRetire _ => none
  | .copyTranslationFault _ => none
  | .copyProtectionFault _ => none
  | .wmerge g b a d => some (217 + g.toNat * 536870912 + b.toNat * 1048576 + a.toNat * 16384 + d.toNat * 256)
  | .wreduce g a d => some (219 + g.toNat * 536870912 + a.toNat * 16384 + d.toNat * 256)
  | .wall d => some (221 + d.toNat * 256)
  | .wwait a => some (1073742045 + a.toNat * 16384)
  | .wtest p a => some (2147483869 + p.toNat * 134217728 + a.toNat * 16384)
  | .witnessWake _ => none
  | .qres f t c h d => some (225 + f.toNat * 2147483648 + t.toNat * 1073741824 + c.toNat * 16777216 + h.toNat * 16384 + d.toNat * 256)
  | .qresA f t h d => some (536871137 + f.toNat * 2147483648 + t.toNat * 1073741824 + h.toNat * 16384 + d.toNat * 256)
  | .qenqL k b r => some (227 + k.toNat * 33554432 + b.toNat * 262144 + r.toNat * 4096)
  | .qenqG k b r => some (1073742051 + k.toNat * 33554432 + b.toNat * 262144 + r.toNat * 4096)
  | .qenqM k a r => some (2147483875 + k.toNat * 33554432 + a.toNat * 262144 + r.toNat * 4096)
  | .qpostL b h => some (229 + b.toNat * 262144 + h.toNat * 4096)
  | .qpostG b h => some (1073742053 + b.toNat * 262144 + h.toNat * 4096)
  | .qpostM a h => some (2147483877 + a.toNat * 262144 + h.toNat * 4096)
  | .qdeqL f sl p d h w => some (231 + f.toNat * 2147483648 + sl.toNat * 1073741824 + p.toNat * 33554432 + d.toNat * 262144 + h.toNat * 4096 + w.toNat * 256)
  | .qdeqG f sl p d h w => some (268435687 + f.toNat * 2147483648 + sl.toNat * 1073741824 + p.toNat * 33554432 + d.toNat * 262144 + h.toNat * 4096 + w.toNat * 256)
  | .qdeqM f sl p a h w => some (536871143 + f.toNat * 2147483648 + sl.toNat * 1073741824 + p.toNat * 33554432 + a.toNat * 262144 + h.toNat * 4096 + w.toNat * 256)
  | .qwait a h => some (233 + a.toNat * 2097152 + h.toNat * 32768)
  | .qflush f h d => some (1073742057 + f.toNat * 536870912 + h.toNat * 32768 + d.toNat * 512)
  | .qvoid a h => some (2147483881 + a.toNat * 2097152 + h.toNat * 32768)
  | .qstat f a h d => some (3221225705 + f.toNat * 536870912 + a.toNat * 2097152 + h.toNat * 32768 + d.toNat * 512)
  | .handleTranslationReply _ _ => none
  | .qresRequest _ => none
  | .qresDeferredGrant _ => none
  | .qresGrantReceive _ => none
  | .elementArrival _ => none
  | .postArrival _ => none
  | .qdeqClaim _ => none
  | .qdeqDeliveryComplete _ => none
  | .qflushComplete _ => none
  | .qstatComplete _ => none
  | .refillStep _ => none
  | .answerAck _ => none
  | .answerRetry _ => none
  | .answerMoved _ => none
  | .answerCheck _ => none
  | .answerRefused _ => none
  | .retentionTimeout _ => none
  | .streamMessageArrival _ => none
  | .streamDeliveryAck _ => none
  | .streamResendTimeout _ => none
  | .flitReceive _ => none
  | .parityRequest _ => none
  | .parityResponse _ => none
  | .replayRequest _ => none
  | .linkAck _ _ => none
  | .linkRetrainComplete _ => none
  | .bufferEntryError _ => none
  | .withdrawalAnnounce _ _ => none
  | .channelATimeout _ => none
  | .fabricPacketReceive _ => none
  | .pdsRetransmit _ => none
  | .pauseFrameReceive _ => none
  | .br o n p => some (237 + o.toNat * 8192 + n.toNat * 2048 + p.toNat * 256)
  | .brRg o n p => some (4333 + o.toNat * 8192 + n.toNat * 2048 + p.toNat * 256)
  | .bru o p m => some (239 + o.toNat * 8192 + p.toNat * 1024 + m.toNat * 256)
  | .jmp o => some (241 + o.toNat * 512)
  | .call o => some (497 + o.toNat * 512)
  | .jmpi a => some (243 + a.toNat * 2097152)
  | .calli a => some (268435699 + a.toNat * 2097152)
  | .ret => some (536871155)
  | .join b => some (245 + b.toNat * 256)
  | .joinO => some (268435701)
  | .regroup a sl => some (536871157 + a.toNat * 2097152 + sl.toNat * 32768)
  | .yield => some (805306613)
  | .exit => some (1073742069)
  | .joinBoundExpiry _ => none
  | .poolArrival _ => none
  | .regroupRelease _ => none
  | .tseg d => some (247 + d.toNat * 256)
  | .tsegAddr a d => some (16777463 + a.toNat * 16384 + d.toNat * 256)
  | .tstat sl a d => some (268435703 + sl.toNat * 16777216 + a.toNat * 16384 + d.toNat * 256)
  | .thint h => some (536871159 + h.toNat * 16777216)
  | .threadDepart _ => none
  | .packerStage _ => none
  | .packerWindowEmit _ => none
  | .segmentLoadComplete _ _ => none
  | .groupEvict _ => none
  | .trap im => some (253 + im.toNat * 256)
  | .bkpt => some (268435709)
  | .cntr k d => some (536871165 + k.toNat * 33554432 + d.toNat * 256)
  | .isync => some (805306621)
  | .nop32 => some (1073742077)
  | .loadComplete _ => none
  | .storeComplete _ => none
  | .atomicComplete _ => none
  | .fillComplete _ => none
  | .sliceWrite _ => none
  | .sliceAtomic _ => none
  | .sliceRead _ => none
  | .storeAnswer _ => none
  | .teamMemoryWindowAccess _ => none
  | .l1Invalidation _ => none
  | .invalidationAck _ => none
  | .peerProbe _ => none
  | .probeRefusal _ => none
  | .sharerRegistration _ => none
  | .registrationConfirm _ => none
  | .l1Fill _ => none
  | .directoryEviction _ _ => none
  | .flueSnapshot _ => none
  | .flueApply _ => none
  | .ticketSettle _ => none
  | .registerGrant _ => none
  | .registerRefill _ => none
  | .codeLineFill _ _ _ => none
  | .launchStart _ => none
  | .plotDispatch _ => none
  | .travelLaunchStart _ => none
  | .activeEntry _ => none
  | .timeSliceExpiry _ => none
  | .fallowReturn _ => none
  | .groupEnd _ => none
  | .teamCompletion _ => none
  | .gridEnd _ => none
  | .preemptTrigger _ => none
  | .launchUnitRestore _ => none
  | .faultDeliveryTimeout _ => none
  | .scrubEccError _ _ _ => none
  | .contextSave _ => none
  | .dieReset _ => none
  | .droopTrip _ => none
  | .damperRelease _ => none
  | .fatalDieError _ _ => none
  | .hbmWrite _ => none
  | .hbmRead _ => none
  | .enqueue _ => none
  | .dequeue _ => none
  | .mgmtRegisterWrite _ => none
  | .mgmtRegisterRead _ => none
  | .managementReset _ => none
  | .contextCreate _ => none
  | .contextDestroy _ => none
  | .tlbInvalidate _ => none
  | .queueTranslationWrite _ => none
  | .multicastGroupWrite _ => none
  | .queueDescriptorWrite _ => none
  | .accessListWrite _ => none
  | .queueMove _ => none
  | .preempt _ => none
  | .restore _ => none
  | .haltRetry _ => none
  | .haltSkip _ => none
  | .haltResumeCopy _ => none
  | .haltKill _ => none
  | .keyInstall _ => none
  | .counterAssign _ => none
  | .attestationQuote _ => none
  | .illegalInstruction _ => none
  | .returnAddressSpillComplete _ _ => none
  | .fabricPortLinkChange _ _ => none
  | .chimneyPortLinkUp => none
  | .chimneyCommandDiscard _ => none
  | .fallbackTableSwitch _ => none

/-- The length in bits of an instruction (R15). -/
def bitsOf (i : Instr) : Nat :=
  match encode i with
  | some w => 8 * lengthOf w
  | none => 0

end Sys2Proof
end

