-- ==== Sys2Proof/Machine/Float.lean ====
section
/-!
DEFINITION. Floating-point numbers (R46 to R51, R63): values as exact dyadic numbers, one rounding for every binary format,
and the arithmetic that the vector, lane, matrix, atomic and copy units share.
-/
namespace Sys2Proof.Machine

/-- Rounding modes in the order of their codes (R47). -/
inductive RMode where
  | rne | rtz | rup | rdn | rna
  deriving DecidableEq, Repr

/-- The mode of a code; a reserved code never reaches rounding (R47). -/
def RMode.ofCode : Nat → RMode
  | 1 => .rtz
  | 2 => .rup
  | 3 => .rdn
  | 4 => .rna
  | _ => .rne

def flagIV : FFlags := 1
def flagDZ : FFlags := 2
def flagOF : FFlags := 4
def flagUF : FFlags := 8
def flagNX : FFlags := 16
def flagSAT : FFlags := 32

/-- A binary interchange format: exponent and fraction widths (R46, R51). -/
structure Fmt where
  eb : Nat
  mb : Nat
  deriving DecidableEq, Repr

def fp32 : Fmt := ⟨8, 23⟩
def fp16 : Fmt := ⟨5, 10⟩
def bf16 : Fmt := ⟨8, 7⟩

def Fmt.bias (f : Fmt) : Nat := 2 ^ (f.eb - 1) - 1
/-- The bits of +∞. -/
def Fmt.infBits (f : Fmt) : Nat := (2 ^ f.eb - 1) * 2 ^ f.mb
def Fmt.signBit (f : Fmt) : Nat := 2 ^ (f.eb + f.mb)
/-- The canonical NaN (R49, R51). -/
def Fmt.nan (f : Fmt) : Nat := f.infBits + 2 ^ (f.mb - 1)

/-- A value: NaN (signalling or quiet), an infinity, or the exact number (−1)^neg · m · 2^e. -/
inductive FVal where
  | nan (sig : Bool)
  | inf (neg : Bool)
  | fin (neg : Bool) (m : Nat) (e : Int)
  deriving DecidableEq, Repr

/-- The value of the bits x of a format. -/
def Fmt.value (f : Fmt) (x : Nat) : FVal :=
  let neg := decide (x / f.signBit % 2 = 1)
  let ex := x / 2 ^ f.mb % 2 ^ f.eb
  let fr := x % 2 ^ f.mb
  if ex = 2 ^ f.eb - 1 then
    if fr = 0 then .inf neg else .nan (decide (fr / 2 ^ (f.mb - 1) = 0))
  else if ex = 0 then .fin neg fr (1 - (f.bias : Int) - f.mb)
  else .fin neg (2 ^ f.mb + fr) ((ex : Int) - f.bias - f.mb)

/-- The number of significant bits. -/
def bitLen (m : Nat) : Nat := if m = 0 then 0 else m.log2 + 1

/-- Whether a magnitude n (in steps) with remainder r of 2^sh, and possibly something below it, rounds up. -/
def roundsUp (mode : RMode) (neg : Bool) (n r half : Nat) (sticky : Bool) : Bool :=
  match mode with
  | .rne => decide (r > half) || (decide (r = half) && (sticky || decide (n % 2 = 1)))
  | .rna => decide (r ≥ half)
  | .rtz => false
  | .rup => !neg && (decide (r ≠ 0) || sticky)
  | .rdn => neg && (decide (r ≠ 0) || sticky)

/-- m · 2^e, plus something below one unit of m where sticky, rounded to a multiple of 2^q: the multiple and whether the
result is inexact. -/
def roundAt (mode : RMode) (neg : Bool) (m : Nat) (e q : Int) (sticky : Bool) : Nat × Bool :=
  let d := q - e
  if d ≤ 0 then
    let n := m * 2 ^ (-d).toNat
    (if roundsUp mode neg n 0 1 sticky then n + 1 else n, sticky)
  else
    let sh := d.toNat
    if sh > bitLen m + 2 then
      let st := sticky || decide (m ≠ 0)
      (if roundsUp mode neg 0 0 1 st then 1 else 0, st)
    else
      let n := m / 2 ^ sh
      let r := m % 2 ^ sh
      (if roundsUp mode neg n r (2 ^ (sh - 1)) sticky then n + 1 else n, sticky || decide (r ≠ 0))

/-- What overflow gives under each mode (R48). -/
def overflowBits (mode : RMode) (neg : Bool) (f : Fmt) : Nat :=
  let toInf := match mode with
    | .rne | .rna => true
    | .rtz => false
    | .rup => !neg
    | .rdn => neg
  (if toInf then f.infBits else f.infBits - 1) + (if neg then f.signBit else 0)

/-- Rounds the number (−1)^neg · (m + ε) · 2^e, with 0 < ε < 1 where sticky and ε = 0 otherwise, to the format (R48). -/
def Fmt.round (f : Fmt) (mode : RMode) (neg : Bool) (m : Nat) (e : Int) (sticky : Bool := false) : Nat × FFlags :=
  let sgn := if neg then f.signBit else 0
  if m = 0 ∧ sticky = false then (sgn, 0)
  else
    let top : Int := (bitLen m : Int) - 1 + e
    let emin : Int := 1 - (f.bias : Int)
    let q : Int := max (top - f.mb) (emin - f.mb)
    let (n, inexact) := roundAt mode neg m e q sticky
    let bits := ((q + f.mb + f.bias - 1).toNat) * 2 ^ f.mb + n
    let nx : FFlags := if inexact then flagNX else 0
    if bits ≥ f.infBits then (overflowBits mode neg f, flagOF ||| flagNX)
    else
      let tiny : Bool :=
        if top ≥ emin then false
        else if top < emin - 1 then true
        else decide ((roundAt mode neg m e (top - f.mb) sticky).1 < 2 ^ (f.mb + 1))
      (bits + sgn, nx ||| (if tiny && inexact then flagUF else 0))

/-- An exact signed number n · 2^e. -/
structure Dyadic where
  n : Int
  e : Int
  deriving DecidableEq, Repr

def Dyadic.add (a b : Dyadic) : Dyadic :=
  if a.n = 0 then b
  else if b.n = 0 then a
  else
    let e := min a.e b.e
    ⟨a.n * 2 ^ (a.e - e).toNat + b.n * 2 ^ (b.e - e).toNat, e⟩

def dyadicOf (neg : Bool) (m : Nat) (e : Int) : Dyadic := ⟨if neg then -(m : Int) else m, e⟩

/-- Rounds an exact nonzero number. -/
def Fmt.roundDyadic (f : Fmt) (mode : RMode) (d : Dyadic) : Nat × FFlags :=
  f.round mode (decide (d.n < 0)) d.n.natAbs d.e

/-- The sign of an exact zero sum of the signs a and b (R48). -/
def zeroSign (mode : RMode) (a b : Bool) : Bool := if a = b then a else decide (mode = .rdn)

/-- a + b for values, rounded (R48, R49). -/
def Fmt.addV (f : Fmt) (mode : RMode) (a b : FVal) : Nat × FFlags :=
  match a, b with
  | .nan s, .nan t => (f.nan, if s || t then flagIV else 0)
  | .nan s, _ => (f.nan, if s then flagIV else 0)
  | _, .nan t => (f.nan, if t then flagIV else 0)
  | .inf x, .inf y => if x = y then (f.infBits + (if x then f.signBit else 0), 0) else (f.nan, flagIV)
  | .inf x, .fin .. => (f.infBits + (if x then f.signBit else 0), 0)
  | .fin .., .inf y => (f.infBits + (if y then f.signBit else 0), 0)
  | .fin x m e, .fin y n g =>
    let d := (dyadicOf x m e).add (dyadicOf y n g)
    if d.n = 0 then
      (if zeroSign mode x y then f.signBit else 0, 0)
    else f.roundDyadic mode d

def FVal.neg : FVal → FVal
  | .nan s => .nan s
  | .inf x => .inf (!x)
  | .fin x m e => .fin (!x) m e

/-- The exact product, with IV for 0 × ∞ and for signalling NaNs (R49). -/
def FVal.mul (a b : FVal) : FVal × FFlags :=
  match a, b with
  | .nan s, .nan t => (.nan false, if s || t then flagIV else 0)
  | .nan s, _ => (.nan false, if s then flagIV else 0)
  | _, .nan t => (.nan false, if t then flagIV else 0)
  | .inf x, .inf y => (.inf (x != y), 0)
  | .inf x, .fin y n _ => if n = 0 then (.nan false, flagIV) else (.inf (x != y), 0)
  | .fin x m _, .inf y => if m = 0 then (.nan false, flagIV) else (.inf (x != y), 0)
  | .fin x m e, .fin y n g => (.fin (x != y) (m * n) (e + g), 0)

/-- The bits of a value that needs no rounding in the format beyond one (NaNs become canonical). -/
def Fmt.ofVal (f : Fmt) (mode : RMode) (a : FVal) : Nat × FFlags :=
  match a with
  | .nan s => (f.nan, if s then flagIV else 0)
  | .inf x => (f.infBits + (if x then f.signBit else 0), 0)
  | .fin x m e => f.round mode x m e

def Fmt.add (f : Fmt) (mode : RMode) (a b : Nat) : Nat × FFlags := f.addV mode (f.value a) (f.value b)
def Fmt.sub (f : Fmt) (mode : RMode) (a b : Nat) : Nat × FFlags := f.addV mode (f.value a) (f.value b).neg
def Fmt.mul (f : Fmt) (mode : RMode) (a b : Nat) : Nat × FFlags :=
  let (p, fl) := (f.value a).mul (f.value b)
  let (r, fl') := f.ofVal mode p
  (r, fl ||| fl')

/-- d + a × b with one rounding; 0 × ∞ raises IV whatever d is (R49, R140). -/
def Fmt.fma (f : Fmt) (mode : RMode) (d a b : Nat) : Nat × FFlags :=
  let (p, fl) := (f.value a).mul (f.value b)
  let (r, fl') := f.addV mode (f.value d) p
  (r, fl ||| fl')

/-- Whether the value a is below b; −0 orders below +0 (R49). -/
def FVal.below (a b : FVal) : Bool :=
  match a, b with
  | .inf x, .inf y => x && !y
  | .inf x, _ => x
  | _, .inf y => !y
  | .fin x m e, .fin y n g =>
    let d := (dyadicOf x m e).add (dyadicOf (!y) n g)
    if d.n = 0 then x && !y else decide (d.n < 0)
  | _, _ => false

def FVal.isNan : FVal → Bool
  | .nan _ => true
  | _ => false

def FVal.isSnan : FVal → Bool
  | .nan s => s
  | _ => false

/-- minimumNumber and maximumNumber (R49). -/
def Fmt.minMax (f : Fmt) (wantMax : Bool) (a b : Nat) : Nat × FFlags :=
  let va := f.value a
  let vb := f.value b
  let fl : FFlags := if va.isSnan || vb.isSnan then flagIV else 0
  let r := if va.isNan && vb.isNan then f.nan
    else if va.isNan then b
    else if vb.isNan then a
    else if wantMax then (if va.below vb then b else a)
    else (if vb.below va then b else a)
  (r, fl)

/-- a × 2^n (R140, FSCALE). -/
def Fmt.scale (f : Fmt) (mode : RMode) (a : Nat) (n : Int) : Nat × FFlags :=
  match f.value a with
  | .nan s => (f.nan, if s then flagIV else 0)
  | .inf _ => (a, 0)
  | .fin x m e => if m = 0 then (a, 0) else f.round mode x m (e + n)

/-- Rounds to an integral value (R147): the result keeps the sign of zero; NX only where asked. -/
def Fmt.integral (f : Fmt) (mode : RMode) (raise : Bool) (a : Nat) : Nat × FFlags :=
  match f.value a with
  | .nan s => (f.nan, if s then flagIV else 0)
  | .inf _ => (a, 0)
  | .fin x m e =>
    let (n, inexact) := roundAt mode x m e 0 false
    ((f.round .rne x n 0).1, if inexact && raise then flagNX else 0)

/-- ⌊log2 |a|⌋ as an integer (R147, FEXPN). -/
def fexpn (a : Nat) : Word :=
  match fp32.value a with
  | .fin _ m e => if m = 0 then 0x80000000 else BitVec.ofInt 32 ((bitLen m : Int) - 1 + e)
  | _ => 0x7FFFFFFF

/-- Compares two FP32 values (R145): none when unordered. -/
def fcompare (a b : Nat) : Option Ordering :=
  match fp32.value a, fp32.value b with
  | .nan _, _ => none
  | _, .nan _ => none
  | va, vb =>
    let zero := fun v : FVal => match v with | .fin _ 0 _ => true | _ => false
    if zero va && zero vb then some .eq
    else if va.below vb then some .lt
    else if vb.below va then some .gt
    else some .eq

/-- FP32 to a 32-bit integer (R63). DESIGN CHOICE (log 93): the range is judged after the rounding. -/
def toInt32 (signed : Bool) (mode : RMode) (a : Nat) : Word × FFlags :=
  let lo : Int := if signed then -2147483648 else 0
  let hi : Int := if signed then 2147483647 else 4294967295
  match fp32.value a with
  | .nan _ => (0, flagIV)
  | .inf x => (BitVec.ofInt 32 (if x then lo else hi), flagIV)
  | .fin x m e =>
    let (n, inexact) := roundAt mode x m e 0 false
    let v : Int := if x then -(n : Int) else n
    if v < lo then (BitVec.ofInt 32 lo, flagIV)
    else if v > hi then (BitVec.ofInt 32 hi, flagIV)
    else (BitVec.ofInt 32 v, if inexact then flagNX else 0)

/-- A 32-bit integer to FP32 (R63). -/
def ofInt32 (signed : Bool) (mode : RMode) (a : Word) : Nat × FFlags :=
  let v : Int := if signed then a.toInt else a.toNat
  if v = 0 then (0, 0) else fp32.round mode (decide (v < 0)) v.natAbs 0

/-- A value of one format rounded to another (R150). -/
def Fmt.convert (src dst : Fmt) (mode : RMode) (a : Nat) : Nat × FFlags := dst.ofVal mode (src.value a)

end Sys2Proof.Machine
end

