-- ==== Sys2Proof/Machine/Narrow.lean ====
section
/-!
DEFINITION. Narrow formats (R54 to R62): descriptors, their validity, the value of a code, and the conversions between
narrow codes and the wide formats.
-/
namespace Sys2Proof.Machine

/-- A format descriptor's fields (R54). -/
structure Desc where
  s : Nat
  e : Nat
  m : Nat
  bias : Int
  specials : Nat
  round : Nat
  sat : Bool
  layout : Nat
  deriving DecidableEq, Repr

def descOf (d : Word) : Desc where
  s := (d.extractLsb' 28 1).toNat
  e := (d.extractLsb' 25 3).toNat
  m := (d.extractLsb' 22 3).toNat
  bias := (d.extractLsb' 14 8).toInt
  specials := (d.extractLsb' 12 2).toNat
  round := (d.extractLsb' 9 3).toNat
  sat := d.getLsbD 8
  layout := (d.extractLsb' 6 2).toNat

def Desc.width (f : Desc) : Nat := f.s + f.e + f.m

/-- Validity of a descriptor (R55). -/
def descValid (d : Word) : Bool :=
  let f := descOf d
  decide (d.extractLsb' 29 3 = 0) && decide (d.extractLsb' 0 6 = 0) &&
  decide (2 ≤ f.width ∧ f.width ≤ 8) && decide (f.round ≤ 4) &&
  (decide (f.layout = 0) || (decide (f.layout = 1) && decide (f.width ≤ 4))) &&
  (decide (f.e ≠ 0) || decide (f.specials = 0)) &&
  (decide (f.specials ≠ 1) || decide (f.e ≥ 2 ∧ f.m ≥ 1)) &&
  (decide (f.specials ≠ 2) || decide (f.e ≥ 1)) &&
  (decide (f.specials ≠ 3) || decide (f.s = 1 ∧ f.e ≥ 1))

def Desc.signBit (f : Desc) : Nat := 2 ^ (f.e + f.m)
def Desc.hasNan (f : Desc) : Bool := decide (f.specials ≠ 0)

/-- The canonical narrow NaN (R56). -/
def Desc.nanCode (f : Desc) : Nat :=
  if f.specials = 1 then (2 ^ f.e - 1) * 2 ^ f.m + 2 ^ (f.m - 1)
  else if f.specials = 2 then 2 ^ (f.e + f.m) - 1
  else f.signBit

/-- The code of infinity under specials 01. -/
def Desc.infCode (f : Desc) (neg : Bool) : Nat :=
  (2 ^ f.e - 1) * 2 ^ f.m + (if neg then f.signBit else 0)

/-- The value of a code (R56); bits above the width are ignored (R57). -/
def Desc.value (f : Desc) (code : Nat) : FVal :=
  let c := code % 2 ^ f.width
  let mag := c % 2 ^ (f.e + f.m)
  let neg := decide (c / 2 ^ (f.e + f.m) = 1)
  if f.e = 0 then
    -- fixed point: two's complement of M + 1 bits with a sign, else unsigned
    if f.s = 1 ∧ neg then .fin true (2 ^ f.m - mag) (-f.bias) else .fin false mag (-f.bias)
  else
    let ex := mag / 2 ^ f.m
    let fr := mag % 2 ^ f.m
    if f.specials = 1 ∧ ex = 2 ^ f.e - 1 then (if fr = 0 then .inf neg else .nan false)
    else if f.specials = 2 ∧ mag = 2 ^ (f.e + f.m) - 1 then .nan false
    else if f.specials = 3 ∧ c = f.signBit then .nan false
    else if ex = 0 then .fin neg fr (1 - f.bias - f.m)
    else .fin neg (2 ^ f.m + fr) ((ex : Int) - f.bias - f.m)

/-- The code of the largest positive value, and of the least value (R56). -/
def Desc.maxCode (f : Desc) : Nat :=
  if f.e = 0 then 2 ^ f.m - 1
  else if f.specials = 1 then (2 ^ f.e - 1) * 2 ^ f.m - 1
  else if f.specials = 2 then 2 ^ (f.e + f.m) - 2
  else 2 ^ (f.e + f.m) - 1

def Desc.minCode (f : Desc) : Nat :=
  if f.s = 0 then 0 else if f.e = 0 then f.signBit else f.maxCode + f.signBit

def Desc.maxFinite (f : Desc) (neg : Bool) : Nat := if neg then f.minCode else f.maxCode

/-- The code of the number (−1)^neg · n · 2^q, a multiple of the format's step in its range. -/
def Desc.encode (f : Desc) (neg : Bool) (n : Nat) (q : Int) : Nat :=
  if f.e = 0 then
    if neg then (2 ^ (f.m + 1) - n) % 2 ^ (f.m + 1) else n
  else ((q + f.m + f.bias - 1).toNat) * 2 ^ f.m + n + (if neg then f.signBit else 0)

/-- The FP32-to-narrow conversion ToNarrow (R61) of a value under scale byte e. -/
def toNarrow (f : Desc) (e : Int) (x : FVal) (mode : RMode) : Nat × FFlags :=
  if e = -128 ∨ x.isNan then
    if f.hasNan then (f.nanCode, 0) else (0, flagIV)
  else
    match x with
    | .nan _ => (0, 0)
    | .inf neg =>
      if f.s = 0 ∧ neg then (0, if f.sat then flagSAT else flagIV)
      else if f.specials = 1 then (f.infCode neg, 0)
      else if f.sat ∨ ¬ f.hasNan then (f.maxFinite neg, if f.sat then flagSAT else flagIV)
      else (f.nanCode, flagIV)
    | .fin neg m g =>
      let y := g - e
      if f.s = 0 ∧ neg ∧ m ≠ 0 then (0, if f.sat then flagSAT else flagIV)
      else if m = 0 then
        if neg ∧ f.s = 1 ∧ f.e > 0 ∧ f.specials ≠ 3 then (f.signBit, 0) else (0, 0)
      else
        let top : Int := (bitLen m : Int) - 1 + y
        let q : Int := if f.e = 0 then -f.bias else max top (1 - f.bias) - f.m
        let (n, inexact) := roundAt mode neg m y q false
        -- whether n · 2^q lies beyond the range of R56
        let beyond : Bool :=
          match f.value (f.maxFinite neg) with
          | .fin _ mm mg => decide (0 < ((dyadicOf false n q).add (dyadicOf true mm mg)).n)
          | _ => false
        if beyond then
          if f.sat then (f.maxFinite neg, flagNX ||| flagSAT)
          else
            let fl := flagNX ||| flagOF
            if f.specials = 1 then
              let toInf := match mode with
                | .rne | .rna => true
                | .rtz => false
                | .rup => !neg
                | .rdn => neg
              (if toInf then f.infCode neg else f.maxFinite neg, fl)
            else if f.hasNan then (f.nanCode, fl)
            else (f.maxFinite neg, fl)
        else
          let nx : FFlags := if inexact then flagNX else 0
          let small : Bool := decide (f.e > 0) && decide (n ≠ 0) && inexact && decide ((bitLen n : Int) - 1 + q < 1 - f.bias)
          let fl := nx ||| (if small then flagUF else 0)
          if n = 0 ∧ (f.s = 0 ∨ f.e = 0 ∨ f.specials = 3) then (0, fl)
          else (f.encode neg n q, fl)

/-- Widening of a narrow code under scale byte e to a wide format (R62). -/
def widen (f : Desc) (e : Int) (dst : Fmt) (code : Nat) : Nat × FFlags :=
  if e = -128 then (dst.nan, 0)
  else
    match f.value code with
    | .nan _ => (dst.nan, 0)
    | .inf neg => (dst.infBits + (if neg then dst.signBit else 0), 0)
    | .fin neg m g => dst.round (RMode.ofCode f.round) neg m (g + e)

/-- The bits an element takes in a register or on die (R57). -/
def Desc.pitch (f : Desc) : Nat := if f.layout = 1 then 4 else 8

/-- Element i of a packed register, its unused upper bits ignored. -/
def Desc.elem (f : Desc) (x : Nat) (i : Nat) : Nat := x / 2 ^ (f.pitch * i) % 2 ^ f.width

/-- The scale byte as a number (R60). -/
def scaleByte (x : Nat) : Int := (BitVec.ofNat 8 x).toInt

end Sys2Proof.Machine
end

