-- ==== Sys2Proof/Machine/Codes.lean ====
section
/-!
DEFINITION. Check codes and digests: CRC-32C (R216), the Reed-Solomon parity of a flit (R235) and SHA3-256 (R321).
-/
namespace Sys2Proof.Machine

/-- One bit of the reflected CRC-32C register, polynomial 0x1EDC_6F41 (reflected 0x82F6_3B78). -/
def crcBit (c : Word) : Word := if c.getLsbD 0 then (c >>> 1) ^^^ 0x82F63B78 else c >>> 1

def crcBits : Nat → Word → Word
  | 0, c => c
  | k + 1, c => crcBits k (crcBit c)

/-- The CRC register after a string of bytes. -/
def crcFrom : List Byte → Word → Word
  | [], c => c
  | b :: l, c => crcFrom l (crcBits 8 (c ^^^ b.zeroExtend 32))

/-- CRC-32C: initial value 0xFFFF_FFFF, final XOR 0xFFFF_FFFF (R216). -/
def crc32c (l : List Byte) : Word := crcFrom l 0xFFFFFFFF ^^^ 0xFFFFFFFF

/-- The n little-endian bytes of a number (R3). -/
def bytesOf : Nat → Nat → List Byte
  | 0, _ => []
  | n + 1, x => BitVec.ofNat 8 x :: bytesOf n (x / 256)

/-- The number that little-endian bytes hold (R3). -/
def ofBytes : List Byte → Nat
  | [] => 0
  | b :: l => b.toNat + 256 * ofBytes l

/-- The check code of an element: over QID, key and element bytes (R216). -/
def checkCode (qid key : Nat) (data : List Byte) : Word := crc32c (bytesOf 4 qid ++ bytesOf 8 key ++ data)

/-- Multiplication by α = 2 in GF(2^8) with the polynomial 0x11D (R235). -/
def gfTwice (x : Byte) : Byte := if x.getLsbD 7 then (x <<< 1) ^^^ 0x1D else x <<< 1

/-- The product in GF(2^8), over k bits of y. -/
def gfMulBits : Nat → Byte → Byte → Byte
  | 0, _, _ => 0
  | k + 1, x, y => (if y.getLsbD 0 then x else 0) ^^^ gfMulBits k (gfTwice x) (y >>> 1)

def gfMul (x y : Byte) : Byte := gfMulBits 8 x y

/-- α^n. -/
def gfPow : Nat → Byte
  | 0 => 1
  | n + 1 => gfTwice (gfPow n)

/-- Multiplies a polynomial, lowest coefficient first, by x + r. -/
def polyStep (r : Byte) (p : List Byte) : List Byte :=
  List.zipWith (· ^^^ ·) (0 :: p) (p.map (gfMul r) ++ [0])

/-- The generator with roots α^0 to α^(n−1), lowest coefficient first (R235). -/
def rsGenerator : Nat → List Byte
  | 0 => [1]
  | n + 1 => polyStep (gfPow n) (rsGenerator n)

/-- One data byte into the parity register, highest coefficient first. -/
def rsShift (g : List Byte) (par : List Byte) (b : Byte) : List Byte :=
  match par with
  | [] => []
  | top :: rest =>
    let f := top ^^^ b
    List.zipWith (· ^^^ ·) (rest ++ [0]) (g.map (gfMul f))

/-- The 16 parity bytes p0 to p15 of header and payload (R235). DESIGN CHOICE (log 117): the header's low byte enters the code first, then the
header's other bytes and the payload's in address order, and p0 is the coefficient of the highest power. -/
def rsParity (data : List Byte) : List Byte :=
  let g := (rsGenerator 16).take 16 |>.reverse
  data.foldl (rsShift g) (List.replicate 16 0)

/-- One step of the 8-bit shift register behind the round constants: feedback x^8 + x^6 + x^5 + x^4 + 1. -/
def rcShift (r : Byte) : Byte := if r.getLsbD 7 then (r <<< 1) ^^^ 0x71 else r <<< 1

/-- A round's constant is made of seven successive output bits of the register: output bit j stands at bit 2^j − 1. Answers
the constant with the register after it. -/
def rcDraw : Nat → Byte → BitVec 64 × Byte
  | 0, r => (0, r)
  | n + 1, r =>
    let rest := rcDraw n (rcShift r)
    ((if r.getLsbD 0 then BitVec.twoPow 64 (2 ^ (6 - n) - 1) else 0) ^^^ rest.1, rest.2)

/-- Column parities: XOR of the five planes of a state whose lane (x, y) stands at 5y + x. -/
def columnParity : Nat → List (BitVec 64) → List (BitVec 64)
  | 0, _ => List.replicate 5 0
  | n + 1, a => List.zipWith (· ^^^ ·) (a.take 5) (columnParity n (a.drop 5))

/-- A list of five turned left by k places: entry x becomes entry x + k. -/
def turn5 (k : Nat) (l : List (BitVec 64)) : List (BitVec 64) := l.drop k ++ l.take k

/-- Every plane XORed with what the columns on both sides of each lane give (step theta). -/
def mixColumns : Nat → List (BitVec 64) → List (BitVec 64) → List (BitVec 64)
  | 0, _, _ => []
  | n + 1, d, a => List.zipWith (· ^^^ ·) (a.take 5) d ++ mixColumns n d (a.drop 5)

/-- The walk over the 24 lanes that move (steps rho and pi in one): step t takes lane (x, y), turns it by the t-th triangular
number and puts it down at (y, 2x + 3y), from where the walk goes on. -/
def lanesWalk (src : List (BitVec 64)) : Nat → Nat → Nat → List (BitVec 64) → List (BitVec 64)
  | 0, _, _, dst => dst
  | n + 1, x, y, dst =>
    let turns := (24 - n) * (25 - n) / 2 % 64
    let y' := (2 * x + 3 * y) % 5
    lanesWalk src n y y' (dst.set (y + 5 * y') ((src.getD (x + 5 * y) 0).rotateLeft turns))

/-- Step chi on one plane. -/
def chiPlane (p : List (BitVec 64)) : List (BitVec 64) :=
  List.zipWith (· ^^^ ·) p (List.zipWith (fun u v => ~~~ u &&& v) (turn5 1 p) (turn5 2 p))

/-- Step chi on n planes. -/
def chiPlanes : Nat → List (BitVec 64) → List (BitVec 64)
  | 0, _ => []
  | n + 1, a => chiPlane (a.take 5) ++ chiPlanes n (a.drop 5)

/-- n rounds of the permutation behind SHA3-256, the register of the round constants carried along. -/
def keccakRounds : Nat → Byte → List (BitVec 64) → List (BitVec 64)
  | 0, _, a => a
  | n + 1, r, a =>
    let c := columnParity 5 a
    let mixed := mixColumns 5 (List.zipWith (· ^^^ ·) (turn5 4 c) ((turn5 1 c).map fun w => w.rotateLeft 1)) a
    let moved := chiPlanes 5 (lanesWalk mixed 24 1 0 mixed)
    let draw := rcDraw 7 r
    keccakRounds n draw.2 (moved.modifyHead (draw.1 ^^^ ·))

/-- The 24 rounds. -/
def keccak (a : List (BitVec 64)) : List (BitVec 64) := keccakRounds 24 1 a

/-- A block of up to 136 bytes as 25 lanes: 17 little-endian lanes, then zeros. -/
def sha3Lanes : Nat → List Byte → List (BitVec 64)
  | 0, _ => []
  | n + 1, l => BitVec.ofNat 64 (ofBytes (l.take 8)) :: sha3Lanes n (l.drop 8)

/-- The last block: what is left of the text, the domain bits and the padding. -/
def sha3Pad (l : List Byte) : List Byte :=
  let body := l ++ [0x06] ++ List.replicate (135 - l.length) 0
  body.modify 135 (· ^^^ 0x80)

/-- Takes in n whole blocks of 136 bytes and then the padded rest. -/
def sha3Absorb : Nat → List Byte → List (BitVec 64) → List (BitVec 64)
  | 0, l, a => keccak (List.zipWith (· ^^^ ·) a (sha3Lanes 25 (sha3Pad l)))
  | n + 1, l, a => sha3Absorb n (l.drop 136) (keccak (List.zipWith (· ^^^ ·) a (sha3Lanes 25 (l.take 136))))

/-- SHA3-256: 32 bytes. -/
def sha3 (l : List Byte) : List Byte :=
  let a := sha3Absorb (l.length / 136) l (List.replicate 25 0)
  ((a.take 4).map fun w => bytesOf 8 w.toNat).flatten

end Sys2Proof.Machine
end

