-- ==== Sys2Proof/Config.lean ====
section
/-!
DEFINITION. The figures of a shipped WD-9648 (R1), and the free values: constants without a body for everything the
manual leaves open. Nothing in Lean can evaluate a free value, so a claim holds whatever it is.
-/
namespace Sys2Proof.Config

/-- Compute dies of a module (R1). -/
def dieCount : Nat := 8
/-- Cores of a die (R1). -/
def coreCount : Nat := 24
/-- Physical group-registers of a core (R1). -/
def physRegs : Nat := 32768
/-- Groups of one quarter (R1). -/
def quarterGroups : Nat := 256
/-- Tiles of a core (R1). -/
def coreTiles : Nat := 64
/-- Team memory of a core in bytes (R1). -/
def teamBytes : Nat := 2097152
/-- Lines of a core's L1: 512 KiB of 128 bytes (R1). -/
def l1Lines : Nat := 4096
/-- Lines of a core's read-only cache: 32 KiB (R109). -/
def roLines : Nat := 256
/-- Entries of the peer predictor (R106). -/
def predictorEntries : Nat := 1024
/-- Lines of a core's instruction store: 256 KiB (R1). -/
def istoreLines : Nat := 2048
/-- Line requests of a core (R335). -/
def lineRequests : Nat := 4096
/-- Copy commands of a core in flight (R70). -/
def copyCommands : Nat := 256
/-- Range-scoreboard entries of a core (R84). -/
def rangeEntries : Nat := 128
/-- Entries of a core's pending-ticket table (R193). -/
def ticketEntries : Nat := 64
/-- Sleeper registrations of a port (R220). -/
def sleeperEntries : Nat := 8192
/-- Bytes of a port's retention buffer (R215). -/
def retentionBytes : Nat := 1048576
/-- Posts a port's reorder store holds (R214). -/
def reorderPosts : Nat := 2048
/-- Element bytes a port's reorder store holds (R214). -/
def reorderBytes : Nat := 524288
/-- How far a count may run ahead of the announced one (R190). -/
def lead : Nat := 1048576

/-- FREE: how many clocks the n-th message or operation takes beyond the first; the manual gives no message latency. -/
opaque latency : Nat → Nat
/-- FREE: a choice between permitted outcomes, for the n-th choice made. -/
opaque choice : Nat → Nat
/-- FREE: the firmware image that die d's boot flash holds at its n-th reset (R321). -/
opaque bootImage : Nat → Nat → List Byte
/-- FREE: whether the image's ML-DSA-44 signature verifies against the vendor key (R321). -/
opaque signatureGood : Nat → Nat → Bool
/-- FREE: the firmware version an image declares (R322). -/
opaque firmwareVersion : List Byte → BitVec 32
/-- FREE: the digest of the firmware image that die d booted before the model's first clock (R321). -/
opaque bootDigest : Nat → List Byte
/-- FREE: the 2,420 bytes of die d's ML-DSA-44 signature over a digest, by its identity key (R322). -/
opaque sign : Nat → List Byte → BitVec 19360
/-- FREE: which management registers hold the public half of the identity key and the vendor certificate (R322). -/
opaque identityRegister : Nat → Bool
/-- FREE: what those registers of die d read, and what any other management register reads that nothing has written (R322). -/
opaque identity : Nat → Nat → BitVec 64
/-- FREE: the number of the counter that a management register reads as, if it is one (R324): cores from 0, eight each; slices
from 192, four each; queue ports from 288, fabric ports from 320, links from 336, eight each. -/
opaque registerCounter : Nat → Option Nat
/-- FREE: the counter number and the source code that the argument of op 0x0F names (R319). -/
opaque counterArg : Nat → Nat × Nat
/-- FREE: the management address of the reset register (R325). -/
opaque resetRegister : BitVec 48
/-- FREE: the congestion window NSCC gives after an acknowledged, marked or lost packet, from the window before (R244). -/
opaque nsccStep : Nat → Nat → Nat
/-- FREE: the n-th pseudo-random entropy value of a fabric port (R243). -/
opaque entropy : Nat → Nat
/-- FREE: which of the permitted choices firmware's fallback tables make for a set of withdrawn links: for channel A (false) the output link
of a die for a destination die and class, for channel B (true) the link to a die's parent in the spanning tree (R238). -/
opaque fallbackRoute : List Nat → Nat → Nat → Nat → Bool → Nat
/-- FREE: the counter event that a source code of op 0x0F names (R319, R324). -/
opaque counterSource : Nat → Nat
/-- FREE: which of the 32 lanes of a link fail the n-th training (R237). -/
opaque trainingFailures : Nat → List Nat
/-- FREE: the initial window of a fabric port that system software has not set (R244). -/
opaque initialWindow : Nat → Nat
/-- FREE: which management register sets which setting of a fabric port of its die, as port and setting: 0 the initial window (R244), 1 the
IP version, 6 or 4 (R241). -/
opaque fabricRegister : Nat → Option (Nat × Nat)
/-- FREE: the tag that endpoints give the n-th message (R234). -/
opaque messageTag : Nat → Nat
/-- FREE: what the hardware paths read where system software has left a spill page unmapped (R292). -/
opaque unmapped : Nat → Nat
/-- FREE: what a struck or worn-out cell reads as (R136). -/
opaque corrupted : Nat → Nat

/-- FREE: what the home of a queue on another module answers to a QSTAT of selector 0 or 1 (R229, R242). -/
opaque remoteStat : Nat → BitVec 64

/-- FREE: where in die-physical HBM a die reserves its dump region at its n-th reset, in units of 64 MiB (R325). -/
opaque dumpRegion : Nat → Nat → Nat

end Sys2Proof.Config
end

