-- ==== Sys2Proof/Machine/Event.lean ====
section
/-!
DEFINITION. The device events as the state holds them while they are in flight: the same rows of the opcode table as the
event constructors of Instr, without the encoded instructions. (A separate type because the compiled code of Lean cannot
build a value of a constructor whose number is above 244; the state must stay something that Lean can run.)
-/
namespace Sys2Proof.Machine

inductive Ev where
  | rcfgComplete (g : Nat)
  | copyRetire (cmd : Nat)
  | copyTranslationFault (cmd : Nat)
  | copyProtectionFault (cmd : Nat)
  | witnessWake (g : Nat)
  | handleTranslationReply (core : Nat) (handle : Nat)
  | qresRequest (msg : Nat)
  | qresDeferredGrant (queue : Nat)
  | qresGrantReceive (msg : Nat)
  | elementArrival (msg : Nat)
  | postArrival (msg : Nat)
  | qdeqClaim (op : Nat)
  | qdeqDeliveryComplete (op : Nat)
  | qflushComplete (op : Nat)
  | qstatComplete (op : Nat)
  | refillStep (queue : Nat)
  | answerAck (msg : Nat)
  | answerRetry (msg : Nat)
  | answerMoved (msg : Nat)
  | answerCheck (msg : Nat)
  | answerRefused (msg : Nat)
  | retentionTimeout (copy : Nat)
  | streamMessageArrival (msg : Nat)
  | streamDeliveryAck (msg : Nat)
  | streamResendTimeout (stream : Nat)
  | flitReceive (link : Nat)
  | parityRequest (link : Nat)
  | parityResponse (link : Nat)
  | replayRequest (link : Nat)
  | linkAck (link : Nat) (upto : Nat)
  | linkRetrainComplete (link : Nat)
  | bufferEntryError (link : Nat)
  | withdrawalAnnounce (die : Nat) (link : Nat)
  | channelATimeout (link : Nat)
  | fabricPacketReceive (port : Nat)
  | pdsRetransmit (port : Nat)
  | pauseFrameReceive (port : Nat)
  | joinBoundExpiry (g : Nat)
  | poolArrival (g : Nat)
  | regroupRelease (pool : Nat)
  | threadDepart (g : Nat)
  | packerStage (core : Nat)
  | packerWindowEmit (core : Nat)
  | segmentLoadComplete (grid : Nat) (seg : Nat)
  | groupEvict (core : Nat)
  | loadComplete (op : Nat)
  | storeComplete (op : Nat)
  | atomicComplete (op : Nat)
  | fillComplete (op : Nat)
  | sliceWrite (msg : Nat)
  | sliceAtomic (msg : Nat)
  | sliceRead (msg : Nat)
  | storeAnswer (msg : Nat)
  | teamMemoryWindowAccess (msg : Nat)
  | l1Invalidation (msg : Nat)
  | invalidationAck (msg : Nat)
  | peerProbe (msg : Nat)
  | probeRefusal (msg : Nat)
  | sharerRegistration (msg : Nat)
  | registrationConfirm (msg : Nat)
  | l1Fill (msg : Nat)
  | directoryEviction (die : Nat) (line : Nat)
  | flueSnapshot (die : Nat)
  | flueApply (die : Nat)
  | ticketSettle (core : Nat)
  | registerGrant (core : Nat)
  | registerRefill (core : Nat)
  | codeLineFill (core : Nat) (ctx : Nat) (addr : Nat)
  | launchStart (die : Nat)
  | plotDispatch (die : Nat)
  | travelLaunchStart (grid : Nat)
  | activeEntry (quarter : Nat)
  | timeSliceExpiry (g : Nat)
  | fallowReturn (g : Nat)
  | groupEnd (g : Nat)
  | teamCompletion (team : Nat)
  | gridEnd (grid : Nat)
  | preemptTrigger (grid : Nat)
  | launchUnitRestore (ctx : Nat)
  | faultDeliveryTimeout (g : Nat)
  | scrubEccError (die : Nat) (sub : Nat) (key : Nat)
  | contextSave (ctx : Nat)
  | dieReset (die : Nat)
  | droopTrip (die : Nat)
  | damperRelease (die : Nat)
  | fatalDieError (die : Nat) (cause : Nat)
  | hbmWrite (chan : Nat)
  | hbmRead (chan : Nat)
  | enqueue (chan : Nat)
  | dequeue (chan : Nat)
  | mgmtRegisterWrite (chan : Nat)
  | mgmtRegisterRead (chan : Nat)
  | managementReset (chan : Nat)
  | contextCreate (chan : Nat)
  | contextDestroy (chan : Nat)
  | tlbInvalidate (chan : Nat)
  | queueTranslationWrite (chan : Nat)
  | multicastGroupWrite (chan : Nat)
  | queueDescriptorWrite (chan : Nat)
  | accessListWrite (chan : Nat)
  | queueMove (chan : Nat)
  | preempt (chan : Nat)
  | restore (chan : Nat)
  | haltRetry (chan : Nat)
  | haltSkip (chan : Nat)
  | haltResumeCopy (chan : Nat)
  | haltKill (chan : Nat)
  | keyInstall (chan : Nat)
  | counterAssign (chan : Nat)
  | attestationQuote (chan : Nat)
  | returnAddressSpillComplete (g : Nat) (lanes : Nat)
  | fabricPortLinkChange (port : Nat) (up : Nat)
  | chimneyPortLinkUp
  | chimneyCommandDiscard (chan : Nat)
  | fallbackTableSwitch (die : Nat)
  deriving DecidableEq, Repr

/-- The row of the opcode table that an event in flight is. -/
noncomputable def Ev.toInstr : Ev → Instr
  | .rcfgComplete g => .rcfgComplete g
  | .copyRetire cmd => .copyRetire cmd
  | .copyTranslationFault cmd => .copyTranslationFault cmd
  | .copyProtectionFault cmd => .copyProtectionFault cmd
  | .witnessWake g => .witnessWake g
  | .handleTranslationReply core handle => .handleTranslationReply core handle
  | .qresRequest msg => .qresRequest msg
  | .qresDeferredGrant queue => .qresDeferredGrant queue
  | .qresGrantReceive msg => .qresGrantReceive msg
  | .elementArrival msg => .elementArrival msg
  | .postArrival msg => .postArrival msg
  | .qdeqClaim op => .qdeqClaim op
  | .qdeqDeliveryComplete op => .qdeqDeliveryComplete op
  | .qflushComplete op => .qflushComplete op
  | .qstatComplete op => .qstatComplete op
  | .refillStep queue => .refillStep queue
  | .answerAck msg => .answerAck msg
  | .answerRetry msg => .answerRetry msg
  | .answerMoved msg => .answerMoved msg
  | .answerCheck msg => .answerCheck msg
  | .answerRefused msg => .answerRefused msg
  | .retentionTimeout copy => .retentionTimeout copy
  | .streamMessageArrival msg => .streamMessageArrival msg
  | .streamDeliveryAck msg => .streamDeliveryAck msg
  | .streamResendTimeout stream => .streamResendTimeout stream
  | .flitReceive link => .flitReceive link
  | .parityRequest link => .parityRequest link
  | .parityResponse link => .parityResponse link
  | .replayRequest link => .replayRequest link
  | .linkAck link upto => .linkAck link upto
  | .linkRetrainComplete link => .linkRetrainComplete link
  | .bufferEntryError link => .bufferEntryError link
  | .withdrawalAnnounce die link => .withdrawalAnnounce die link
  | .channelATimeout link => .channelATimeout link
  | .fabricPacketReceive port => .fabricPacketReceive port
  | .pdsRetransmit port => .pdsRetransmit port
  | .pauseFrameReceive port => .pauseFrameReceive port
  | .joinBoundExpiry g => .joinBoundExpiry g
  | .poolArrival g => .poolArrival g
  | .regroupRelease pool => .regroupRelease pool
  | .threadDepart g => .threadDepart g
  | .packerStage core => .packerStage core
  | .packerWindowEmit core => .packerWindowEmit core
  | .segmentLoadComplete grid seg => .segmentLoadComplete grid seg
  | .groupEvict core => .groupEvict core
  | .loadComplete op => .loadComplete op
  | .storeComplete op => .storeComplete op
  | .atomicComplete op => .atomicComplete op
  | .fillComplete op => .fillComplete op
  | .sliceWrite msg => .sliceWrite msg
  | .sliceAtomic msg => .sliceAtomic msg
  | .sliceRead msg => .sliceRead msg
  | .storeAnswer msg => .storeAnswer msg
  | .teamMemoryWindowAccess msg => .teamMemoryWindowAccess msg
  | .l1Invalidation msg => .l1Invalidation msg
  | .invalidationAck msg => .invalidationAck msg
  | .peerProbe msg => .peerProbe msg
  | .probeRefusal msg => .probeRefusal msg
  | .sharerRegistration msg => .sharerRegistration msg
  | .registrationConfirm msg => .registrationConfirm msg
  | .l1Fill msg => .l1Fill msg
  | .directoryEviction die line => .directoryEviction die line
  | .flueSnapshot die => .flueSnapshot die
  | .flueApply die => .flueApply die
  | .ticketSettle core => .ticketSettle core
  | .registerGrant core => .registerGrant core
  | .registerRefill core => .registerRefill core
  | .codeLineFill core ctx addr => .codeLineFill core ctx addr
  | .launchStart die => .launchStart die
  | .plotDispatch die => .plotDispatch die
  | .travelLaunchStart grid => .travelLaunchStart grid
  | .activeEntry quarter => .activeEntry quarter
  | .timeSliceExpiry g => .timeSliceExpiry g
  | .fallowReturn g => .fallowReturn g
  | .groupEnd g => .groupEnd g
  | .teamCompletion team => .teamCompletion team
  | .gridEnd grid => .gridEnd grid
  | .preemptTrigger grid => .preemptTrigger grid
  | .launchUnitRestore ctx => .launchUnitRestore ctx
  | .faultDeliveryTimeout g => .faultDeliveryTimeout g
  | .scrubEccError die sub key => .scrubEccError die sub key
  | .contextSave ctx => .contextSave ctx
  | .dieReset die => .dieReset die
  | .droopTrip die => .droopTrip die
  | .damperRelease die => .damperRelease die
  | .fatalDieError die cause => .fatalDieError die cause
  | .hbmWrite chan => .hbmWrite chan
  | .hbmRead chan => .hbmRead chan
  | .enqueue chan => .enqueue chan
  | .dequeue chan => .dequeue chan
  | .mgmtRegisterWrite chan => .mgmtRegisterWrite chan
  | .mgmtRegisterRead chan => .mgmtRegisterRead chan
  | .managementReset chan => .managementReset chan
  | .contextCreate chan => .contextCreate chan
  | .contextDestroy chan => .contextDestroy chan
  | .tlbInvalidate chan => .tlbInvalidate chan
  | .queueTranslationWrite chan => .queueTranslationWrite chan
  | .multicastGroupWrite chan => .multicastGroupWrite chan
  | .queueDescriptorWrite chan => .queueDescriptorWrite chan
  | .accessListWrite chan => .accessListWrite chan
  | .queueMove chan => .queueMove chan
  | .preempt chan => .preempt chan
  | .restore chan => .restore chan
  | .haltRetry chan => .haltRetry chan
  | .haltSkip chan => .haltSkip chan
  | .haltResumeCopy chan => .haltResumeCopy chan
  | .haltKill chan => .haltKill chan
  | .keyInstall chan => .keyInstall chan
  | .counterAssign chan => .counterAssign chan
  | .attestationQuote chan => .attestationQuote chan
  | .returnAddressSpillComplete g lanes => .returnAddressSpillComplete g lanes
  | .fabricPortLinkChange port up => .fabricPortLinkChange port up
  | .chimneyPortLinkUp => .chimneyPortLinkUp
  | .chimneyCommandDiscard chan => .chimneyCommandDiscard chan
  | .fallbackTableSwitch die => .fallbackTableSwitch die

end Sys2Proof.Machine
end

