-- ==== Sys2Proof/Machine/Map.lean ====
section
/-!
DEFINITION. The operations on sparse tables: lookup, insertion in key order, removal, and the reads and writes of a
memory in its one canonical form (writing the value an unlisted key reads as removes the entry).
-/
namespace Sys2Proof

/-- The entry at key k, if it is listed. -/
def Map.find {α : Type} : Map α → Nat → Option α
  | [], _ => none
  | (j, a) :: m, k => if j = k then some a else Map.find m k

/-- The value at key k, where an unlisted key reads as d. -/
def Map.get {α : Type} (m : Map α) (d : α) (k : Nat) : α :=
  match Map.find m k with
  | some a => a
  | none => d

/-- Lists k with value a, in key order, in place of any entry k had. -/
def Map.put {α : Type} : Map α → Nat → α → Map α
  | [], k, a => [(k, a)]
  | (j, b) :: m, k, a =>
    if k < j then (k, a) :: (j, b) :: m
    else if j = k then (k, a) :: m
    else (j, b) :: Map.put m k a

/-- Takes the entry k out. -/
def Map.erase {α : Type} : Map α → Nat → Map α
  | [], _ => []
  | (j, b) :: m, k => if j = k then Map.erase m k else (j, b) :: Map.erase m k

/-- Writes a at key k of a memory whose unlisted keys read as d. -/
def Map.set {α : Type} [DecidableEq α] (m : Map α) (d : α) (k : Nat) (a : α) : Map α :=
  if a = d then Map.erase m k else Map.put m k a

/-- Changes the entry at k, where it is listed. -/
def Map.modify {α : Type} : Map α → Nat → (α → α) → Map α
  | [], _, _ => []
  | (j, b) :: m, k, f => if j = k then (j, f b) :: m else (j, b) :: Map.modify m k f

/-- Every listed value. -/
def Map.vals {α : Type} (m : Map α) : List α := m.map (·.2)

/-- Every listed key. -/
def Map.keys {α : Type} (m : Map α) : List Nat := m.map (·.1)

/-- Keeps the entries whose key passes the test. -/
def Map.keep {α : Type} (m : Map α) (p : Nat → Bool) : Map α := m.filter (fun e => p e.1)

/-- Keys strictly rising from a bound. -/
def Map.sortedFrom {α : Type} : Nat → Map α → Bool
  | _, [] => true
  | lo, (j, _) :: m => decide (lo ≤ j) && Map.sortedFrom (j + 1) m

/-- The canonical form of a memory whose unlisted keys read as d. -/
def Map.wf {α : Type} [DecidableEq α] (d : α) (m : Map α) : Bool :=
  Map.sortedFrom 0 m && m.all (fun e => decide (e.2 ≠ d))

/-- The first of the numbers from lo on that is no key of the table, looking at most n of them. -/
def Map.firstFree {α : Type} (m : Map α) : Nat → Nat → Option Nat
  | 0, _ => none
  | n + 1, lo => if (Map.find m lo).isNone then some lo else Map.firstFree m n (lo + 1)

/-- The numbers of a list that a test keeps, in order. -/
def natsBelow (n : Nat) : List Nat := List.range n

/-- Inserts into a list that rises by a measure, after its equals. -/
def insertBy {α : Type} (f : α → Nat) (a : α) : List α → List α
  | [] => [a]
  | b :: l => if f a < f b then a :: b :: l else b :: insertBy f a l

/-- Stable sort by a measure. -/
def sortBy {α : Type} (f : α → Nat) (l : List α) : List α := l.foldl (fun acc a => insertBy f a acc) []

/-- The element of least measure, the earliest at a tie. -/
def minBy {α : Type} (f : α → Nat) : List α → Option α
  | [] => none
  | a :: l =>
    match minBy f l with
    | none => some a
    | some b => if f b < f a then some b else some a

/-- The element of greatest measure, the earliest at a tie. -/
def maxBy {α : Type} (f : α → Nat) : List α → Option α
  | [] => none
  | a :: l =>
    match maxBy f l with
    | none => some a
    | some b => if f a < f b then some b else some a

/-- List.range reduces in the kernel by structural recursion through an accumulator; this one does so directly. -/
def upto : Nat → Nat → List Nat
  | _, 0 => []
  | lo, n + 1 => lo :: upto (lo + 1) n

end Sys2Proof
end

