-- ==== Sys2Proof/Machine/State.lean ====
section
/-!
DEFINITION. The state of one WD-9648 module: every piece of state the manual gives it, as plain data, and the state
right after reset. Tables are sparse (Map); an unlisted key reads as the default its accessor in Machine/Ops.lean names.
Groups, teams, plots, operations, commands and messages are listed under unique numbers that the device hands out.
-/
namespace Sys2Proof.Machine

/-- Why a step can stop. `noIssuingPath`: an instruction was executed while no path stands at the issue stage
(State.cur is empty or names no live group). The device never does this: an instruction exists only at a path (R246).
Raised by every instruction of the opcode map, never by a device event. Safe. -/
inductive Fault where
  | noIssuingPath
  deriving DecidableEq, Repr

/-- Why an instruction has no meaning. `notModelled`: its arm has not been written. Safe. -/
inductive Refusal where
  | notModelled (mnemonic : String)
  deriving DecidableEq, Repr

/-- The memory spaces that have homes (R10, R188), and the two other structures whose cells ECC protects (R136): tile
memory and the slots of queue SRAM. -/
inductive Space where
  | scratch
  | team
  | hbm
  | tile
  | slot
  deriving DecidableEq, Repr

/-- The fault and trap classes of R303 that carry a record. -/
inductive FaultClass where
  | illegalInstruction
  | reservedOperandCode
  | illegalOperand
  | operandNotReady
  | misalignedBranchTarget
  | roleViolation
  | witnessOperand
  | witnessDomain
  | witnessCombine
  | queueHandle
  | queueRights
  | outOfPartition
  | teamMemoryAddress
  | misalignment
  | format
  | travelMode
  | callDepth
  | copyTranslation
  | copyProtection
  | codeTranslation
  | codeProtection
  | queueRefusal
  | arrivalSpill
  | datapath
  | uncorrectableEcc
  | trap
  | bkpt
  | launchRefused
  deriving DecidableEq, Repr

/-- What a check that fails reports (R303): the class with its record's class-specific fields and failing lanes. -/
structure FaultInfo where
  cls : FaultClass
  sub : Nat := 0
  addr : Nat := 0
  aux : Nat := 0
  lanes : Lanes := 0
  imm : Nat := 0
  deriving DecidableEq, Repr

/-- The instruction a record or an operation names: its address, clause, index, first word and active lanes (R304). -/
structure InsInfo where
  pc : Nat := 0
  clause : Nat := 0
  cpos : Nat := 0
  word : Nat := 0
  lanes : Lanes := 0
  deriving DecidableEq, Repr

/-- An asynchronous or fatal fault waiting for its delivery (R305), with the die clock of its detection and whether it is delivered in this
clock, and whether a saved group's record names it (R312); also a trap that waits for the clock's second path. -/
structure PendingFault where
  info : FaultInfo
  ins : InsInfo
  since : Nat
  due : Bool := false
  inArea : Bool := false
  deriving DecidableEq, Repr

/-- The Park reasons of a thread (R298, R277, R253), each with what the wake-up test needs. -/
inductive Park where
  | none
  | ring (k : Nat) (full : Bool) (ph : Bool) (idx : Nat)
  | barrier (plot : Bool) (id : Nat) (phase : Bool)
  | witness (w : Wit) (set : Nat)
  | queue (op : Nat)
  | regroup (addr : Nat)
  | depart
  | join (addr : Nat) (since : Nat) (bound : Nat)
  deriving DecidableEq, Repr

/-- Why a path's next instruction cannot issue though its threads are not parked (R298 and the causes of R297 that
keep the group active). -/
inductive Stall where
  | none
  | flagFull (cf : Nat)
  | copyEngine (entry : Bool)
  | rangeEntry (lo hi : Nat) (sp : Space) (wr : Bool)
  | rcfg (k base geom : Nat)
  | sleepers (port : Nat)
  | retention (port : Nat) (bytes : Nat)
  | lineRequests (n : Nat)
  | superseded
  | register (n : Nat)
  | tickets (n : Nat)
  | array
  | follower
  | followerRange (lo hi : Nat)
  | retAddr
  | handle (h : Nat)
  | homeLead
  | teamOrder
  deriving DecidableEq, Repr

/-- One thread: a lane's position in its group (R2, R246 to R257). `held` marks a thread that a fallow cause held when its group went
fallow (R297), `sent` is the instruction whose transfer or fall-through makes it depart (R304), and `len` the length of the instruction
that last took a precise fault (R307). -/
structure Thread where
  tid : Nat := 0
  live : Bool := false
  pc : Nat := 0
  clause : Nat := 0
  cpos : Nat := 0
  entered : Bool := false
  hdr0 : Word := 0
  hdr1 : Word := 0
  park : Park := .none
  wpc : Nat := 0
  wcpos : Nat := 0
  stall : Stall := .none
  held : Bool := false
  age : Nat := 0
  rstack : List Nat := []
  rsd : Nat := 0
  join : List (Lanes × Nat) := []
  hint : Nat := 0
  carry : Wit := 0
  key : Nat := 0
  taken : Bool := false
  sent : InsInfo := {}
  len : Nat := 0
  deriving DecidableEq, Repr

/-- The register contents of a group (R124). Unlisted elements read zero; p0 is not stored; `written` marks the operand-file entries written
since dispatch (R311). Elements carry a residue (R135): `poison` lists
those that hold 11 (by register number of R303, 104 for the latch, times 32 plus the lane; for a scalar or predicate it stands for a parity
mismatch), `upset` the residue of those whose data has changed in storage since; every other element's is that of its data. -/
structure Regs where
  v : Map Word := []
  vmap : BitVec 96 := 0
  spilled : BitVec 96 := 0
  o : Map Word := []
  written : BitVec 8 := 0
  s : Map Word := []
  p : Map Lanes := []
  lr : Map Word := []
  lrValid : Lanes := 0
  poison : List Nat := []
  upset : Map Nat := []
  deriving DecidableEq, Repr

/-- A destination owed by an outstanding operation (R23): its R303 register number, the lanes the result still reaches,
the superseded physical registers held for it (R127) and whether a release freed its mapping (R128). -/
structure Owed where
  op : Nat
  reg : Nat
  lanes : Lanes
  sup : Nat := 0
  rel : Bool := false
  deriving DecidableEq, Repr

/-- The A latch of a group when held (R177): the base, the block and its scales, byte by byte. -/
structure ALatch where
  base : Nat
  a : List Byte
  scales : Option (List Byte)
  deriving DecidableEq, Repr

/-- The role of a group in its launch (R43, R286). -/
inductive Role where
  | copy
  | matrix
  | vector
  | unified
  deriving DecidableEq, Repr

/-- Where a quarter keeps a group (R296), or that it is halted (R305) or has ended (R264). -/
inductive GSet where
  | ready
  | active
  | fallow
  | halted
  | ended
  deriving DecidableEq, Repr

/-- What a halted group accepts (R307). -/
inductive HaltKind where
  | plain
  | header
  | killOnly
  deriving DecidableEq, Repr

/-- One group (R12, R124, R129, R296). -/
structure Group where
  die : Nat := 0
  core : Nat := 0
  slot : Nat := 0
  quarter : Nat := 0
  ctx : Nat := 0
  grid : Nat := 0
  team : Nat := 0
  gidx : Nat := 0
  role : Role := .unified
  floor : Nat := 1
  ceil : Nat := 96
  grants : Map Nat := []
  set : GSet := .ready
  saved : Bool := false
  fallowSince : Nat := 0
  issues : Nat := 0
  regs : Regs := {}
  threads : Map Thread := []
  cf : Map Nat := []
  fflags : FFlags := 0
  late : List (Nat × FFlags) := []
  rmode : Nat := 0
  owed : List Owed := []
  latch : Option ALatch := none
  openCount : Nat := 0
  pend : List PendingFault := []
  halt : HaltKind := .plain
  haltLanes : Lanes := 0
  spillWritten : List Nat := []
  pooled : Bool := false
  poolN : Nat := 0
  poolRel : List Nat := []
  poolBr : Bool := false
  deriving DecidableEq, Repr

/-- One stage of a ring (R86). -/
structure Stage where
  full : Bool := false
  phase : Bool := false
  count : Nat := 0
  deriving DecidableEq, Repr

/-- One ring of a team (R86); unconfigured until RCFG. `arr` lists the stages that counted an arrival in this clock: R87
applies them after every RREL of the clock. -/
structure Ring where
  arr : List Nat := []
  conf : Bool := false
  base : Nat := 0
  size : Nat := 0
  n : Nat := 1
  need : Nat := 1
  stages : Map Stage := []
  deriving DecidableEq, Repr

/-- One barrier (R122): its phase and the arrival records of the current and the next phase, as (team, %tid). -/
structure Barrier where
  phase : Bool := false
  cur : List (Nat × Nat) := []
  nxt : List (Nat × Nat) := []
  deriving DecidableEq, Repr

/-- One resident or saved team (R289, R293). -/
structure Team where
  die : Nat := 0
  core : Nat := 0
  ctx : Nat := 0
  grid : Nat := 0
  plot : Nat := 0
  member : Nat := 0
  index : Nat := 0
  base : Nat := 0
  size : Nat := 0
  tiles : Nat := 0
  nrings : Nat := 0
  groups : Nat := 1
  fds : Map Word := []
  rings : Map Ring := []
  bars : Map Barrier := []
  saved : Bool := false
  ended : Bool := false
  ticket : Option Nat := none
  deriving DecidableEq, Repr

/-- One dispatched plot (R97, R288). -/
structure Plot where
  die : Nat := 0
  grid : Nat := 0
  index : Nat := 0
  top : Nat := 0
  w : Nat := 1
  h : Nat := 1
  teams : List Nat := []
  bars : Map Barrier := []
  deriving DecidableEq, Repr

/-- One segment of a travel launch with its replicas (`first`: those of the launch's start), the standby cores whose load is in progress
and those that wait to join the replica table, and the hot count of R278. -/
structure Segment where
  valid : Bool := false
  base : Nat := 0
  len : Nat := 0
  rep : BitVec 24 := 0
  first : BitVec 24 := 0
  stby : BitVec 24 := 0
  loading : List Nat := []
  loaded : List Nat := []
  hot : Nat := 0
  replications : Nat := 0
  deriving DecidableEq, Repr

/-- A departure record (R272): the fields of the header, with the live registers as (number, value). -/
structure TRecord where
  slot : Nat := 0
  pc : Nat := 0
  cpos : Nat := 0
  tid : Nat := 0
  hint : Nat := 0
  rsd : Nat := 0
  rstack : List Nat := []
  pred : Nat := 0
  wit : Wit := 0
  live : List (Nat × Word) := []
  deriving DecidableEq, Repr

/-- The packer of one core of a travel launch (R275): the staged records with the window in which each joined, the
counts TSTAT reads, and the bins that are ready to be emitted, as PC, index and the clock since which they are (R275, R279). -/
structure Packer where
  staged : List (TRecord × Nat) := []
  partials : Nat := 0
  evictions : Nat := 0
  sent : Nat := 0
  refilled : Nat := 0
  ready : List (Nat × Nat × Nat) := []
  deriving DecidableEq, Repr

/-- The stage of a grid's life (R290, R291, R294, R300): a travel launch that waits for its cores, running, ended but still in its slot,
and out of its slot (kept for what is still reported about it). -/
inductive GridStage where
  | waiting
  | running
  | ended
  | freed
  deriving DecidableEq, Repr

/-- One grid slot in use (R285, R286, R293): the launch packet as dequeued and the progress of its grid; `overflowed` once an arrival-spill
fault has halted the kernel (R279). -/
structure Grid where
  die : Nat := 0
  slot : Nat := 0
  ctx : Nat := 0
  prio : Nat := 0
  order : Nat := 0
  packet : BitVec 2048 := 0
  stage : GridStage := .running
  fds : Map Word := []
  nextPlot : Nat := 0
  done : List Nat := []
  flags : FFlags := 0
  faulted : Bool := false
  overflowed : Bool := false
  blocked : Nat := 0
  segs : Map Segment := []
  threadsLeft : Nat := 0
  nextThread : Nat := 0
  standbyWant : Nat := 0
  ticket : Option Nat := none
  deriving DecidableEq, Repr

/-- One requirement of a ticket (R193): a count of a home, or a ticket of another core. -/
inductive Req where
  | count (home : Nat) (q : Nat)
  | ticket (core : Nat) (n : Nat)
  deriving DecidableEq, Repr

/-- A pending ticket (R193): pair requirements, and the write records that a drain requirement names. -/
structure Ticket where
  reqs : List Req := []
  drain : List Nat := []
  ctx : Nat := 0
  deriving DecidableEq, Repr

/-- A write that an instruction issued and that may not be visible yet, as drains name it (R201, R271). -/
structure WRec where
  groups : List Nat
  lanes : Lanes
  team : Nat
  grid : Nat
  die : Nat
  core : Nat
  home : Nat
  count : Option Nat := none
  deriving DecidableEq, Repr

/-- The state of one lane of an outstanding access. -/
inductive LaneSt where
  | waitWitness
  | waitLine
  | sent
  | done
  deriving DecidableEq, Repr

/-- One lane of an outstanding access: address, witness presented, data sent or received, and count received. -/
structure LaneAcc where
  lane : Nat
  addr : Nat
  wit : Wit := 0
  st : LaneSt := .sent
  val : Nat := 0
  arg : Nat := 0
  cmp : Nat := 0
  wout : Wit := 0
  deriving DecidableEq, Repr

/-- The atomic operations of R116. -/
inductive AtomicOp where
  | add | mins | maxs | minn | maxn | and | or | xor | exch | cas | incw | fadd | faddb2 | fmin | fmax
  deriving DecidableEq, Repr

/-- The kinds of outstanding memory operation (R21, R120). -/
inductive OpKind where
  | load
  | loadRo
  | store
  | atomic (op : AtomicOp)
  | fill
  deriving DecidableEq, Repr

/-- An outstanding memory operation of a group (R23, R112, R113, R117, R119, R335). `recs` are the write records of accesses to team
memory that have not been performed: by 128-byte line of the key, those of the own core together under its lowest line (R98, R201). -/
structure MemOp where
  kind : OpKind
  g : Nat
  die : Nat
  core : Nat
  team : Nat
  grid : Nat
  space : Space := .scratch
  member : Nat := 0
  flag : Option Nat := none
  dst : Nat := 105
  size : Nat := 4
  wp : Nat := 63
  lanes : List LaneAcc := []
  lines : List Nat := []
  recs : Map Nat := []
  ins : InsInfo := {}
  deriving DecidableEq, Repr

/-- The copy and base-die commands (R82, R90). -/
inductive CmdKind where
  | cpy | cpyo | gath | rdce | conv | fillz
  deriving DecidableEq, Repr

/-- Where a command stands (R70 to R77): waiting to start, suspended by a translation fault, written, or stopped. -/
inductive CmdStage where
  | queued
  | suspended
  | written
  | stopped
  deriving DecidableEq, Repr

/-- A copy or base-die command in flight (R70 to R94): what it was issued with (operands, the eight shape fields after
substitution, the descriptor and format read at issue), and how far it has come: its checkpoint as a linear index, the highest
count its writes received at each home, its scoreboard ranges and the fault address that stopped it; `block` is the block that its last
element wrote, `cancel` that a CANCEL takes effect after its turn of this clock (R94). -/
structure Cmd where
  kind : CmdKind
  g : Nat
  die : Nat
  core : Nat
  ctx : Nat
  team : Nat
  grid : Nat
  slot : Nat
  flag : Nat
  space : Space := .team
  ring : Option (Nat × Nat) := none
  shape : List Nat := []
  va : Nat := 0
  va2 : Nat := 0
  va3 : Nat := 0
  base : Nat := 0
  index : Nat := 0
  rows : Nat := 0
  pattern : Word := 0
  format : Word := 0
  fd : Word := 0
  wp : Nat := 63
  wit : Wit := 0
  stage : CmdStage := .queued
  pos : Nat := 0
  counts : Map Nat := []
  range : List (Space × Nat × Nat × Bool) := []
  flags : FFlags := 0
  faulted : Option Nat := none
  block : Option Nat := none
  cancel : Bool := false
  ins : InsInfo := {}
  deriving DecidableEq, Repr

/-- One L1 line (R104): Shared with data and stamp, or Pending with the loads that wait and whether the fill is killed. -/
inductive L1State where
  | shared (data : BitVec 1024) (stamp : Nat)
  | pending (killed : Bool) (acks : List Nat)
  deriving DecidableEq, Repr

/-- A directory entry with the count of the line's last write (R105). -/
structure DirEntry where
  sharers : BitVec 24 := 0
  lastw : Nat := 0
  deriving DecidableEq, Repr

/-- A message of the die's mesh (R101), under the device event that receives it. An answer's `stamp` is the count of the line's last write,
a probe's `least` the oldest stamp that its core may still be shown (R112, R197). -/
inductive MeshMsg where
  | write (die core line : Nat) (op : Nat) (lanes : List LaneAcc) (size : Nat) (wrec : Nat)
  | atomic (die core line : Nat) (op : Nat) (kind : AtomicOp) (lanes : List LaneAcc) (size : Nat) (wrec : Nat)
  | read (die core line : Nat) (ro : Option Nat)
  | answer (die core : Nat) (line : Option Nat) (op : Nat) (count stamp : Nat) (lanes : List LaneAcc) (wrec : Nat)
  | window (die core dst : Nat) (op : Nat) (kind : OpKind) (lanes : List LaneAcc) (size : Nat) (wrec : Nat)
  | inval (die core line : Nat) (hold : Nat)
  | ack (die : Nat) (hold : Nat)
  | probe (die core line peer least : Nat)
  | refusal (die core line : Nat)
  | register (die core line peer stamp : Nat)
  | confirm (die peer line : Nat)
  | fill (die core line : Nat) (data : BitVec 1024) (stamp : Nat) (peer : Option Nat) (hint : Option Nat) (ro : Option Nat)
  deriving DecidableEq, Repr

/-- A hold on a home's visible count (R105, R107): it stays below `count` until `core` has acknowledged. -/
structure Hold where
  home : Nat
  count : Nat
  core : Nat
  line : Nat
  deriving DecidableEq, Repr

/-- The kinds of queue message (R242), one of a reserved code, and a QVOID on its way to its home (R229), which R242 gives no code. -/
inductive QKind where
  | element
  | post
  | answer
  | request
  | grant
  | void
  | reserved (code : Nat)
  deriving DecidableEq, Repr

/-- A queue message: the fields of the R242 header and the element's bytes; `id` is the retained copy or the operation
it belongs to, `hw` that hardware sends it (fault records, departure records), `sseq` the stream sequence of a message between modules
(R231). -/
structure QMsg where
  kind : QKind
  ver : Nat := 1
  esz : Nat := 0
  domain : Nat := 0
  qid : Nat := 0
  key : Nat := 0
  smod : Nat := 0
  sdie : Nat := 0
  sport : Nat := 0
  ctx : Nat := 0
  ans : Nat := 0
  try_ : Bool := false
  cnt : Nat := 0
  crc : Word := 0
  data : List Byte := []
  id : Nat := 0
  hw : Bool := false
  core : Nat := 0
  sseq : Nat := 0
  deriving DecidableEq, Repr

/-- A slot at or above F that is not free (R211); `broken` is a filled slot whose code failed on refill (R216). -/
inductive SlotSt where
  | reserved (owner : Nat)
  | filled (owner : Nat) (data : List Byte) (crc : Word) (qid key : Nat) (inWindow : Bool)
  | void
  | claimed (owner : Nat) (op : Nat) (done : Bool)
  | broken (owner : Nat)
  deriving DecidableEq, Repr

/-- A consumer request (R219, R220, R336): QDEQ, QWAIT and QSTAT with their operands; also a QRES or a QFLUSH. -/
inductive QOpKind where
  | qres
  | qdeq
  | qwait
  | qflush
  | qstat
  deriving DecidableEq, Repr

/-- An outstanding queue operation of a group (R225, R228, R229): its operands, what it has claimed (slot and element), and
for a QFLUSH the retained copies it still waits for and the highest slot answered ACK; for a QDEQ of the memory form the record of its
write. -/
structure QOp where
  kind : QOpKind
  g : Nat
  die : Nat
  core : Nat
  ctx : Nat
  flag : Option Nat := none
  qid : Nat := 0
  handle : Nat := 0
  esz : Nat := 0
  want : Nat := 1
  lanes : Lanes := 0
  form : Nat := 0
  sleepy : Bool := false
  pd : Nat := 0
  dst : Nat := 0
  addr : Nat := 0
  token : Wit := 0
  sel : Nat := 0
  got : List (Nat × List Byte) := []
  waitFor : List Nat := []
  high : Option Nat := none
  registered : Bool := false
  delivering : Bool := false
  moved : Bool := false
  wrec : Nat := 0
  ins : InsInfo := {}
  deriving DecidableEq, Repr

/-- The sequence state a home keeps for a producer of a queue (R214). -/
structure Producer where
  next : Nat := 0
  last : Nat := 0
  deriving DecidableEq, Repr

/-- One queue of a port (R208 to R214): descriptor, access list, pointers, slots, waiting requests and sleepers. Slot numbers are kept
unrolled; on messages and in registers they have 40 bits (R209). `past` lists the slots below F with the owner of each plus 1, and 0 for a
void one (R211, R215). -/
structure Queue where
  desc : BitVec 128 := 0
  acl : List Word := []
  f : Nat := 0
  h : Nat := 0
  c : Nat := 0
  t : Nat := 0
  e : Nat := 0
  slots : Map SlotSt := []
  fifo : List QMsg := []
  sleepers : List Nat := []
  prods : Map Producer := []
  past : Map Nat := []
  voids : Nat := 0
  dups : Nat := 0
  owner : Nat := 0
  deriving DecidableEq, Repr

/-- A retained copy at a source port (R215): its message, where it was sent from and for whom, the multicast member it is
(R221), the CHECK answers it has had, the clock it was last sent, whether it waits for a link or for a table change, whether it waits to be resent in its turn, and the chimney channel and sequence number of an enqueue command. -/
structure Retained where
  msg : QMsg
  die : Nat
  port : Nat
  g : Nat
  handle : Nat
  spray : Nat := 0
  member : Option Nat := none
  checks : Nat := 0
  sent : Nat := 0
  waiting : Bool := false
  moved : Bool := false
  again : Bool := false
  chim : Option (Nat × Nat) := none
  ins : InsInfo := {}
  deriving DecidableEq, Repr

/-- One queue port (R8, R213 to R217): its posts' sequence numbers, the streams of posts that go on at the QID that their queue has moved to,
the lowest refused number of a stream that has later posts out, the held posts of the reorder store, the multicast refusal masks and how many
messages of a reserved kind or version it has dropped (R242). -/
structure Port where
  seqs : Map Nat := []
  moved : Map Nat := []
  refused : Map Nat := []
  held : List QMsg := []
  masks : Map (BitVec 64) := []
  reserved : Nat := 0
  deriving DecidableEq, Repr

/-- What a message of the package network carries (R230); `away`: a queue message for another module, kept at its source with the mask of
the fabric ports it may take (R231, R243). -/
inductive NetBody where
  | queue (m : QMsg)
  | away (mask : Nat) (m : QMsg)
  | deliveryAck (src dst cls : Nat) (upto : Nat)
  | withdraw (link : Nat)
  | toFabric (port : Nat) (m : QMsg)
  | fromFabric (port : Nat) (m : QMsg)
  deriving DecidableEq, Repr

/-- A message of a stream (R230, R231), with its endpoints' tag (R234). -/
structure NetMsg where
  src : Nat
  dst : Nat
  cls : Nat
  sseq : Nat
  body : NetBody
  bytes : List Byte := []
  tag : Nat := 0
  deriving DecidableEq, Repr

/-- The two ends of one stream (R231): the next number to send and the messages kept until acknowledged with the clock
of their last sending; the next number expected and the messages held. -/
structure Stream where
  next : Nat := 0
  kept : List (Nat × NetMsg × Nat) := []
  expected : Nat := 0
  held : List (Nat × NetMsg) := []
  deriving DecidableEq, Repr

/-- One flit (R234): header, payload, p0 to p7, and p8 to p15 as its sender keeps them (R235); its message and its place in it; where it
goes. `hop` is the buffer entry in which it stands, as link, channel and lseq, while it waits to go on (R233), `since` the clock since which
it waits, `fall` says that it took channel B under fallback tables, `lost` that its entry has failed and it waits for its replay (R237,
R238). -/
structure Flit where
  hdr : BitVec 128
  payload : List Byte
  parity : List Byte := []
  rest : List Byte := []
  msg : Option NetMsg
  idx : Nat := 0
  count : Nat := 1
  dst : Nat
  cls : Nat
  chanB : Bool
  hop : Option (Nat × Nat × Nat) := none
  since : Nat := 0
  fall : Bool := false
  lost : Bool := false
  deriving DecidableEq, Repr

/-- The recovery step of R236 at which a receiver stands for the flit it awaits. -/
inductive Ladder where
  | normal
  | parity
  | replay
  | resentParity
  deriving DecidableEq, Repr

/-- One direction of a package link (R233 to R238): the sender's next lseq, the flits not yet acknowledged, those that wait to be sent, the
lseqs on the wire and the messages that have taken channel B here; the receiver's expected lseq, the flits held back with their errors, the
ladder, the flits whose further parity it has asked for with their errors, the accepted lseqs that still stand in its buffer and those of them
to be replayed; the errors to come, as places and changes of the next flits' bytes; good buffer entries and those in use per channel; training. -/
structure Link where
  next : Nat := 0
  unacked : List (Nat × Flit) := []
  waiting : List Flit := []
  flying : List Nat := []
  moved : List Nat := []
  expected : Nat := 0
  heldBack : List (Nat × List (Nat × Byte)) := []
  ladder : Ladder := .normal
  asked : List (Nat × List (Nat × Byte)) := []
  standing : List Nat := []
  missing : List Nat := []
  noise : List (List (Nat × Byte)) := []
  good : Nat := 64
  used : Map Nat := []
  half : Bool := false
  training : Bool := false
  retrains : List Nat := []
  withdrawn : Bool := false
  drops : Nat := 0
  deriving DecidableEq, Repr

/-- A packet of a fabric port (R241): IPv6 or IPv4, the UDP destination port, and as UDP source port its entropy value (R243); `ecn` is the
mark of a switch on its way, `echo` the mark that an acknowledgement returns. -/
structure Packet where
  rmod : Nat
  domain : Nat
  auth : BitVec 256
  msg : NetMsg
  ipv6 : Bool := true
  dport : Nat := 4793
  ecn : Bool := false
  echo : Bool := false
  psn : Nat := 0
  entropy : Nat := 0
  deriving DecidableEq, Repr

/-- NSCC state for one (domain, remote module) (R244). -/
structure Nscc where
  window : Nat := 0
  marks : Nat := 0
  flight : Nat := 0
  paths : List Nat := []
  deriving DecidableEq, Repr

/-- One fabric port (R240 to R245): whether its link is up; the initial window, IP version and UDP destination port that system software
sets; NSCC state; packets. -/
structure FabricPort where
  up : Bool := true
  initWindow : Nat := 0
  ipv6 : Bool := true
  udp : Nat := 4793
  nscc : Map Nscc := []
  lru : List Nat := []
  unacked : List Packet := []
  sent : List Packet := []
  inbox : List Packet := []
  psn : Nat := 0
  pauses : Nat := 0
  drops : Nat := 0
  waits : Nat := 0
  deriving DecidableEq, Repr

/-- The transport key slots of one domain (R245). -/
structure KeySlots where
  slot0 : Option (BitVec 256) := none
  slot1 : Option (BitVec 256) := none
  current : Bool := false
  deriving DecidableEq, Repr

/-- A counter (R324): 48 bits, its source and the context that may read it. -/
structure Counter where
  value : BitVec 48 := 0
  source : Nat := 0
  reader : Nat := 0xFFFF
  deriving DecidableEq, Repr

/-- One quarter (R296, R297): the active set in rotation order, the ready FIFO, the group last issued for, the one behind which the rotation goes on where that has left the set, and the active
slots that were free at the start of the clock. -/
structure Quarter where
  active : List Nat := []
  ready : List Nat := []
  last : Nat := 0
  after : Nat := 0
  room : Nat := 8
  deriving DecidableEq, Repr

/-- A register request of R130 and R131: the group, whether it is a refill, and for one to allocate how many registers the path at a
PC needs. -/
structure RegReq where
  g : Nat
  refill : Bool
  n : Nat
  pc : Nat := 0
  deriving DecidableEq, Repr

/-- A translation held by a TLB (R69): context, virtual base, size and page-table entry. -/
structure TlbEntry where
  ctx : Nat
  base : Nat
  size : Nat
  pte : BitVec 64
  deriving DecidableEq, Repr

/-- A line of the instruction store (R290): the context and virtual address it was fetched for, and its bytes. -/
structure CodeLine where
  ctx : Nat
  addr : Nat
  data : List Byte
  pinned : Bool := false
  deriving DecidableEq, Repr

/-- The operand classes of an MMA (R165). -/
inductive MClass where
  | byte
  | nibble
  | f16
  | bf16
  deriving DecidableEq, Repr

/-- A follower's part of a yoked MMA that has issued in this clock (R180 to R182): the issuing group and instruction, the follower's
team and tile, the class, the descriptors, A with its scales as broadcast, the offset of B and the clock of the tile write. -/
structure YokeRun where
  g : Nat
  ins : InsInfo
  team : Nat
  tile : Nat
  cls : MClass
  fdA : Word
  fdB : Word
  a : List Byte
  scales : Option (List Byte)
  b : Nat
  due : Nat
  deriving DecidableEq, Repr

/-- An MMA that waits for its core's array (R181): where its path stands, and how many yoked MMAs have issued since. -/
structure MmaWait where
  g : Nat
  lane : Nat
  pc : Nat
  seen : Nat
  deriving DecidableEq, Repr

/-- One core (R8, R70, R104 to R109, R130, R173, R181, R193, R335). `seen` holds, for each scratchpad line, the highest stamp of which the
core has observed the value (R112, R197). -/
structure Core where
  tickets : Map Ticket := []
  ticketNext : Nat := 1
  settled : Nat := 0
  lineUsed : Nat := 0
  l1 : Map L1State := []
  l1Order : List Nat := []
  ro : Map (BitVec 1024) := []
  roOrder : List Nat := []
  roBypass : List Nat := []
  predictor : Map Nat := []
  ownWrites : Map Nat := []
  seen : Map Nat := []
  unanswered : Map Nat := []
  forwards : Map Nat := []
  withheld : List (Nat × Nat) := []
  regReqs : List RegReq := []
  arrayFree : Nat := 0
  yokeFree : Nat := 0
  yokes : List YokeRun := []
  mmaWait : List MmaWait := []
  tlb : List TlbEntry := []
  istore : List CodeLine := []
  handles : Map (BitVec 64) := []
  packer : Packer := {}
  counters : Map Counter := []
  owners : List (Nat × Nat × Nat) := []
  deriving DecidableEq, Repr

/-- Whether a die runs, waits in recovery (R321) or has dumped after a fatal error (R325). -/
inductive DieMode where
  | running
  | recovery
  | dumped
  deriving DecidableEq, Repr

/-- One die: clock, incarnation, counts, the home table of all its cores, announcements in flight, the messages that wait at each home
in the order of their arrival (R100, R190), the hardware's own writes that wait at an HBM home, as home, key and bytes (R190), shared TLB, directory
and management state (R102, R105, R190, R321 to R325), and the process domain, plus 1, that last owned each 64 KiB frame of HBM and each
MiB of scratchpad (R314); and of each message that is arriving, the flits that have come. -/
structure Die where
  clock : Nat := 0
  mode : DieMode := .running
  droop : Bool := false
  damper : Nat := 0
  skip : Bool := false
  inc : Nat := 0
  fwVersion : Nat := 0
  firmware : List Byte := []
  log : List (List Byte) := []
  given : Map Nat := []
  visible : Map Nat := []
  table : Map Nat := []
  snaps : List (Nat × Map Nat) := []
  holds : Map Hold := []
  homeWait : Map (List Nat) := []
  writeWait : List (Nat × Nat × List Byte) := []
  dir : Map DirEntry := []
  tlb : List TlbEntry := []
  ctlFaultSeq : Nat := 0
  refusals : Nat := 0
  discardedFlags : Nat := 0
  damperOverruns : Nat := 0
  counters : Map Counter := []
  mgmt : Map (BitVec 64) := []
  keys : Map KeySlots := []
  fallback : Bool := false
  fallbackFor : List Nat := []
  loaded : List Nat := []
  routes : Map Nat := []
  arriving : Map (List Nat) := []
  frames : Map Nat := []
  dump : Nat := 2047
  parts : Map Nat := []
  deriving DecidableEq, Repr

/-- The stage of a context (R305, R309, R313): running, halting for a pre-emption since a die clock, saved, or stopped by a fatal
fault. -/
inductive CtxStage where
  | running
  | halting (since : Nat)
  | saved
  | stopped
  deriving DecidableEq, Repr

/-- A multicast group (R205). -/
structure McGroup where
  mask : BitVec 64 := 0
  members : Map Word := []
  deriving DecidableEq, Repr

/-- One context on one die (R99, R204, R205, R304, R320), with the chimney channel and sequence number that await its
pre-emption, and whether a fatal fault has stopped it. -/
structure Context where
  desc : BitVec 512 := 0
  trans : Map (BitVec 64) := []
  mcast : Map McGroup := []
  stage : CtxStage := .running
  seq : Nat := 0
  stretched : Nat := 0
  byLaunchUnit : Bool := false
  asker : Option (Nat × Nat) := none
  fatal : Bool := false
  deriving DecidableEq, Repr

/-- A command on a chimney channel: its header and payload (R317). -/
structure ChimCmd where
  hdr : BitVec 256
  payload : List Byte
  deriving DecidableEq, Repr

/-- One chimney channel (R317, R318): the awaited sequence number, the commands that have arrived, the sequence number of the command that has
begun and whose effect is still to come (a pre-emption, an enqueue), and the HBM counts its earlier writes still wait for, as (die, home,
count). -/
structure Channel where
  expect : Nat := 0
  busy : Option Nat := none
  inbox : List ChimCmd := []
  durable : List (Nat × Nat × Nat) := []
  deriving DecidableEq, Repr

/-- A response sent on a chimney channel (R317, R325). -/
structure Response where
  chan : Nat
  hdr : BitVec 256
  payload : List Byte
  deriving DecidableEq, Repr

/-- A regroup pool of a quarter (R258): its key (core, quarter, team, address of the instruction), whether a marked BR formed it,
the count of its first arrival, the groups in arrival order, whether it has closed, whether its threads have moved, and the output
groups not yet released. -/
structure Pool where
  die : Nat
  core : Nat
  quarter : Nat
  team : Nat
  addr : Nat
  isBr : Bool
  n : Nat
  arrivals : List Nat := []
  closed : Bool := false
  formed : Bool := false
  outputs : List Nat := []
  deriving DecidableEq, Repr

/-- A path chosen to issue in this clock (R246 to R248): the group, its lanes and whether it is the second path, with the
registers as they stood before the clock (R159). -/
structure Issue where
  g : Nat
  lanes : Lanes
  second : Bool := false
  pre : Option Regs := none
  word : Nat := 0
  len : Nat := 0
  deriving DecidableEq, Repr

/-- A particle strike or wear-out error that the outside world makes (R135, R136): a mismatch at the writeback of an element, or in a
scalar's or predicate's parity; data bits of an element that change in storage under the residue it holds; a cell that ECC protects. -/
inductive Strike where
  | register (g : Nat) (reg : Nat) (lane : Nat)
  | upset (g : Nat) (reg : Nat) (lane : Nat) (bits : Word)
  | cell (sp : Space) (key : Nat)
  deriving DecidableEq, Repr

/-- What the outside world does to the module (R136, R235, R237, R243, R317, R321): a device event of its own, a command that arrives on a
chimney channel, a packet that arrives at a fabric port, a strike, changes of bytes of the next flit of a link, or a further digest that a die's
firmware appends to its measurement log. -/
inductive Input where
  | event (ev : Ev)
  | command (chan : Nat) (c : ChimCmd)
  | packet (port : Nat) (p : Packet)
  | strike (k : Strike)
  | damage (link : Nat) (bytes : List (Nat × Byte))
  | digest (die : Nat) (d : List Byte)
  deriving DecidableEq, Repr

/-- An event in flight: the module clock at which it is due, its order within a clock, and the event. -/
structure Due where
  at_ : Nat
  prio : Nat
  ev : Ev
  deriving DecidableEq, Repr

structure State where
  /-- Module number, set by system software (R126). -/
  module : Nat
  /-- The clock of the module's arithmetic (R1); each die's own clock is in dies. -/
  now : Nat
  /-- MODEL'S OWN: how many free values have been drawn. -/
  draws : Nat
  /-- MODEL'S OWN: the next unique number. -/
  fresh : Nat
  /-- MODEL'S OWN: device events in flight, in the order in which they fall due. -/
  pending : List Due
  /-- MODEL'S OWN: the due clock last given on each FIFO channel (R101). -/
  chans : Map Nat
  /-- MODEL'S OWN: what the outside world will do, with its module clock. -/
  inputs : List (Nat × Input)
  /-- MODEL'S OWN: the quarters that have still to issue in this clock. -/
  todo : List Nat
  /-- MODEL'S OWN: the paths that have still to issue in this clock, the issuing one first. -/
  issue : List Issue
  /-- The path whose instruction is at the issue stage. -/
  cur : Option Issue
  dies : Map Die
  cores : Map Core
  quarters : Map Quarter
  groups : Map Group
  teams : Map Team
  plots : Map Plot
  grids : Map Grid
  pools : Map Pool
  contexts : Map Context
  hbm : Map Byte
  scratch : Map Byte
  team : Map Byte
  tiles : Map Word
  bad : List (Space × Nat)
  memOps : Map MemOp
  cmds : Map Cmd
  wrecs : Map WRec
  mesh : Map MeshMsg
  queues : Map Queue
  ports : Map Port
  retained : Map Retained
  qops : Map QOp
  sent : Map Nat
  qmsgs : Map QMsg
  streams : Map Stream
  netMsgs : Map NetMsg
  links : Map Link
  fabric : Map FabricPort
  channels : Map Channel
  responses : List Response
  deriving DecidableEq, Repr

/-- The module right after reset: the power-on tables are empty, so every accessor of Machine/Ops.lean reads its default:
every die in incarnation 0 with clock 0, every core without groups, every queue closed but the control nodes' fault
queues (R338), all memory zero. -/
def State.reset : State where
  module := 0
  now := 0
  draws := 0
  fresh := 1
  pending := []
  chans := []
  inputs := []
  todo := []
  issue := []
  cur := none
  dies := []
  cores := []
  quarters := []
  groups := []
  teams := []
  plots := []
  grids := []
  pools := []
  contexts := []
  hbm := []
  scratch := []
  team := []
  tiles := []
  bad := []
  memOps := []
  cmds := []
  wrecs := []
  mesh := []
  queues := []
  ports := []
  retained := []
  qops := []
  sent := []
  qmsgs := []
  streams := []
  netMsgs := []
  links := []
  fabric := []
  channels := []
  responses := []

end Sys2Proof.Machine
end

