-- ==== Sys2Proof/Machine/Ops.lean ====
section
/-!
DEFINITION. The named operations over the state that every family shares: accessors with the defaults of unlisted
entries, free values and scheduling, lanes and threads, counts, witnesses and tickets, fault records, taking a fault or
trap, and resuming a halted group.
-/
namespace Sys2Proof.Machine

abbrev Out := Host.Outcome State Fault Refusal

/-! ### Keys and accessors -/

def coreKey (die core : Nat) : Nat := die * 24 + core
def portKey (die port : Nat) : Nat := die * 4 + port
def ctxKey (die ctx : Nat) : Nat := die * 65536 + ctx
def queueKey (die port index : Nat) : Nat := (die * 4 + port) * 4096 + index
/-- The die and port of a QID with its index, as a queue key (R203). -/
def qidKey (qid : Nat) : Nat := qid % 131072
def qidModule (qid : Nat) : Nat := qid / 131072 % 8192
def qidDie (qid : Nat) : Nat := qid / 16384 % 8
def qidPort (qid : Nat) : Nat := qid / 4096 % 4
def qidIndex (qid : Nat) : Nat := qid % 4096
def qidOf (module die port index : Nat) : Nat := module * 131072 + die * 16384 + port * 4096 + index

/-- A die nothing has touched: the digest of the image it booted stands in its log (R321). -/
def Die.init (d : Nat) : Die := { log := [Config.bootDigest d] }

def State.die (s : State) (d : Nat) : Die := Map.get s.dies (Die.init d) d
def State.setDie (s : State) (d : Nat) (x : Die) : State := { s with dies := Map.put s.dies d x }
def State.modDie (s : State) (d : Nat) (f : Die → Die) : State := s.setDie d (f (s.die d))

def State.coreAt (s : State) (k : Nat) : Core := Map.get s.cores {} k
def State.setCore (s : State) (k : Nat) (x : Core) : State := { s with cores := Map.put s.cores k x }
def State.modCore (s : State) (k : Nat) (f : Core → Core) : State := s.setCore k (f (s.coreAt k))

def State.quarterAt (s : State) (k : Nat) : Quarter := Map.get s.quarters {} k
def State.setQuarter (s : State) (k : Nat) (x : Quarter) : State := { s with quarters := Map.put s.quarters k x }

def State.setGroup (s : State) (k : Nat) (x : Group) : State := { s with groups := Map.put s.groups k x }
def State.modGroup (s : State) (k : Nat) (f : Group → Group) : State := { s with groups := Map.modify s.groups k f }
def State.groupAt (s : State) (k : Nat) : Group := Map.get s.groups {} k

def State.teamAt (s : State) (k : Nat) : Team := Map.get s.teams {} k
def State.modTeam (s : State) (k : Nat) (f : Team → Team) : State := { s with teams := Map.modify s.teams k f }
def State.plotAt (s : State) (k : Nat) : Plot := Map.get s.plots {} k
def State.gridAt (s : State) (k : Nat) : Grid := Map.get s.grids {} k
def State.modGrid (s : State) (k : Nat) (f : Grid → Grid) : State := { s with grids := Map.modify s.grids k f }
def State.ctxAt (s : State) (k : Nat) : Context := Map.get s.contexts {} k
def State.modCtx (s : State) (k : Nat) (f : Context → Context) : State := { s with contexts := Map.modify s.contexts k f }

/-- The control node's fault queue as die reset opens it (R304): 64-byte elements, 1,024 slots at 0x67_0000. -/
def controlFaultQueue : Queue :=
  { desc := BitVec.ofNat 128 (1023 * 2 ^ 31 + 0x67000 * 2 ^ 12 + 2 * 2 ^ 8 + 1 * 2 ^ 6 + 2 * 2 ^ 4), e := 1024 }

/-- A queue nothing has touched: closed, but for the control node's fault queue of each die (R304, R338). -/
def Queue.init (k : Nat) : Queue := if k % 16384 = 16 then controlFaultQueue else {}

def State.queueAt (s : State) (k : Nat) : Queue := Map.get s.queues (Queue.init k) k
def State.setQueue (s : State) (k : Nat) (x : Queue) : State := { s with queues := Map.put s.queues k x }
def State.modQueue (s : State) (k : Nat) (f : Queue → Queue) : State := s.setQueue k (f (s.queueAt k))
def State.portAt (s : State) (k : Nat) : Port := Map.get s.ports {} k
def State.modPort (s : State) (k : Nat) (f : Port → Port) : State := { s with ports := Map.put s.ports k (f (s.portAt k)) }
def State.streamAt (s : State) (k : Nat) : Stream := Map.get s.streams {} k
def State.modStream (s : State) (k : Nat) (f : Stream → Stream) : State := { s with streams := Map.put s.streams k (f (s.streamAt k)) }
def State.linkAt (s : State) (k : Nat) : Link := Map.get s.links {} k
def State.modLink (s : State) (k : Nat) (f : Link → Link) : State := { s with links := Map.put s.links k (f (s.linkAt k)) }
def State.fabricAt (s : State) (k : Nat) : FabricPort := Map.get s.fabric { initWindow := Config.initialWindow k } k
def State.modFabric (s : State) (k : Nat) (f : FabricPort → FabricPort) : State := { s with fabric := Map.put s.fabric k (f (s.fabricAt k)) }
def State.chanAt (s : State) (k : Nat) : Channel := Map.get s.channels {} k
def State.modChan (s : State) (k : Nat) (f : Channel → Channel) : State := { s with channels := Map.put s.channels k (f (s.chanAt k)) }

/-! ### Counters (R324) -/

/-- The example sources of R324 as numbers, in the table's order; then, on a core, the damper intervals held at full rate (R310) and, on
queue port 0, the completion records that could not be posted (R287). -/
inductive Source where
  | issues | dualIssues | fallowEntries | spills | l1Misses | peerForwards | copyBytes | mmas | departures | evictions
  | damperClocks | discardedFlags
  | atomics | forwardedAtomics | invalidations | directoryEvictions
  | placed | duplicates | voidDrops | checkAnswers | refills | retentionWaits
  | packets | ecnMarks | retransmissions | authDrops | pauseFrames
  | correctedBytes | parityRequests | replays | retrains | retiredEntries
  | heldDamper | refusedRecords
  deriving DecidableEq, Repr

/-- Advances the counters of a table whose source is e, among those from key lo up to hi. -/
def countIn (m : Map Counter) (lo hi : Nat) (e : Source) (n : Nat) : Map Counter :=
  m.map (fun x => if lo ≤ x.1 ∧ x.1 < hi ∧ Config.counterSource x.2.source = e.ctorIdx then
    (x.1, { x.2 with value := x.2.value + BitVec.ofNat 48 n }) else x)

/-- Counts n occurrences of a core's source. -/
def State.tallyCore (s : State) (ck : Nat) (e : Source) (n : Nat) : State :=
  { s with cores := Map.modify s.cores ck (fun c => { c with counters := countIn c.counters 0 8 e n }) }

/-- Units of a die that hold counters: slices 0-23, queue ports 24-27, fabric ports 28-29, links 30-32; eight keys each. -/
def sliceUnit (n : Nat) : Nat := n
def portUnit (n : Nat) : Nat := 24 + n
def fabricUnit (n : Nat) : Nat := 28 + n
def linkUnit (n : Nat) : Nat := 30 + n

/-- Counts n occurrences of a source of one of a die's units. -/
def State.tallyDie (s : State) (die unit : Nat) (e : Source) (n : Nat) : State :=
  { s with dies := Map.modify s.dies die (fun d => { d with counters := countIn d.counters (8 * unit) (8 * unit + 8) e n }) }

/-- Counts a completion record that could not be posted (R287, R300). -/
def State.countRefusal (s : State) (die : Nat) : State :=
  { s with dies := Map.modify s.dies die (fun d => { d with
      refusals := d.refusals + 1, counters := countIn d.counters (8 * portUnit 0) (8 * portUnit 0 + 8) .refusedRecords 1 }) }

/-! ### Fields of the context descriptor (R320) -/

def Context.domain (c : Context) : Nat := (c.desc.extractLsb' 0 16).toNat
def Context.root (c : Context) : Nat := (c.desc.extractLsb' 272 48).toNat
def Context.scratchSize (c : Context) : Nat := (c.desc.extractLsb' 338 7).toNat
def Context.scratchBase (c : Context) : Nat := (c.desc.extractLsb' 345 7).toNat
def Context.tableSize (c : Context) : Nat := (c.desc.extractLsb' 352 16).toNat + 1
def Context.groupCount (c : Context) : Nat := (c.desc.extractLsb' 368 16).toNat
def Context.faultIndex (c : Context) : Nat := (c.desc.extractLsb' 384 16).toNat
def Context.areaStride (c : Context) : Nat := (c.desc.extractLsb' 400 16).toNat
def Context.area (c : Context) : Nat := (c.desc.extractLsb' 416 48).toNat

/-! ### Fields of the launch packet (R286) -/

def Grid.field (g : Grid) (lo n : Nat) : Nat := (g.packet.extractLsb' lo n).toNat
def Grid.tag (g : Grid) : Nat := g.field 0 28
def Grid.policy (g : Grid) : Nat := g.field 28 2
def Grid.travel (g : Grid) : Bool := decide (g.field 30 2 = 1)
def Grid.depth (g : Grid) : Nat := g.field 32 16
def Grid.stride (g : Grid) : Nat := g.field 48 16
def Grid.image (g : Grid) : Nat := g.field 64 48
def Grid.entry (g : Grid) : Nat := g.field 128 32
def Grid.spillBase (g : Grid) : Nat := g.field 192 48
def Grid.slots (g : Grid) : Nat := g.field 240 16
def Grid.teamGroups (g : Grid) : Nat := g.field 320 10 + 1
def Grid.param (g : Grid) (i : Nat) : Word := g.packet.extractLsb' (1024 + 32 * i) 32

/-- Whether the group belongs to a travelling-thread launch (R265). -/
def State.inTravel (s : State) (g : Group) : Bool := (s.gridAt g.grid).travel

/-! ### Unique numbers, free values and scheduling -/

/-- A unique number. -/
def State.newId (s : State) : Nat × State := (s.fresh, { s with fresh := s.fresh + 1 })

/-- A number of clocks the manual does not fix. -/
def State.drawLatency (s : State) : Nat × State := (Config.latency s.draws, { s with draws := s.draws + 1 })

/-- A choice of the device among n permitted outcomes. -/
def State.drawChoice (s : State) (n : Nat) : Nat × State := (Config.choice s.draws % n, { s with draws := s.draws + 1 })

def insertDue (d : Due) : List Due → List Due
  | [] => [d]
  | e :: l => if d.at_ < e.at_ ∨ (d.at_ = e.at_ ∧ d.prio < e.prio) then d :: e :: l else e :: insertDue d l

/-- Puts an event in flight, due at a module clock. -/
def State.at_ (s : State) (t prio : Nat) (e : Ev) : State := { s with pending := insertDue ⟨t, prio, e⟩ s.pending }

/-- Puts an event in flight on a FIFO channel (R101): it takes a free time and never overtakes the channel's last one.
Channel 0 is no channel. -/
def State.send (s : State) (chan prio : Nat) (e : Ev) : State :=
  let (l, s) := s.drawLatency
  let t := s.now + 1 + l
  if chan = 0 then s.at_ t prio e
  else
    let t := max t (Map.get s.chans 0 chan)
    { s.at_ t prio e with chans := Map.put s.chans chan t }

/-- Mesh channels: class, die, source and destination (cores 0-23, slices 24-47). -/
def meshChan (cls die src dst : Nat) : Nat := 1 + ((cls * 8 + die) * 64 + src) * 64 + dst

/-- Whether some event in flight is e. -/
def State.inFlight (s : State) (e : Ev) : Bool := s.pending.any (fun d => decide (d.ev = e))

/-- Sends a mesh message, with the event that receives it. -/
def State.sendMesh (s : State) (chan prio : Nat) (m : MeshMsg) (ev : Nat → Ev) : State :=
  let (n, s) := s.newId
  { s with mesh := Map.put s.mesh n m }.send chan prio (ev n)

/-! ### Lanes and threads -/

/-- The lanes of a mask in increasing order. -/
def lanesOf (m : Lanes) : List Nat := (upto 0 32).filter (fun l => m.getLsbD l)
/-- The mask of the lanes that pass a test. -/
def maskOf (p : Nat → Bool) : Lanes := (upto 0 32).foldl (fun m l => if p l then m ||| (1#32 <<< l) else m) 0
def laneBit (l : Nat) : Lanes := 1#32 <<< l
/-- The lowest lane of a mask. -/
def lowLane (m : Lanes) : Nat := (lanesOf m).headD 0
def countLanes (m : Lanes) : Nat := (lanesOf m).length

def Group.thread (g : Group) (l : Nat) : Thread := Map.get g.threads {} l
def Group.setThread (g : Group) (l : Nat) (t : Thread) : Group := { g with threads := Map.put g.threads l t }
/-- Changes the threads of some lanes. -/
def Group.mapThreads (g : Group) (m : Lanes) (f : Thread → Thread) : Group :=
  { g with threads := g.threads.map (fun e => if m.getLsbD e.1 then (e.1, f e.2) else e) }
/-- The threads that have not exited. -/
def Group.liveLanes (g : Group) : Lanes := maskOf (fun l => (g.thread l).live)

/-- The instruction at the head of a path, as records name it (R304). -/
def insInfo (c : Issue) (g : Group) : InsInfo :=
  let t := g.thread (lowLane c.lanes)
  { pc := t.pc, clause := t.clause, cpos := t.cpos, word := c.word % 2 ^ (if c.word % 2 = 0 then 16 else 32), lanes := c.lanes }

/-! ### Bytes of memory -/

/-- n bytes of a memory from an address, little-endian (R3). -/
def readBytes (m : Map Byte) (a : Nat) (n : Nat) : List Byte := (upto 0 n).map (fun i => Map.get m 0 (a + i))
def readNat (m : Map Byte) (a n : Nat) : Nat := ofBytes (readBytes m a n)

/-- Writes bytes from an address up. -/
def writeBytes (m : Map Byte) (a : Nat) : List Byte → Map Byte
  | [] => m
  | b :: l => writeBytes (Map.set m 0 a b) (a + 1) l

def writeNat (m : Map Byte) (a n x : Nat) : Map Byte := writeBytes m a (bytesOf n x)

/-- Keys of the three memories: HBM by die and physical address, scratchpad by die-wide address, team memory by core and
offset in the core's 2 MiB. -/
def hbmKey (die pa : Nat) : Nat := die * 2 ^ 37 + pa
def scratchKey (die a : Nat) : Nat := die * 2 ^ 27 + a
def teamKey (core off : Nat) : Nat := core * 2 ^ 21 + off

def State.memOf (s : State) : Space → Map Byte
  | .scratch => s.scratch
  | .team => s.team
  | .hbm => s.hbm
  | .tile | .slot => []

def State.setMem (s : State) (sp : Space) (m : Map Byte) : State :=
  match sp with
  | .scratch => { s with scratch := m }
  | .team => { s with team := m }
  | .hbm => { s with hbm := m }
  | .tile | .slot => s

/-! ### Homes and counts (R10, R190) -/

/-- Homes of a die as numbers: slices 0-23, HBM controllers 24-25, cores 26-49. -/
def sliceHome (a : Nat) : Nat := a / 128 % 24
def hbmHome (pa : Nat) : Nat := 24 + pa / 4096 % 2
def coreHome (core : Nat) : Nat := 26 + core

/-- The home of a byte named by its memory key. -/
def homeOf (sp : Space) (key : Nat) : Nat :=
  match sp with
  | .scratch => sliceHome (key % 2 ^ 27)
  | .team => coreHome (key / 2 ^ 21 % 24)
  | .hbm => hbmHome (key % 2 ^ 37)
  | .tile | .slot => 0

def dieOf (sp : Space) (key : Nat) : Nat :=
  match sp with
  | .scratch => key / 2 ^ 27
  | .team => key / 2 ^ 21 / 24
  | .hbm => key / 2 ^ 37
  | .tile | .slot => 0

def Die.givenOf (d : Die) (h : Nat) : Nat := Map.get d.given 0 h
def Die.visibleOf (d : Die) (h : Nat) : Nat := Map.get d.visible 0 h
def Die.tableOf (d : Die) (h : Nat) : Nat := Map.get d.table 0 h
/-- Entries of the home table beyond the homes: settled counts and travel depths. -/
def settledEntry (core : Nat) : Nat := 50 + core
def depthEntry (core : Nat) : Nat := 74 + core

/-- The largest count every hold of a home allows (R105, R107, R190). -/
def Die.allowed (d : Die) (h : Nat) : Nat :=
  d.holds.foldl (fun q e => if e.2.home = h then min q (e.2.count - 1) else q) (d.givenOf h)

/-- Brings a home's visible count up to what its holds allow; counts never decrease (R102). -/
def Die.advanceVisible (d : Die) (h : Nat) : Die :=
  { d with visible := Map.put d.visible h (max (d.visibleOf h) (d.allowed h)) }

/-- Gives the next count of a home. -/
def Die.giveCount (d : Die) (h : Nat) : Nat × Die :=
  let q := d.givenOf h + 1
  (q, { d with given := Map.put d.given h q })

/-- Counts one write that sends no invalidation: it is visible at once. -/
def State.countWrite (s : State) (die h : Nat) : Nat × State :=
  let (q, d) := (s.die die).giveCount h
  (q, s.setDie die (d.advanceVisible h))

/-! ### Witnesses (R188 to R198) -/

def witForm (w : Wit) : Nat := (w.extractLsb' 62 2).toNat
def witSpace (w : Wit) : Nat := (w.extractLsb' 60 2).toNat
def witDie (w : Wit) : Nat := (w.extractLsb' 57 3).toNat
def witInc (w : Wit) : Nat := (w.extractLsb' 53 4).toNat
def witHome (w : Wit) : Nat := (w.extractLsb' 48 5).toNat
def witCount (w : Wit) : Nat := (w.extractLsb' 0 48).toNat
def tokenQid (w : Wit) : Nat := (w.extractLsb' 32 30).toNat
def tokenCount (w : Wit) : Nat := (w.extractLsb' 0 32).toNat

/-- The point witness of a home's count (R188). -/
def pointWit (die inc home count : Nat) : Wit :=
  let (space, n) := if home < 24 then (0, home) else if home < 26 then (2, home - 24) else (1, home - 26)
  BitVec.ofNat 64 (2 ^ 62 + space * 2 ^ 60 + die * 2 ^ 57 + inc % 16 * 2 ^ 53 + n * 2 ^ 48 + count % 2 ^ 48)

def frontierWit (die inc core ticket : Nat) : Wit :=
  BitVec.ofNat 64 (2 * 2 ^ 62 + die * 2 ^ 57 + inc % 16 * 2 ^ 53 + core * 2 ^ 48 + ticket % 2 ^ 48)

def tokenWit (qid count : Nat) : Wit := BitVec.ofNat 64 (3 * 2 ^ 62 + qid % 2 ^ 30 * 2 ^ 32 + count % 2 ^ 32)

/-- The home a point names, as a home number. -/
def pointHome (w : Wit) : Nat :=
  match witSpace w with
  | 0 => witHome w
  | 1 => 26 + witHome w
  | _ => 24 + witHome w

/-- R189 row 1. -/
def witMalformed (w : Wit) : Bool :=
  match witForm w with
  | 0 => decide (w ≠ 0)
  | 1 => decide (witSpace w = 3) || decide (witSpace w ≠ 2 ∧ witHome w > 23) || decide (witSpace w = 2 ∧ witHome w > 1)
  | 2 => decide (witSpace w ≠ 0) || decide (witHome w > 23)
  | _ => false

/-- R189 rows 1 to 3 for a witness presented on a die, where tokens are allowed or not. -/
def witFault (die : Nat) (tokens : Bool) (w : Wit) : Option FaultClass :=
  if witMalformed w then some .witnessOperand
  else if witForm w = 3 then (if tokens then none else some .witnessOperand)
  else if witForm w ≠ 0 ∧ witDie w ≠ die then some .witnessDomain
  else none

/-- Pending by serial comparison: 0 < (q − v) mod 2^48 < 2^20 (R192). -/
def serialPending (q v : Nat) : Bool :=
  let d := (q + 2 ^ 48 - v % 2 ^ 48) % 2 ^ 48
  decide (0 < d ∧ d < 2 ^ 20)

/-- Whether a witness that has passed R189 is satisfied at a core (R98, R103, R189 row 4, R192, R194, R201). -/
def State.satisfied (s : State) (die core : Nat) (w : Wit) : Bool :=
  let d := s.die die
  match witForm w with
  | 1 =>
    if witInc w ≠ d.inc % 16 then true
    else if pointHome w = coreHome core then true
    else !serialPending (witCount w) (d.tableOf (pointHome w))
  | 2 => if witInc w ≠ d.inc % 16 then true else !serialPending (witCount w) (d.tableOf (settledEntry (witHome w)))
  | _ => true

/-- Whether the count q of a home is satisfied at a core, as the corresponding point would be. -/
def State.countSatisfied (s : State) (die core home q : Nat) : Bool :=
  if home = coreHome core then true else !serialPending q ((s.die die).tableOf home)

/-! ### Write records and tickets (R193, R194, R201) -/

/-- Whether a write record's write has its count and is satisfied at a core; a record no longer kept is. -/
def State.wrecDone (s : State) (core w : Nat) : Bool :=
  match Map.find s.wrecs w with
  | none => true
  | some r =>
    match r.count with
    | none => false
    | some q => s.countSatisfied r.die core r.home q

def State.ticketReady (s : State) (die core : Nat) (t : Ticket) : Bool :=
  t.reqs.all (fun r => match r with
    | .count h q => s.countSatisfied die core h q
    | .ticket c n => !serialPending n ((s.die die).tableOf (settledEntry c))) &&
  t.drain.all (s.wrecDone core)

/-- How many tickets a core can take now: free entries, within the lead of R193. -/
def State.freeTickets (s : State) (ck : Nat) : Nat :=
  let c := s.coreAt ck
  let d := s.die (ck / 24)
  min (Config.ticketEntries - c.tickets.length)
    (d.tableOf (settledEntry (ck % 24)) + Config.lead - c.ticketNext)

/-- Takes one ticket on a core. -/
def State.takeTicket (s : State) (ck : Nat) (t : Ticket) : Nat × State :=
  let c := s.coreAt ck
  (c.ticketNext, s.setCore ck { c with tickets := Map.put c.tickets c.ticketNext t, ticketNext := c.ticketNext + 1 })

/-- Takes a chain of tickets that hold the requirements four by four (R198); the last one's number. -/
def State.takeChain (s : State) (ck ctx : Nat) : Nat → List Req → Nat × State
  | 0, _ => (0, s)
  | fuel + 1, l =>
    let (t, s') := s.takeTicket ck { reqs := l.take 4, ctx := ctx }
    if l.length ≤ 4 then (t, s') else State.takeChain s' ck ctx fuel (l.drop 4)

/-- The later of two counts in serial order; at a distance of exactly 2^47 the second (R198). -/
def laterCount (a b : Nat) : Nat :=
  let d := (b + 2 ^ 48 - a % 2 ^ 48) % 2 ^ 48
  if d = 0 then a else if d ≤ 2 ^ 47 then b else a

/-- What Merge makes of a set before any ticket is taken (R198). -/
inductive Merged where
  | fault (c : FaultClass) (w : Wit)
  | wit (w : Wit)
  | tickets (l : List Req)
  deriving DecidableEq, Repr

/-- Keeps, for each home or origin core, the later count. -/
def bucketPut (m : Map Nat) (k q : Nat) : Map Nat :=
  match Map.find m k with
  | none => Map.put m k q
  | some p => Map.put m k (laterCount p q)

/-- Orders a home of point buckets by space, then number (R198): scratchpad, team memory, HBM. -/
def spaceOrder (h : Nat) : Nat := if h < 24 then h else if h < 26 then 100 + h else 30 + h

/-- Merge of R198 on a core, for witnesses listed from lower to higher lane. DESIGN CHOICE (log 96): of two tokens whose counts lie
exactly 2^31 apart the one listed earlier is kept. -/
def mergeSet (die core inc : Nat) (l : List Wit) : Merged :=
  match l.find? (fun w => (witFault die true w).isSome) with
  | some w => .fault ((witFault die true w).getD .witnessOperand) w
  | none =>
    let x := l.filter (fun w => decide (w ≠ 0) && (decide (witForm w = 3) || decide (witInc w = inc % 16)))
    let tokens := x.filter (fun w => decide (witForm w = 3))
    match tokens with
    | t :: _ =>
      if x.all (fun w => decide (witForm w = 3) && decide (tokenQid w = tokenQid t)) then
        .wit (tokenWit (tokenQid t) (x.foldl (fun q w =>
          if (tokenCount w + 2 ^ 32 - q) % 2 ^ 32 < 2 ^ 31 then tokenCount w else q) (tokenCount t)))
      else .fault .witnessCombine (x.headD 0)
    | [] =>
      let p := (x.filter (fun w => decide (witForm w = 1))).foldl (fun m w => bucketPut m (spaceOrder (pointHome w)) (witCount w)) ([] : Map Nat)
      let f := (x.filter (fun w => decide (witForm w = 2))).foldl (fun m w => bucketPut m (witHome w) (witCount w)) ([] : Map Nat)
      let home := fun k => if k < 24 then k else if k ≥ 124 then k - 100 else k - 30
      match p, f with
      | [], [] => .wit 0
      | [(k, q)], [] => .wit (pointWit die inc (home k) q)
      | [], [(c, n)] => .wit (frontierWit die inc c n)
      | _, _ =>
        .tickets (p.map (fun e => Req.count (home e.1) e.2) ++
          (f.filter (fun e => decide (e.1 ≠ core))).map (fun e => Req.ticket e.1 e.2))

/-- The number of tickets a merge takes. -/
def Merged.need : Merged → Nat
  | .tickets l => max 1 ((l.length + 3) / 4)
  | _ => 0

/-- Finishes a merge: takes its tickets, which must be free. -/
def State.finishMerge (s : State) (ck ctx : Nat) : Merged → Wit × State
  | .fault _ _ => (0, s)
  | .wit w => (w, s)
  | .tickets l =>
    let (t, s') := s.takeChain ck ctx (l.length + 1) l
    (frontierWit (ck / 24) (s.die (ck / 24)).inc (ck % 24) t, s')

/-! ### Fault records (R303, R304) -/

def FaultClass.code : FaultClass → Nat
  | .illegalInstruction => 1
  | .reservedOperandCode => 2
  | .illegalOperand => 3
  | .operandNotReady => 4
  | .misalignedBranchTarget => 5
  | .roleViolation => 6
  | .witnessOperand => 7
  | .witnessDomain => 8
  | .witnessCombine => 9
  | .queueHandle => 10
  | .queueRights => 11
  | .outOfPartition => 12
  | .teamMemoryAddress => 13
  | .misalignment => 14
  | .format => 15
  | .travelMode => 16
  | .callDepth => 17
  | .copyTranslation => 32
  | .copyProtection => 33
  | .codeTranslation => 34
  | .codeProtection => 35
  | .queueRefusal => 36
  | .arrivalSpill => 37
  | .datapath => 38
  | .uncorrectableEcc => 39
  | .trap => 48
  | .bkpt => 49
  | .launchRefused => 56

/-- 0 precise, 1 asynchronous, 2 trap, 3 fatal (R302, R303). -/
def FaultClass.kind (c : FaultClass) : Nat :=
  match c with
  | .trap | .bkpt => 2
  | .datapath | .uncorrectableEcc => 3
  | .copyTranslation | .copyProtection | .codeTranslation | .codeProtection | .queueRefusal | .arrivalSpill | .launchRefused => 1
  | _ => 0

/-- The 64 bytes of a fault record (R304). -/
def recordBytes (f : FaultInfo) (i : InsInfo) (scope group team core die ctx domain tag seq : Nat) : List Byte :=
  bytesOf 64 (f.aux * 2 ^ 448 + f.addr % 2 ^ 48 * 2 ^ 400 + f.lanes.toNat * 2 ^ 352 + i.word % 2 ^ 32 * 2 ^ 320 +
    i.pc % 2 ^ 48 * 2 ^ 272 + i.clause % 2 ^ 48 * 2 ^ 224 + i.cpos % 16 * 2 ^ 220 + f.cls.code * 2 ^ 208 + f.sub % 256 * 2 ^ 200 +
    f.cls.kind * 2 ^ 198 + scope % 4 * 2 ^ 196 + group % 1024 * 2 ^ 176 + team % 65536 * 2 ^ 160 + core % 32 * 2 ^ 155 +
    die % 8 * 2 ^ 152 + ctx % 65536 * 2 ^ 136 + domain % 65536 * 2 ^ 120 + tag % 2 ^ 28 * 2 ^ 92 + seq % 2 ^ 32 * 2 ^ 32 +
    f.imm % 2 ^ 32)

/-- A stream of posts, of a context to a QID, under the name that its queue has now (R214, R217). -/
def Port.stream (p : Port) (sk : Nat) : Nat := Map.get p.moved sk sk

/-- The next number of a stream of posts at a port, which is taken (R214). -/
def State.nextPost (s : State) (pk sk : Nat) : Nat × State :=
  let k := (s.portAt pk).stream sk
  let n := Map.get (s.portAt pk).seqs 0 k
  (n, s.modPort pk (fun p => { p with seqs := Map.put p.seqs k ((n + 1) % 2 ^ 32) }))

/-- Hands an element that hardware makes to a queue of the same die: the port retains it and sends it as a post, numbered
like any post of its producer (R215, R304). Hardware's posts are those of the reserved source port 4. -/
def State.postHardware (s : State) (die ctx domain qid : Nat) (g : Nat) (ins : InsInfo) (esz : Nat) (data : List Byte) : State :=
  let pk := portKey die (qidPort qid)
  let (n, s) := s.nextPost pk ((ctx * 2 + 1) * 2 ^ 32 + qid)
  let key := 2 ^ 63 + n
  let (rid, s) := s.newId
  let m : QMsg := {
    kind := .post, esz := esz, domain := domain, qid := qid, key := key, smod := s.module, sdie := die, sport := 4,
    ctx := ctx, crc := checkCode qid key data, data := data, id := rid, hw := true }
  let (mid, s) := s.newId
  let s := { s with
    retained := Map.put s.retained rid { msg := m, die := die, port := qidPort qid, g := g, handle := 0, sent := s.now, ins := ins },
    qmsgs := Map.put s.qmsgs mid m }
  s.send (1000000 + pk) 1 (.postArrival mid)

/-- Posts a fault record to the context's fault queue, or to the control node's where there is no context (R287, R304). -/
def State.postRecord (s : State) (f : FaultInfo) (i : InsInfo) (scope : Nat) (gid : Nat) (group team core die ctx grid : Nat) : State :=
  let ck := ctxKey die ctx
  match Map.find s.contexts ck with
  | some c =>
    let rec_ := recordBytes f i scope group team core die ctx c.domain (s.gridAt grid).tag c.seq
    let s := s.modCtx ck (fun c => { c with seq := c.seq + 1 })
    s.postHardware die ctx c.domain (qidOf s.module die 0 c.faultIndex) gid i 2 rec_
  | none =>
    let d := s.die die
    let rec_ := recordBytes f i scope group team core die 0xFFFF 0 (s.gridAt grid).tag d.ctlFaultSeq
    (s.setDie die { d with ctlFaultSeq := d.ctlFaultSeq + 1 }).postHardware die 0xFFFF 0 (qidOf s.module die 0 16) gid i 2 rec_

/-! ### Halting and resuming (R305, R306, R307) -/

/-- A group leaves a quarter's active set: where the rotation stood at it, it goes on behind the group that entered before it (R296). -/
def Quarter.drop (q : Quarter) (k : Nat) : Quarter :=
  { q with
    active := q.active.filter (· ≠ k)
    after := if q.last = k ∨ q.after = k then (q.active.takeWhile (· ≠ k)).getLastD 0 else q.after }

/-- Takes a group out of its quarter's sets. -/
def State.unlist (s : State) (k : Nat) : State :=
  let g := s.groupAt k
  let qk := coreKey g.die g.core * 4 + g.quarter
  let q := s.quarterAt qk
  s.setQuarter qk { q.drop k with ready := q.ready.filter (· ≠ k) }

/-- Puts an active group at the tail of its quarter's ready FIFO (R263, R297). -/
def State.toReady (s : State) (k : Nat) : State :=
  let g := s.groupAt k
  let qk := coreKey g.die g.core * 4 + g.quarter
  let q := s.quarterAt qk
  (s.setQuarter qk { q.drop k with ready := q.ready.filter (· ≠ k) ++ [k] }).modGroup k (fun x => { x with set := .ready })

/-- Halts a group: it is in no set, issues nothing and keeps its state (R305). One that has halted already accepts from then on only what
both halts leave (R307). -/
def State.haltGroup (s : State) (k : Nat) (h : HaltKind) : State :=
  let g := s.groupAt k
  if g.set = .ended then s
  else if g.set = .halted then s.modGroup k (fun g => { g with halt := if g.halt.ctorIdx < h.ctorIdx then h else g.halt })
  else (s.unlist k).modGroup k (fun g => { g with set := .halted, halt := h })

/-- Whether a context runs: it is neither pre-empted nor stopped by a fatal fault (R305, R309). -/
def State.ctxRuns (s : State) (die ctx : Nat) : Bool := decide ((s.ctxAt (ctxKey die ctx)).stage = .running)

/-- Whether a context is saved: its groups, commands and operations stand in its area (R309, R311). -/
def State.ctxSaved (s : State) (die ctx : Nat) : Bool := decide ((s.ctxAt (ctxKey die ctx)).stage = .saved)

/-- Whether a context is halting for a pre-emption or saved (R309). -/
def State.ctxHeld (s : State) (die ctx : Nat) : Bool :=
  match (s.ctxAt (ctxKey die ctx)).stage with
  | .halting _ | .saved => true
  | _ => false

/-- The groups that a halt of a scope reaches, beside the faulting one (R306): 1 team, 2 kernel, 3 context. In a travel
launch the team scope is the launch's groups on the faulting group's core. -/
def State.haltScope (s : State) (scope : Nat) (k : Nat) : List Nat :=
  let g := s.groupAt k
  let same := fun (x : Group) =>
    if scope = 1 then
      decide (x.grid = g.grid ∧ x.die = g.die ∧ x.core = g.core ∧ (x.team = g.team ∨ s.inTravel g = true))
    else if scope = 2 then decide (x.grid = g.grid)
    else if scope = 3 then decide (x.die = g.die ∧ x.ctx = g.ctx)
    else false
  (s.groups.filter (fun e => e.1 ≠ k && same e.2)).map (·.1)

/-- What a halted group accepts, by class (R307). -/
def haltKindOf (f : FaultInfo) (atHeader : Bool) : HaltKind :=
  match f.cls with
  | .copyProtection | .codeProtection | .arrivalSpill | .datapath | .uncorrectableEcc => .killOnly
  | .illegalInstruction => if atHeader then .header else .plain
  | _ => .plain

/-- The scope a class halts under a launch's policy (R306). -/
def scopeOf (f : FaultInfo) (policy : Nat) : Nat :=
  match f.cls with
  | .arrivalSpill => 2
  | .datapath | .uncorrectableEcc => 3
  | _ => policy

/-- TAKING A FAULT OR TRAP (R302 to R306): the one operation by which every precise fault, trap, asynchronous and fatal
fault is delivered to a group. It halts the group and every group of the halt's scope, marks the grid, and posts the record
that names the instruction; for a group that has ended it names no group and halts only what the scope reaches beside it (R305). The saved position is the one the group's threads hold: at the faulting instruction for a
precise fault, after the instruction for a trap (the caller has then advanced the path). -/
def State.deliver (s : State) (k : Nat) (f : FaultInfo) (i : InsInfo) (atHeader : Bool := false) : State :=
  let g := s.groupAt k
  let grid := s.gridAt g.grid
  let scope := scopeOf f grid.policy
  let others := s.haltScope scope k
  let s := s.haltGroup k (haltKindOf f atHeader)
  let s := if f.cls.kind = 0 then s.modGroup k (fun g => { g with haltLanes := g.haltLanes ||| i.lanes }) else s
  let s := others.foldl (fun s j => s.haltGroup j (if haltKindOf f atHeader = .killOnly then .killOnly else .plain)) s
  let s := if scope = 3 then s.modCtx (ctxKey g.die g.ctx) (fun c => { c with fatal := true, stage := if c.stage = .running then .stopped else c.stage }) else s
  let s := s.modGrid g.grid (fun x => { x with
    faulted := x.faulted || decide (f.cls.kind ≠ 2), overflowed := x.overflowed || decide (f.cls = .arrivalSpill) })
  s.postRecord f i scope k (if g.set = .ended then 0x3FF else g.gidx) (s.teamAt g.team).index g.core g.die g.ctx g.grid

/-- Delivers what a group holds pending and a test accepts: a trap first, then asynchronous faults, then fatal ones (R305). -/
def State.deliverDue (s : State) (k : Nat) (p : PendingFault → Bool) : State :=
  let l := (s.groupAt k).pend.filter p
  let s := s.modGroup k (fun g => { g with pend := g.pend.filter (fun x => !p x) })
  ([2, 1, 3].flatMap (fun n => l.filter (fun p => decide (p.info.cls.kind = n)))).foldl (fun s p => s.deliver k p.info p.ins) s

/-- Delivers every fault a group holds. -/
def State.deliverPending (s : State) (k : Nat) : State := s.deliverDue k (fun _ => true)

/-- What a group holds pending is delivered in this clock, after the precise faults that its paths still raise in it (R305). -/
def State.deliverNow (s : State) (k : Nat) : State :=
  (s.modGroup k (fun g => { g with pend := g.pend.map (fun p => { p with due := true }) })).at_ s.now 0 (.faultDeliveryTimeout k)

/-- Raises an asynchronous or fatal fault in a group (R305): at once when the group is fallow or ended, else it waits for the next clause
entry or for 1,024 clocks. In a pre-empted context it waits for the restore (R309). -/
def State.raiseAsync (s : State) (k : Nat) (f : FaultInfo) (i : InsInfo) : State :=
  match Map.find s.groups k with
  | none => s
  | some g =>
    let since := (s.die g.die).clock
    if g.set = .ended then s.deliver k f i
    else if s.ctxHeld g.die g.ctx then s.modGroup k (fun g => { g with pend := g.pend ++ [{ info := f, ins := i, since := since }] })
    else if g.set = .fallow then s.deliver k f i
    else
      (s.modGroup k (fun g => { g with pend := g.pend ++ [{ info := f, ins := i, since := since }] })).at_ (s.now + 1024) 9
        (.faultDeliveryTimeout k)

/-- Puts a resumed group back into its quarter: to the ready FIFO when some thread can go on, else fallow, where its waiting threads
are those that a fallow cause holds. -/
def State.resumeGroup (s : State) (k : Nat) : State :=
  let g := s.groupAt k
  let qk := coreKey g.die g.core * 4 + g.quarter
  let free := (lanesOf g.liveLanes).any (fun l => decide ((g.thread l).park = .none))
  let spilt := decide (g.regs.spilled ≠ 0)
  if free ∧ g.regs.spilled = 0 then
    let q := s.quarterAt qk
    (s.setQuarter qk { q with ready := q.ready ++ [k] }).modGroup k (fun g => { g with set := .ready, halt := .plain, haltLanes := 0 })
  else s.modGroup k (fun g => { g with
    set := .fallow, fallowSince := if g.set = .fallow then g.fallowSince else s.now, halt := .plain, haltLanes := 0
    threads := g.threads.map (fun t => (t.1, { t.2 with held := spilt || t.2.held || decide (t.2.park ≠ .none) })) })

/-- RETURN FROM A FAULT OR TRAP (R307, retry): the group goes on at the recorded position. -/
def State.retryGroup (s : State) (k : Nat) : State :=
  (s.modGroup k (fun g => g.mapThreads g.haltLanes (fun t => { t with stall := .none }))).resumeGroup k

end Sys2Proof.Machine
end

