-- ==== Sys2Proof/Machine/Operands.lean ====
section
/-!
DEFINITION. Operand forms (R30 to R37): reading and writing registers by code, witness pairs, blocks, tile slices, owed
destinations (R23), renaming and the register pool (R127 to R131), and the checks that every instruction makes on them.
-/
namespace Sys2Proof.Machine

/-! ### Register numbers of R303 -/

/-- The R303 number of a source or destination code, where it names a register that can be owed or poisoned. -/
def regNo (code : Nat) : Option Nat :=
  if code < 104 then some code
  else if 112 ≤ code ∧ code < 128 then some (0x80 + (code - 112))
  else none

/-- The number of a source code among the registers whose elements carry residues: the latch stands under its code (R135). -/
def readNo (code : Nat) : Option Nat := if code = 104 then some 104 else regNo code

def scalarNo (n : Nat) : Nat := 0x80 + n
def predNo (n : Nat) : Nat := 0xC0 + n

/-! ### Reading -/

/-- The registers an issuing path reads: those before the clock for the second path (R134, R159). -/
def Issue.view (c : Issue) (g : Group) : Regs := c.pre.getD g.regs

def Regs.scalar (r : Regs) (n : Nat) : Word := Map.get r.s 0 n
def Regs.main (r : Regs) (n l : Nat) : Word := Map.get r.v 0 (n * 32 + l)
def Regs.opfile (r : Regs) (n l : Nat) : Word := Map.get r.o 0 (n * 32 + l)
def Regs.latch (r : Regs) (l : Nat) : Word := Map.get r.lr 0 l
/-- Predicate n as a mask; p0 reads true in every lane (R124). -/
def Regs.pred (r : Regs) (n : Nat) : Lanes := if n = 0 then 0xFFFFFFFF else Map.get r.p 0 n
def Regs.predAt (r : Regs) (n l : Nat) : Bool := (r.pred n).getLsbD l

/-- The value of a 7-bit source code in a lane (R30). -/
def Regs.read (r : Regs) (code l : Nat) : Word :=
  if code < 96 then r.main code l
  else if code < 104 then r.opfile (code - 96) l
  else if code = 104 then r.latch l
  else if 112 ≤ code then r.scalar (code - 112)
  else 0

/-- A 64-bit value of a pair code in a lane: the even register holds the low half (R45). -/
def Regs.readPair (r : Regs) (code l : Nat) : Nat := (r.read code l).toNat + 2 ^ 32 * (r.read (code + 1) l).toNat

/-- The witness that pair field n presents in a lane (R34). -/
def Regs.wit (r : Regs) (n l : Nat) : Wit :=
  if n < 48 then r.main (2 * n + 1) l ++ r.main (2 * n) l
  else if n < 63 then r.scalar (2 * (n - 48) + 1) ++ r.scalar (2 * (n - 48))
  else 0

/-- The registers a witness-pair field names: main-file codes or scalars. -/
def witCodes (n : Nat) : List Nat := if n < 48 then [2 * n, 2 * n + 1] else []
def witScalars (n : Nat) : List Nat := if 48 ≤ n ∧ n < 63 then [2 * (n - 48), 2 * (n - 48) + 1] else []

/-! ### Owed destinations -/

/-- The lanes of a register that are owed (R23). -/
def Group.owedLanes (g : Group) (reg : Nat) : Lanes :=
  g.owed.foldl (fun m e => if e.reg = reg then m ||| e.lanes else m) 0

/-- Registers a group holds: those it maps and the superseded ones (R129). -/
def popcount (n : Nat) (x : Nat) : Nat := (upto 0 n).foldl (fun k i => if x.testBit i then k + 1 else k) 0
def Group.superseded (g : Group) : Nat := g.owed.foldl (fun n e => n + e.sup) 0
def Group.held (g : Group) : Nat := popcount 96 g.regs.vmap.toNat + g.superseded
/-- Physical registers a release freed that still await an owed result (R128). -/
def Group.releasing (g : Group) : Nat := (g.owed.filter (fun e => e.rel)).length

/-- The registers that the core has granted to the group's paths and that no instruction has taken yet (R130). -/
def Group.granted (g : Group) : Nat := g.grants.foldl (fun n e => n + e.2) 0

/-- Whether a group's registers occupy its core. -/
def Group.resident (g : Group) : Bool := !g.saved && decide (g.set ≠ .ended)

/-- The free registers of a core's pool (R129). -/
def State.poolFree (s : State) (die core : Nat) : Nat :=
  Config.physRegs - s.groups.foldl (fun n e =>
    if e.2.resident && decide (e.2.die = die ∧ e.2.core = core) then n + max e.2.floor (e.2.held + e.2.releasing) + e.2.granted
    else n) 0

/-- How many of n further registers come from the pool (R129, Drawing). -/
def Group.fromPool (g : Group) (n : Nat) : Nat := g.held + n - max g.floor g.held

/-! ### Writing -/

def keepKeys {α : Type} (m : Map α) (reg : Nat) : Map α := m.filter (fun e => decide (e.1 / 32 ≠ reg))

/-- A later write of lanes m to a register, over the owed entries from the newest back (newest first): the result of each
reaches fewer lanes, and one superseded main-file register is held for the newest that still waits (R23, R127). -/
def overwriteOwed (reg : Nat) (m : Lanes) : Bool → List Owed → List Owed
  | _, [] => []
  | counted, e :: l =>
    if e.reg = reg then
      let hit := decide (reg < 96) && decide (e.lanes ≠ 0) && !e.rel && !counted
      { e with
        lanes := if 0x80 ≤ reg ∧ reg < 0xC0 then 0 else e.lanes &&& ~~~ m
        sup := if hit then e.sup + 1 else e.sup } :: overwriteOwed reg m (counted || hit) l
    else e :: overwriteOwed reg m counted l

/-- A later write to a register that may be owed. -/
def Group.overwrite (g : Group) (reg : Nat) (m : Lanes) : Group :=
  { g with owed := overwriteOwed reg m false g.owed }

def clearPoison (l : List Nat) (reg : Nat) (m : Lanes) : List Nat :=
  l.filter (fun k => !(decide (k / 32 = reg) && m.getLsbD (k % 32)))

/-- Lanes of a register that are written hold the residue of what is written (R135). -/
def Regs.settleResidue (r : Regs) (reg : Nat) (m : Lanes) : Regs :=
  { r with
    poison := clearPoison r.poison reg m
    upset := if r.upset = [] then [] else r.upset.filter (fun k => !(decide (k.1 / 32 = reg) && m.getLsbD (k.1 % 32))) }

/-- Writes lanes of a main-file register, mapping it where it was unmapped (R127). -/
def Group.writeMain (g : Group) (n : Nat) (m : Lanes) (f : Nat → Word) : Group :=
  let g := g.overwrite n m
  { g with regs := { g.regs.settleResidue n m with
      v := (lanesOf m).foldl (fun v l => Map.set v 0 (n * 32 + l) (f l)) g.regs.v
      vmap := g.regs.vmap ||| (1#96 <<< n) } }

def Group.writeOpfile (g : Group) (n : Nat) (m : Lanes) (f : Nat → Word) : Group :=
  let g := g.overwrite (96 + n) m
  { g with regs := { g.regs.settleResidue (96 + n) m with
      o := (lanesOf m).foldl (fun v l => Map.set v 0 (n * 32 + l) (f l)) g.regs.o
      written := if m = 0 then g.regs.written else g.regs.written ||| (1#8 <<< n) } }

def Group.writeLatch (g : Group) (m : Lanes) (f : Nat → Word) : Group :=
  { g with regs := { g.regs.settleResidue 104 m with
      lr := (lanesOf m).foldl (fun v l => Map.set v 0 l (f l)) g.regs.lr
      lrValid := g.regs.lrValid ||| m } }

/-- Writes lanes by a destination code, without the latch rule (R31). A main-file register is mapped, whatever the lanes (R127). -/
def Group.writeCode (g : Group) (code : Nat) (m : Lanes) (f : Nat → Word) : Group :=
  if code < 96 then g.writeMain code m f
  else if code < 104 then g.writeOpfile (code - 96) m f
  else g

/-- A 32-bit result of the lanes m: to the destination, and to the latch (R31, R32). -/
def Group.writeResult (g : Group) (code : Nat) (m : Lanes) (f : Nat → Word) : Group :=
  (g.writeCode code m f).writeLatch m f

def Group.writeScalar (g : Group) (n : Nat) (x : Word) : Group :=
  let g := g.overwrite (scalarNo n) 0
  { g with regs := { g.regs with s := Map.set g.regs.s 0 n x, poison := clearPoison g.regs.poison (scalarNo n) 1 } }

/-- Writes lanes m of a predicate; p0 ignores every write (R124, R125). -/
def Group.writePred (g : Group) (n : Nat) (m : Lanes) (x : Lanes) : Group :=
  if n = 0 then g
  else
    let g := g.overwrite (predNo n) m
    { g with regs := { g.regs with
        p := Map.set g.regs.p 0 n ((g.regs.pred n &&& ~~~ m) ||| (x &&& m))
        poison := clearPoison g.regs.poison (predNo n) m } }

/-- Writes a 64-bit witness into pair field n: lane by lane into a main-file pair, or once into scalars (R34). -/
def Group.writeWit (g : Group) (n : Nat) (m : Lanes) (f : Nat → Wit) : Group :=
  if n < 48 then
    (g.writeCode (2 * n) m (fun l => (f l).extractLsb' 0 32)).writeCode (2 * n + 1) m (fun l => (f l).extractLsb' 32 32)
  else if n < 63 then
    let w := f (lowLane m)
    (g.writeScalar (2 * (n - 48)) (w.extractLsb' 0 32)).writeScalar (2 * (n - 48) + 1) (w.extractLsb' 32 32)
  else g

/-- Unmaps a register; an owed one keeps its physical register until the result lands (R128). -/
def Group.release (g : Group) (n : Nat) : Group :=
  if g.regs.vmap.getLsbD n then
    { g with
      owed := g.owed.map (fun e => if e.reg = n ∧ e.lanes ≠ 0 then { e with lanes := 0, rel := true } else e)
      regs := { g.regs with
        v := keepKeys g.regs.v n
        vmap := g.regs.vmap &&& ~~~ (1#96 <<< n)
        poison := g.regs.poison.filter (fun k => decide (k / 32 ≠ n))
        upset := g.regs.upset.filter (fun k => decide (k.1 / 32 ≠ n)) } }
  else g

/-! ### Results of variable-latency operations -/

/-- Registers the destinations an operation will write, as owed in the lanes m (R23). Unmapped main-file registers are
allocated at issue (R127). -/
def Group.owe (g : Group) (op : Nat) (regs : List Nat) (m : Lanes) : Group :=
  let g := regs.foldl (fun g r => g.overwrite r m) g
  { g with
    owed := regs.map (fun r => { op := op, reg := r, lanes := m }) ++ g.owed
    regs := { g.regs with vmap := regs.foldl (fun b r => if r < 96 then b ||| (1#96 <<< r) else b) g.regs.vmap } }

/-- The lanes of a register that the result of an operation still reaches. -/
def Group.landing (g : Group) (op reg : Nat) : Lanes :=
  g.owed.foldl (fun m e => if e.op = op ∧ e.reg = reg then m ||| e.lanes else m) 0

/-- The owed results of an operation have landed: its superseded registers are freed. -/
def Group.settle (g : Group) (op : Nat) : Group := { g with owed := g.owed.filter (fun e => decide (e.op ≠ op)) }

/-- Lands a result in the lanes that no later write has reached (R23, R127). -/
def Group.land (g : Group) (op code : Nat) (f : Nat → Word) : Group :=
  match regNo code with
  | none => g
  | some r =>
    let m := g.landing op r
    let keep := g.owed
    let g := if m = 0 then g else if 0x80 ≤ r then g.writeScalar (r - 0x80) (f 0) else g.writeCode code m f
    { g with owed := keep }

def Group.landScalar (g : Group) (op n : Nat) (x : Word) : Group :=
  if g.landing op (scalarNo n) = 0 then g
  else { g.writeScalar n x with owed := g.owed }

/-- Lands a result in those of the lanes m that no later write has reached; the other lanes keep what they have. -/
def Group.landAt (g : Group) (op code : Nat) (m : Lanes) (f : Nat → Word) : Group :=
  match regNo code with
  | none => g
  | some r => if m &&& g.landing op r = 0 then g else { g.writeCode code (m &&& g.landing op r) f with owed := g.owed }

def Group.landPred (g : Group) (op n : Nat) (x : Lanes) : Group :=
  { g.writePred n (g.landing op (predNo n)) x with owed := g.owed }

/-- Raises and drops a completion flag (R21). -/
def Group.flagOf (g : Group) (n : Nat) : Nat := Map.get g.cf 0 n
def Group.raiseCf (g : Group) (n : Nat) : Group := { g with cf := Map.set g.cf 0 n (g.flagOf n + 1) }
def Group.dropCf (g : Group) (n : Nat) : Group := { g with cf := Map.set g.cf 0 n (g.flagOf n - 1) }
def Group.dropFlag (g : Group) : Option Nat → Group
  | none => g
  | some n => g.dropCf n

/-! ### The header of the clause in which a path stands (R17, R18) -/

def hdrCount (h0 : Word) : Nat := (h0.extractLsb' 28 4).toNat + 1
def hdrFlagB (h0 : Word) : Nat := (h0.extractLsb' 24 4).toNat
def hdrFlagA (h0 : Word) : Nat := (h0.extractLsb' 20 4).toNat
def hdrWait (h0 : Word) : Nat := (h0.extractLsb' 8 12).toNat

/-- The completion flag that FS names; none for a slot marked 15 (R21). -/
def slotFlag (t : Thread) (fs : Bool) : Option Nat :=
  let n := if fs then hdrFlagB t.hdr0 else hdrFlagA t.hdr0
  if n = 15 then none else some n

/-- The thread of the path's lowest lane, which every thread of the path matches in position. -/
def Issue.head (c : Issue) (g : Group) : Thread := g.thread (lowLane c.lanes)

/-! ### Operand descriptions and the common checks -/

/-- What an instruction reads and writes, for the checks: source codes read in the active lanes, source codes read in given
lanes, main-file registers read in every lane, scalars, predicates, destination codes, and the registers the two last-read
bits release (R18). Codes and scalars are read in the lanes where predicate `guard` is true (R138). `bases` lists the pairs and blocks among them: a record names such an operand by its first register (R303). `sends`
says that the elements leave the core, so that their residues are tested as they are read (R136). -/
structure Opnds where
  reads : List Nat := []
  readsAt : List (Nat × Lanes) := []
  whole : List Nat := []
  scalars : List Nat := []
  scalarsAt : List (Nat × Lanes) := []
  preds : List Nat := []
  dests : List Nat := []
  first : List Nat := []
  second : List Nat := []
  bases : List (Nat × Nat) := []
  guard : Nat := 0
  sends : Bool := false
  deriving DecidableEq, Repr

def faultOf (cls : FaultClass) : FaultInfo := { cls := cls }
def illegal : FaultInfo := faultOf .illegalInstruction
def illegalOperand : FaultInfo := faultOf .illegalOperand
def failIf (b : Bool) (f : FaultInfo) : Option FaultInfo := if b then some f else none

def reservedSource (code : Nat) : Bool := decide (106 ≤ code ∧ code ≤ 111)
def reservedDest (code : Nat) : Bool := decide (106 ≤ code)

/-- Reserved operand codes (R30, R31); the record carries the code. -/
def codeFault (o : Opnds) : Option FaultInfo :=
  match (o.reads ++ o.readsAt.map (·.1)).find? reservedSource with
  | some c => some { cls := .reservedOperandCode, aux := c }
  | none =>
    match o.dests.find? reservedDest with
    | some c => some { cls := .reservedOperandCode, aux := c }
    | none => none

/-- Reading the latch where it is not valid (R32). DEDUCED (log 92): every active lane counts, also one whose guard reads false. -/
def latchFault (o : Opnds) (c : Issue) (g : Group) : Option FaultInfo :=
  if o.reads.contains 104 ∨ o.readsAt.any (fun e => decide (e.1 = 104)) then
    let m := o.readsAt.foldl (fun m e => if e.1 = 104 then m ||| e.2 else m) (if o.reads.contains 104 then c.lanes else 0)
    let bad := m &&& ~~~ (c.view g).lrValid
    if bad ≠ 0 then some { cls := .illegalOperand, lanes := bad } else none
  else none

/-- The registers an instruction reads, by R303 number, with the lanes in which it reads them: sources in lanes m, its guard in every
active lane. -/
def Opnds.readSet (o : Opnds) (active m : Lanes) : List (Nat × Lanes) :=
  let all : List (Nat × Lanes) := (o.reads.filterMap readNo).map (fun r => (r, m)) ++
    o.readsAt.filterMap (fun e => (readNo e.1).map (fun r => (r, e.2))) ++ o.whole.map (fun r => (r, 0xFFFFFFFF)) ++
    o.scalars.map (fun n => (scalarNo n, if m = 0 then 0 else 0xFFFFFFFF)) ++ o.scalarsAt.map (fun e => (scalarNo e.1, e.2)) ++
    (o.preds.filter (· ≠ 0)).map (fun n => (predNo n, if n = o.guard then active else m))
  all.filter (fun e => decide (e.2 ≠ 0))

/-- The pair or block that the codes of an operand make, by its first register. -/
def baseOf (codes : List Nat) : List (Nat × Nat) :=
  match codes with
  | c :: _ :: _ => ((regNo c).map (fun r => (r, codes.length))).toList
  | _ => []

/-- The register by which a record names a register that is read: the first of its pair or block (R303). -/
def Opnds.named (o : Opnds) (r : Nat) : Nat :=
  match o.bases.find? (fun b => decide (b.1 ≤ r ∧ r < b.1 + b.2)) with
  | some b => b.1
  | none => r

/-- Reading a register that is owed (R23). DEDUCED (log 92): every active lane counts, also one whose guard reads false. DESIGN CHOICE (log
111): what the first path has made owed in this clock counts for the second, which follows it in issue order. -/
def readyFault (o : Opnds) (c : Issue) (g : Group) : Option FaultInfo :=
  match (o.readSet c.lanes c.lanes).find? (fun e => decide (g.owedLanes e.1 &&& (if 0x80 ≤ e.1 ∧ e.1 < 0xC0 then 0xFFFFFFFF else e.2) ≠ 0)) with
  | some e =>
    let m := g.owedLanes e.1 &&& e.2 &&& c.lanes
    some { cls := .operandNotReady, aux := o.named e.1, lanes := m }
  | none => none

/-- Whether an element of a register is poisoned, or upset, in some of the given lanes (R135); a scalar's parity is one for all lanes. -/
def Regs.poisoned (r : Regs) (reg : Nat) (m : Lanes) : Bool :=
  r.poison.any (fun k => decide (k / 32 = reg) && (decide (0x80 ≤ reg ∧ reg < 0xC0) || m.getLsbD (k % 32)))
def Regs.isUpset (r : Regs) (reg : Nat) (m : Lanes) : Bool := r.upset.any (fun k => decide (k.1 / 32 = reg) && m.getLsbD (k.1 % 32))

/-- The lanes in which an instruction reads its sources (R138). -/
def Opnds.sourceLanes (o : Opnds) (c : Issue) (g : Group) : Lanes := c.lanes &&& (c.view g).pred o.guard

/-- Poisoned elements that an instruction reads, and those whose residue does not match where it tests them (R136, R177). -/
def poisonRead (o : Opnds) (c : Issue) (g : Group) : Option Nat :=
  ((o.readSet c.lanes (o.sourceLanes c g)).find? (fun e => g.regs.poisoned e.1 e.2 || (o.sends && g.regs.isUpset e.1 e.2))).map (fun e => o.named e.1)

/-- The lanes in which an instruction reads an element that has been upset in storage. -/
def upsetLanes (o : Opnds) (c : Issue) (g : Group) : Lanes :=
  if g.regs.upset = [] then 0 else maskOf (fun l => (o.readSet c.lanes c.lanes).any (fun e => g.regs.isUpset e.1 (e.2 &&& laneBit l)))

/-- The residue that the element of a source code holds in a lane: that of its data, but where the data have changed in storage since
(R135). -/
def Regs.residue (r : Regs) (code l : Nat) : Nat :=
  ((readNo code).bind (fun n => Map.find r.upset (n * 32 + l))).getD ((r.read code l).toNat % 3)

/-- How a unit forms the residue of a result (R135): regenerated from it, predicted over significands, or from the residues of its sources in
a lane by a rule. -/
inductive Carry where
  | fresh
  | significands
  | rule (f : Regs → Nat → Nat)

/-- The lanes in which a unit finds its result's residue wrong: only where it has read an element that was upset. DEDUCED (log 112): a
prediction over significands finds every such element. -/
def wrongLanes (k : Carry) (o : Opnds) (c : Issue) (g : Group) (res : Nat → Word) : Lanes :=
  upsetLanes o c g &&& (match k with
    | .fresh => 0
    | .significands => 0xFFFFFFFF
    | .rule f => maskOf (fun l => decide (f (c.view g) l % 3 ≠ (res l).toNat % 3)))

/-- The rules of R135 for moves and for integer addition, subtraction and multiplication of two sources. -/
def carryMove (a : Nat) : Carry := .rule (fun r l => r.residue a l)
def carryAdd (a b : Nat) : Carry :=
  .rule (fun r l => r.residue a l + r.residue b l + 2 * (((r.read a l).toNat + (r.read b l).toNat) / 2 ^ 32))
def carrySub (a b : Nat) : Carry :=
  .rule (fun r l => r.residue a l + 2 * r.residue b l + (if (r.read a l).toNat < (r.read b l).toNat then 1 else 0))
/-- The half of a product, from the residues of its factors and the residue of the other half. -/
def carryMul (a b : Nat) (other : Word → Word → Word) : Carry :=
  .rule (fun r l => r.residue a l * r.residue b l + 2 * (other (r.read a l) (r.read b l)).toNat)
/-- The high half of a signed product: a negative factor is its unsigned number less 2^32, and so is a negative half. -/
def carryMulSigned (a b : Nat) : Carry :=
  .rule (fun r l =>
    let x := r.read a l
    let y := r.read b l
    let neg := fun (w : Word) => if w.msb then 1 else 0
    (r.residue a l + 2 * neg x) * (r.residue b l + 2 * neg y) + 2 * (x * y).toNat + neg (BitVec.ofInt 32 (x.toInt * y.toInt / 2 ^ 32)))

/-- Main-file destinations that are unmapped (R127). -/
def Opnds.unmapped (o : Opnds) (g : Group) : Nat :=
  ((o.dests.filter (fun d => decide (d < 96))).filter (fun d => !g.regs.vmap.getLsbD d)).length
/-- Those that are owed. DESIGN CHOICE (log 113): a register that the first path of a clock has made owed counts, though R134 has the two paths'
writes of one clock share a register. -/
def Opnds.owedDests (o : Opnds) (g : Group) : Nat :=
  ((o.dests.filter (fun d => decide (d < 96))).filter (fun d => decide (g.owedLanes d ≠ 0))).length

/-- A write past the ceiling (R129). DESIGN CHOICE (log 95): a register that the same instruction releases still counts. -/
def ceilingFault (o : Opnds) (g : Group) : Option FaultInfo :=
  failIf (decide (popcount 96 g.regs.vmap.toNat + o.unmapped g > g.ceil) && decide (o.unmapped g > 0)) illegalOperand

/-- Why the destinations cannot be allocated now: 31 superseded registers (R127) or an empty pool (R130). -/
def allocStall (s : State) (o : Opnds) (c : Issue) (g : Group) : Option Stall :=
  let fresh := o.unmapped g + o.owedDests g
  if g.superseded + o.owedDests g > 31 then some .superseded
  else if fresh = 0 then none
  else
    let n := g.fromPool fresh
    if n ≤ Map.get g.grants 0 (c.head g).pc + s.poolFree g.die g.core then none else some (.register n)

/-- Whether a code is an eligible base of a block of n registers, for reading (R30): a multiple of n in the main file, or
for pairs an even scalar. -/
def eligible (code n : Nat) : Bool :=
  (decide (code % n = 0 ∧ code + n ≤ 96)) || (decide (n = 2) && decide (112 ≤ code ∧ code % 2 = 0 ∧ code < 128))

/-- The codes of a block. -/
def block (code n : Nat) : List Nat := upto code n

end Sys2Proof.Machine
end

