-- ==== Sys2Proof/Machine/Flags.lean ====
section
/-!
DEFINITION. The sticky flags (R52, R53): raising, explicit writes, and where the flags of a late completion go (R308).
-/
namespace Sys2Proof.Machine

/-- Raises the flags of an operation that completes (R53): a raise is ORed in. -/
def Group.raise (g : Group) (f : FFlags) : Group := { g with fflags := g.fflags ||| f }

/-- The flags of a fixed-latency instruction are raised at its writeback, in die clock `due` (R53). -/
def Group.raiseAt (g : Group) (due : Nat) (f : FFlags) : Group := if f = 0 then g else { g with late := g.late ++ [(due, f)] }

/-- What a read of %fflags gives: it observes every raise by a fixed-latency instruction issued before it (R53). -/
def Group.flagsNow (g : Group) : FFlags := g.late.foldl (fun x e => x ||| e.2) g.fflags

/-- The raises whose clock is over. Those of the running clock still stand in `late`, so that an explicit write of that clock does not
lose them: the written value is placed first, and they are ORed into it (R53). -/
def Group.landFlags (g : Group) (clock : Nat) : Group :=
  if g.late = [] then g
  else { g with
    fflags := (g.late.filter (fun e => decide (e.1 < clock))).foldl (fun x e => x ||| e.2) g.fflags
    late := g.late.filter (fun e => decide (clock ≤ e.1)) }

/-- The die clock of the writeback of an instruction that issues now and has the latency lat. DEDUCED (log 88). -/
def State.writeback (s : State) (die lat : Nat) : Nat := (s.die die).clock + lat

/-- The OR of the flags of a list of lane results. -/
def orFlags (l : List FFlags) : FFlags := l.foldl (· ||| ·) 0

/-- Counts n raises of flags that are discarded: in the die's count and in the core counters with that source (R308, R324). -/
def State.discardFlags (s : State) (die core n : Nat) : State :=
  (s.modDie die (fun d => { d with discardedFlags := d.discardedFlags + n })).tallyCore (coreKey die core) .discardedFlags n

/-- Raises the flags of an operation that completes late (R308): in its group wherever it is, else in its grid's summary,
else they are discarded and counted. -/
def State.raiseLate (s : State) (k grid die core : Nat) (f : FFlags) : State :=
  if f = 0 then s
  else
    match Map.find s.groups k with
    | some g => if g.set = .ended then s.modGrid grid (fun x => { x with flags := x.flags ||| f }) else s.modGroup k (fun g => g.raise f)
    | none =>
      match Map.find s.grids grid with
      | some _ => s.modGrid grid (fun x => { x with flags := x.flags ||| f })
      | none => s.discardFlags die core 1

end Sys2Proof.Machine
end

