-- ==== Sys2Proof/Machine/Issue.lean ====
section
/-!
DEFINITION. The frame of every instruction (R24, R39, R138): the path at the issue stage, the checks in their order, stalls,
the last reads (R18, R128), the advance to the next instruction or clause, and transfers of control (R20, R249, R269).
-/
namespace Sys2Proof.Machine

/-- Runs a meaning at the path that stands at the issue stage (R246); without one there is no instruction. -/
def atIssue (s : State) (k : Issue → Group → State) : Out :=
  match s.cur with
  | none => .fault .noIssuingPath
  | some c =>
    match Map.find s.groups c.g with
    | none => .fault .noIssuingPath
    | some g => .next (k c g)

/-- The first multiple of 8 at or after an address (R16). -/
def roundUp8 (a : Nat) : Nat := (a + 7) / 8 * 8

/-- The next clause header after a path's instruction, when that is the last of its clause (R16); modulo the width of the
code address space (R29, R66). -/
def nextHeader (c : Issue) (t : Thread) : Nat := roundUp8 (t.pc + c.len) % 2 ^ 48

/-- Whether the path stands at its clause's last instruction (R17). -/
def atLast (t : Thread) : Bool := decide (hdrCount t.hdr0 ≤ t.cpos + 1)

/-! ### Segments of a travel launch (R266, R269) -/

def Segment.holds (x : Segment) (a : Nat) : Bool := x.valid && decide (x.base ≤ a ∧ a < x.base + 8 * x.len)
/-- The segment an address belongs to. -/
def Grid.segOf (g : Grid) (a : Nat) : Option Nat := (g.segs.find? (fun e => e.2.holds a)).map (·.1)
/-- The segment a core holds: it is a replica, or a loaded standby core (R268, R278). -/
def Grid.segAt (g : Grid) (core : Nat) : Option Nat :=
  (g.segs.find? (fun e => e.2.valid && (e.2.rep.getLsbD core || e.2.loaded.contains core))).map (·.1)

/-- The lanes whose next PC lies in no segment of a travel launch (R269). -/
def strayLanes (s : State) (g : Group) (m : Lanes) (pc : Nat → Nat) : Lanes :=
  if s.inTravel g then maskOf (fun l => m.getLsbD l && ((s.gridAt g.grid).segOf (pc l)).isNone) else 0

def strayFault (s : State) (g : Group) (m : Lanes) (pc : Nat → Nat) : Option FaultInfo :=
  let bad := strayLanes s g m pc
  if bad ≠ 0 then some { cls := .travelMode, addr := pc (lowLane bad), lanes := bad } else none

/-- A thread placed at a clause header: it leaves its clause, so its latch is invalid from there (R32), and it departs when
the header lies in a segment that its core does not hold (R269); the record will name the instruction that placed it (R304). -/
def toHeader (departs : Bool) (pc : Nat) (i : InsInfo) (t : Thread) : Thread :=
  { t with pc := pc, clause := pc, cpos := 0, entered := false, stall := .none, park := if departs then .depart else .none
           sent := if departs then i else t.sent }

/-- Sends lanes of a group to clause headers. -/
def Group.goto (g : Group) (grid : Grid) (m : Lanes) (pc : Nat → Nat) (i : InsInfo) : Group :=
  let departs := fun a => grid.travel && decide (grid.segOf a ≠ grid.segAt g.core)
  { g with
    threads := g.threads.map (fun e => if m.getLsbD e.1 then (e.1, toHeader (departs (pc e.1)) (pc e.1) i e.2) else e)
    regs := { g.regs with lrValid := g.regs.lrValid &&& ~~~ m } }

/-- Moves the path past its instruction: to the next of the clause, or through to the next header (R20). -/
def Group.advance (g : Group) (grid : Grid) (c : Issue) : Group :=
  let t := c.head g
  if atLast t then g.goto grid c.lanes (fun _ => nextHeader c t) (insInfo c g)
  else g.mapThreads c.lanes (fun x => { x with pc := (x.pc + c.len) % 2 ^ 48, cpos := x.cpos + 1, stall := .none })

/-- Parks lanes that have been moved past their instruction; they remember the clause and index at which they wait, for
eviction (R279). -/
def Group.park (g : Group) (m : Lanes) (p : Park) (clause cpos : Nat) : Group :=
  g.mapThreads m (fun t => { t with park := p, wpc := clause, wcpos := cpos })

/-- Takes a precise fault (R302, R305): the path stays at the instruction, which has no effect; a skip needs its length (R307). -/
def State.takePrecise (s : State) (c : Issue) (g : Group) (f : FaultInfo) (atHeader : Bool := false) : State :=
  let i := insInfo c g
  let i := if atHeader then { i with word := c.word % 2 ^ 32 } else i
  (s.modGroup c.g (fun x => x.mapThreads c.lanes (fun t => { t with len := c.len }))).deliver c.g
    { f with lanes := if f.lanes = 0 then c.lanes else f.lanes } i atHeader

/-- A path that stood to issue and did not was a candidate all the same: its threads age (R247). -/
def State.passOver (s : State) (c : Issue) : State := s.modGroup c.g (fun g => g.mapThreads c.lanes (fun t => { t with age := t.age + 1 }))

/-- Leaves the path at its instruction, waiting for a cause to clear (R298). A register request joins the core's queue in
the order in which it is made (R130); a handle that the core does not hold is asked for (R206); an MMA that
waits for the array, through a yoke or its core's own MMAs, is listed (R181). A second
path that waits for what the first took in this clock was a candidate, and ages (R247). -/
def State.stallPath (s : State) (c : Issue) (g : Group) (st : Stall) : State :=
  let s := s.modGroup c.g (fun g => g.mapThreads c.lanes (fun t => { t with stall := st, age := if c.second then t.age + 1 else t.age }))
  match st with
  | .register n =>
    let ck := coreKey g.die g.core
    let r : RegReq := { g := c.g, refill := false, n := n, pc := (c.head g).pc }
    if (s.coreAt ck).regReqs.any (fun x => decide (x.g = r.g ∧ x.refill = false ∧ x.pc = r.pc)) then s
    else s.modCore ck (fun x => { x with regReqs := x.regReqs ++ [r] })
  | .handle h =>
    let ev := Ev.handleTranslationReply (coreKey g.die g.core) h
    if s.inFlight ev then s else s.send 0 5 ev
  | .follower | .array =>
    let l := lowLane c.lanes
    let w : MmaWait := { g := c.g, lane := l, pc := (g.thread l).pc, seen := 0 }
    s.modCore (coreKey g.die g.core) (fun x =>
      { x with mmaWait := if x.mmaWait.any (fun y => decide ({ y with seen := 0 } = w)) then x.mmaWait else x.mmaWait ++ [w] })
  | _ => s

/-- The registers that the path's last-read bits release (R18), when every thread that has not exited is active (R128). -/
def releaseList (o : Opnds) (c : Issue) (g : Group) : List Nat :=
  let t := c.head g
  if g.liveLanes &&& ~~~ c.lanes = 0 then
    ((if t.hdr1.getLsbD (2 * t.cpos) then o.first else []) ++ (if t.hdr1.getLsbD (2 * t.cpos + 1) then o.second else [])).filter
      (fun r => decide (r < 96) && !o.dests.contains r)
  else []

/-- A poisoned element was read (R136): the instruction has no effect, and a fatal machine check waits for delivery. -/
def State.machineCheck (s : State) (c : Issue) (g : Group) (reg : Nat) : State :=
  let sub := if reg < 0x80 then 0 else if reg < 0xC0 then 1 else 2
  let i := insInfo c g
  (s.raiseAsync c.g { cls := .datapath, sub := sub, aux := reg, lanes := c.lanes } i).modGroup c.g
    (fun g => (g.mapThreads c.lanes (fun t => { t with age := 0 })).advance (s.gridAt g.grid) c)

/-- Takes the registers an instruction allocates, those that the core has granted to its path among them (R129, R130). -/
def Group.drawRegs (g : Group) (c : Issue) : Group := { g with grants := Map.erase g.grants (c.head g).pc }

/-- The fault, if any, of an instruction, its checks in their order: those before the operand codes, reserved codes, those
of the operand classes, the latch, owed registers, the instruction's own, the ceiling, and a fall-through to no segment. -/
def checksOf (s : State) (c : Issue) (g : Group) (o : Opnds) (early mid late : Option FaultInfo) (jump : Bool) : Option FaultInfo :=
  early <|> codeFault o <|> mid <|> latchFault o c g <|> readyFault o c g <|> late <|> ceilingFault o g <|>
  (if jump || !atLast (c.head g) then none else strayFault s g c.lanes (fun _ => nextHeader c (c.head g)))

/-- The fall-through check for an instruction that places its threads itself (R269). -/
def fallFault (s : State) (c : Issue) (g : Group) : Option FaultInfo :=
  if atLast (c.head g) then strayFault s g c.lanes (fun _ => nextHeader c (c.head g)) else none

/-- What an issued instruction does after its own effect: releases the last reads (R128) and moves the path on, unless the instruction
placed its threads itself. -/
def State.finish (s : State) (c : Issue) (rel : List Nat) (jump : Bool) : State :=
  s.modGroup c.g (fun g =>
    let g := rel.foldl (fun g r => g.release r) g
    let g := g.mapThreads c.lanes (fun t => { t with age := 0 })
    if jump then g else g.advance (s.gridAt g.grid) c)

/-- THE FRAME OF AN INSTRUCTION: checks, then stalls, then poisoned reads, then the effect and the common end. -/
def issueIns (s : State) (c : Issue) (g : Group) (o : Opnds) (early mid late : Option FaultInfo) (st : Option Stall)
    (eff : State → State) (jump : Bool := false) : State :=
  match checksOf s c g o early mid late jump with
  | some f => s.takePrecise c g f
  | none =>
    match st <|> allocStall s o c g with
    | some w => s.stallPath c g w
    | none =>
      match poisonRead o c g with
      | some r => s.machineCheck c g r
      | none => (eff (s.modGroup c.g (fun g => g.drawRegs c))).finish c (releaseList o c g) jump

/-- The active lanes whose guard reads true (R28). -/
def guardLanes (c : Issue) (g : Group) (p : Nat) : Lanes := c.lanes &&& (c.view g).pred p

/-- A result whose residue follows that of its sources is found wrong at writeback where a source had been upset in storage (R135, R136):
the element is written with its data and residue 11, and a machine check waits for delivery. -/
def State.spoil (s : State) (c : Issue) (g : Group) (dst : Nat) (m : Lanes) : State :=
  if m = 0 then s
  else
    let keys := fun (reg : Nat) => (lanesOf m).map (fun l => reg * 32 + l)
    (s.modGroup c.g (fun x => { x with regs := { x.regs with
      poison := (if dst < 104 then keys dst else []) ++ keys 104 ++ x.regs.poison } })).raiseAsync c.g
      { cls := .datapath, aux := dst, lanes := c.lanes } (insInfo c g)

/-- Main-file codes of a source, for the last-read bits (R18). -/
def relOf (code : Nat) : List Nat := if code < 96 then [code] else []

/-- A lane-wise instruction with one 32-bit result per lane (R138): the result goes to the destination and the latch of
every active, guard-true lane, and the lanes' flags are raised at the writeback of its class (R53). DESIGN CHOICE (log 89): the second path
uses %rmode as it stands after the first path's instruction of the same clock. `carry` says how the unit forms the residue of its result
(R135). -/
def laneOp (s : State) (guard dst : Nat) (o : Opnds) (early mid late : Option FaultInfo) (f : Group → Regs → Nat → Word × FFlags)
    (lat : Nat := 4) (carry : Carry := .fresh) : Out :=
  atIssue s fun c g =>
    let o := { o with preds := guard :: o.preds, dests := dst :: o.dests, guard := guard }
    issueIns s c g o early mid late none fun s =>
      let m := guardLanes c g guard
      let r := c.view g
      (s.modGroup c.g (fun x =>
        (x.writeResult dst m (fun l => (f g r l).1)).raiseAt (s.writeback g.die lat) (orFlags ((lanesOf m).map (fun l => (f g r l).2))))).spoil
        c g dst (m &&& wrongLanes carry o c g (fun l => (f g r l).1))

end Sys2Proof.Machine
end

