-- ==== Sys2Proof/Machine/Trans.lean ====
section
/-!
DEFINITION. The functions of R50 (reciprocal, square roots, powers, logarithms, sine, cosine, hyperbolic tangent), each
returned as the correctly rounded value of the exact function. Irrational results are computed in fixed point with 512
fraction bits and rounded from the truncated value with something known to lie below it.
-/
namespace Sys2Proof.Machine

/-- Fraction bits of the fixed-point evaluation. -/
def transP : Nat := 512
/-- Bits dropped before rounding, which cover the error of the evaluation. -/
def transG : Nat := 64

/-- ⌊π/2 · 2^512⌋. -/
def halfPi : Nat :=
  21060935446725318109723410742279694052627998656744627302797342544051902891138049459896942686123863173221885648458166742663646458312799580771176887101916299

/-- ⌊ln 2 · 2^512⌋. -/
def lnTwo : Nat :=
  9293584264128987901384440660653081117630633404975079641076009770578364573633075645167623918067512986930843040596952636663673675798576024949780480621393957

/-- The integer square root: the largest r with r² ≤ n, bit by bit from bit k down. -/
def isqrtFrom (n : Nat) : Nat → Nat → Nat
  | 0, r => r
  | k + 1, r =>
    let r' := r + 2 ^ k
    isqrtFrom n k (if r' * r' ≤ n then r' else r)

def isqrt (n : Nat) : Nat := isqrtFrom n (bitLen n / 2 + 1) 0

/-- Σ terms of the exponential series from term t of index i on: x, t and the result in fixed point. -/
def expSeries (x : Nat) : Nat → Nat → Nat → Nat → Nat
  | 0, _, _, acc => acc
  | k + 1, i, t, acc =>
    let t' := t * x / 2 ^ transP / (i + 1)
    expSeries x k (i + 1) t' (acc + t')

/-- e^x for 0 ≤ x < 1 in fixed point. -/
def expFix (x : Nat) : Nat := expSeries x 110 0 (2 ^ transP) (2 ^ transP)

/-- The alternating series of sine (i odd) and cosine (i even) from the term t of power i on; sq is the square. -/
def trigSeries (sq : Nat) : Nat → Nat → Nat → Bool → Int → Int
  | 0, _, _, _, acc => acc
  | k + 1, i, t, neg, acc =>
    let t' := t * sq / 2 ^ transP / ((i + 1) * (i + 2))
    trigSeries sq k (i + 2) t' (!neg) (if neg then acc - t' else acc + t')

/-- sin r and cos r for 0 ≤ r < π/2 in fixed point. -/
def sinFix (r : Nat) : Nat := (trigSeries (r * r / 2 ^ transP) 70 1 r true r).toNat
def cosFix (r : Nat) : Nat := (trigSeries (r * r / 2 ^ transP) 70 0 (2 ^ transP) true (2 ^ transP)).toNat

/-- Σ u^(2k+1)/(2k+1), from power p = u^i on. -/
def atanhSeries (sq : Nat) : Nat → Nat → Nat → Nat → Nat
  | 0, _, _, acc => acc
  | k + 1, i, p, acc =>
    let p' := p * sq / 2 ^ transP
    atanhSeries sq k (i + 2) p' (acc + p' / (i + 2))

/-- ln z for z = m / 2^k in [1, 2), in fixed point. -/
def lnFix (m k : Nat) : Nat :=
  let u := (m - 2 ^ k) * 2 ^ transP / (m + 2 ^ k)
  2 * atanhSeries (u * u / 2 ^ transP) 170 1 u u

/-- m · 2^e as a fixed-point number (truncated). -/
def toFix (m : Nat) (e : Int) : Nat :=
  let sh := e + transP
  if sh ≥ 0 then m * 2 ^ sh.toNat else m / 2 ^ (-sh).toNat

/-- Rounds a fixed-point approximation of an irrational number. -/
def roundFix (mode : RMode) (neg : Bool) (x : Nat) : Nat × FFlags :=
  fp32.round mode neg (x / 2 ^ transG) ((transG : Int) - transP) true

/-- A number a little below m · 2^e in magnitude, closer than any rounding boundary. -/
def roundBelow (mode : RMode) (neg : Bool) (m : Nat) (e : Int) : Nat × FFlags :=
  fp32.round mode neg (m * 2 ^ 64 - 1) (e - 64) true

/-- A number a little above m · 2^e in magnitude. -/
def roundAbove (mode : RMode) (neg : Bool) (m : Nat) (e : Int) : Nat × FFlags :=
  fp32.round mode neg (m * 2 ^ 64) (e - 64) true

def oneBits : Nat := 0x3F800000
def infBits (neg : Bool) : Nat := fp32.infBits + (if neg then fp32.signBit else 0)
def zeroBits (neg : Bool) : Nat := if neg then fp32.signBit else 0

/-- The canonical NaN of a NaN operand (R49). -/
def nanOf (sig : Bool) : Nat × FFlags := (fp32.nan, if sig then flagIV else 0)
/-- An invalid operation (R49). -/
def invalidOp : Nat × FFlags := (fp32.nan, flagIV)

/-- 1/x (R50). -/
def frcp (mode : RMode) (a : Nat) : Nat × FFlags :=
  match fp32.value a with
  | .nan s => nanOf s
  | .inf x => (zeroBits x, 0)
  | .fin x m e =>
    if m = 0 then (infBits x, flagDZ)
    else
      let q := 2 ^ 200 / m
      fp32.round mode x q (-200 - e) (decide (q * m ≠ 2 ^ 200))

/-- √x (R50). -/
def fsqrt (mode : RMode) (a : Nat) : Nat × FFlags :=
  match fp32.value a with
  | .nan s => nanOf s
  | .inf x => if x then invalidOp else (infBits false, 0)
  | .fin x m e =>
    if m = 0 then (a, 0)
    else if x then invalidOp
    else
      let m' := m * (if e % 2 = 0 then 1 else 2) * 2 ^ 100
      let e' := if e % 2 = 0 then e else e - 1
      let r := isqrt m'
      fp32.round mode false r (e' / 2 - 50) (decide (r * r ≠ m'))

/-- 1/√x (R50). -/
def frsq (mode : RMode) (a : Nat) : Nat × FFlags :=
  match fp32.value a with
  | .nan s => nanOf s
  | .inf x => if x then invalidOp else (zeroBits false, 0)
  | .fin x m e =>
    if m = 0 then (infBits x, flagDZ)
    else if x then invalidOp
    else
      let m' := m * (if e % 2 = 0 then 1 else 2)
      let e' := if e % 2 = 0 then e else e - 1
      let r := isqrt (2 ^ 200 / m')
      fp32.round mode false r (-100 - e' / 2) (decide (r * r * m' ≠ 2 ^ 200))

/-- 2^x (R50). -/
def fexp2 (mode : RMode) (a : Nat) : Nat × FFlags :=
  match fp32.value a with
  | .nan s => nanOf s
  | .inf x => (if x then zeroBits false else infBits false, 0)
  | .fin x m e =>
    if m = 0 then (oneBits, 0)
    else if (bitLen m : Int) - 1 + e ≥ 9 then
      fp32.round mode false 1 (if x then -10000 else 10000)
    else
      let d := dyadicOf x m e
      let n : Int := if e ≥ 0 then d.n * 2 ^ e.toNat else d.n / (2 ^ (-e).toNat : Int)
      if e ≥ 0 ∨ n * 2 ^ (-e).toNat = d.n then fp32.round mode false 1 n
      else
        let fr := if e ≥ 0 then 0 else (d.n - n * 2 ^ (-e).toNat).toNat
        let f := toFix fr e
        let y := expFix (f * lnTwo / 2 ^ transP)
        fp32.round mode false (y / 2 ^ transG) (n + transG - transP) true

/-- log2 x (R50). -/
def flog2 (mode : RMode) (a : Nat) : Nat × FFlags :=
  match fp32.value a with
  | .nan s => nanOf s
  | .inf x => if x then invalidOp else (infBits false, 0)
  | .fin x m e =>
    if m = 0 then (infBits true, flagDZ)
    else if x then invalidOp
    else
      let k := bitLen m - 1
      let ex : Int := e + k
      if m = 2 ^ k then
        (if ex = 0 then (0, 0) else fp32.round mode (decide (ex < 0)) ex.natAbs 0)
      else
        let l := lnFix m k * 2 ^ transP / lnTwo
        let v : Int := ex * 2 ^ transP + l
        roundFix mode (decide (v < 0)) v.natAbs

/-- The quadrant of |x| and the rest below π/2, in fixed point. -/
def reduceAngle (m : Nat) (e : Int) : Nat × Nat :=
  let x := toFix m e
  (x / halfPi % 4, x % halfPi)

/-- sin x and cos x (R50); for |x| < 2^-60 the results lie just below |x| and 1. -/
def fsin (mode : RMode) (a : Nat) : Nat × FFlags :=
  match fp32.value a with
  | .nan s => nanOf s
  | .inf _ => invalidOp
  | .fin x m e =>
    if m = 0 then (a, 0)
    else if (bitLen m : Int) + e < -60 then roundBelow mode x m e
    else
      let (q, r) := reduceAngle m e
      let y := if q % 2 = 0 then sinFix r else cosFix r
      roundFix mode (x != decide (q ≥ 2)) y

def fcos (mode : RMode) (a : Nat) : Nat × FFlags :=
  match fp32.value a with
  | .nan s => nanOf s
  | .inf _ => invalidOp
  | .fin _ m e =>
    if m = 0 then (oneBits, 0)
    else if (bitLen m : Int) + e < -60 then roundBelow mode false 1 0
    else
      let (q, r) := reduceAngle m e
      let y := if q % 2 = 0 then cosFix r else sinFix r
      roundFix mode (decide (q = 1 ∨ q = 2)) y

/-- tanh x (R50). -/
def ftanh (mode : RMode) (a : Nat) : Nat × FFlags :=
  match fp32.value a with
  | .nan s => nanOf s
  | .inf x => (oneBits + zeroBits x, 0)
  | .fin x m e =>
    if m = 0 then (a, 0)
    else if (bitLen m : Int) + e < -60 then roundBelow mode x m e
    else if (bitLen m : Int) - 1 + e ≥ 6 then roundBelow mode x 1 0
    else
      let y := 2 * toFix m e
      let n := y / lnTwo
      let ex := expFix (y % lnTwo) * 2 ^ n
      roundFix mode x ((ex - 2 ^ transP) * 2 ^ transP / (ex + 2 ^ transP))

end Sys2Proof.Machine
end

