-- ==== Sys2Proof/Machine/Vector.lean ====
section
/-!
DEFINITION. The lane-wise instructions of majors 0x00 to 0x41 and their 16-bit forms (R25, R26, R138 to R148).
-/
namespace Sys2Proof.Machine

/-! ### Integer operations (R139) -/

def mulHighSigned (x y : Word) : Word := BitVec.ofInt 32 (x.toInt * y.toInt / 2 ^ 32)
def mulHighUnsigned (x y : Word) : Word := BitVec.ofNat 32 (x.toNat * y.toNat / 2 ^ 32)
def shiftLeft (x y : Word) : Word := if y.toNat % 256 ≥ 32 then 0 else x <<< (y.toNat % 256)
def shiftRight (x y : Word) : Word := if y.toNat % 256 ≥ 32 then 0 else x >>> (y.toNat % 256)
def shiftRightArith (x y : Word) : Word := x.sshiftRight (min 31 (y.toNat % 256))
def absDiff (x y : Word) : Word := BitVec.ofNat 32 (x.toInt - y.toInt).natAbs

/-- A V3 instruction on two source codes (R27, R138). -/
def v3 (guard b a d : Nat) (f : Group → Word → Word → Word × FFlags) (s : State) (carry : Carry := .fresh) (lat : Nat := 4) : Out :=
  laneOp s guard d { reads := [a, b], first := relOf a, second := relOf b } none none none
    (fun g r l => f g (r.read a l) (r.read b l)) lat carry

/-- A V3 instruction that raises no flag. -/
def v3Int (guard b a d : Nat) (f : Word → Word → Word) (s : State) (carry : Carry := .fresh) : Out :=
  v3 guard b a d (fun _ x y => (f x y, 0)) s carry 2

/-- The second source of a short instruction: vs, or the latch (R25). -/
def shortSource (l : BitVec 1) (vs : BitVec 5) : Nat := if l = 1 then 104 else vs.toNat

/-- A short instruction: the V3 effect with va = vd, vb = the source and no guard; L = 1 with vs ≠ 0 is illegal (R25). -/
def shortOp (l : BitVec 1) (sl d : BitVec 5) (f : Group → Word → Word → Word × FFlags) (s : State) (carry : Carry := .fresh)
    (lat : Nat := 4) : Out :=
  let b := shortSource l sl
  laneOp s 0 d.toNat { reads := [d.toNat, b], first := relOf d.toNat, second := relOf b }
    (failIf (decide (l = 1 ∧ sl ≠ 0)) illegal) none none (fun g r k => f g (r.read d.toNat k) (r.read b k)) lat carry

def shortInt (l : BitVec 1) (sl d : BitVec 5) (f : Word → Word → Word) (s : State) (carry : Carry := .fresh) : Out :=
  shortOp l sl d (fun _ x y => (f x y, 0)) s carry 2

/-- MOV: 32 bits copied unchanged; the left operand is not read (R25). -/
def execMovShort (l : BitVec 1) (sl d : BitVec 5) (s : State) : Out :=
  let b := shortSource l sl
  laneOp s 0 d.toNat { reads := [b], second := relOf b } (failIf (decide (l = 1 ∧ sl ≠ 0)) illegal) none none
    (fun _ r k => (r.read b k, 0)) 2 (carryMove b)

def execIaddShort (l : BitVec 1) (sl d : BitVec 5) (s : State) : Out := shortInt l sl d (fun x y => x + y) s (carryAdd d.toNat (shortSource l sl))
def execIsubShort (l : BitVec 1) (sl d : BitVec 5) (s : State) : Out := shortInt l sl d (fun x y => x - y) s (carrySub d.toNat (shortSource l sl))
def execImulShort (l : BitVec 1) (sl d : BitVec 5) (s : State) : Out := shortInt l sl d (fun x y => x * y) s (carryMul d.toNat (shortSource l sl) mulHighUnsigned)
def execAndShort (l : BitVec 1) (sl d : BitVec 5) (s : State) : Out := shortInt l sl d (fun x y => x &&& y) s
def execOrShort (l : BitVec 1) (sl d : BitVec 5) (s : State) : Out := shortInt l sl d (fun x y => x ||| y) s
def execXorShort (l : BitVec 1) (sl d : BitVec 5) (s : State) : Out := shortInt l sl d (fun x y => x ^^^ y) s
def execShlShort (l : BitVec 1) (sl d : BitVec 5) (s : State) : Out := shortInt l sl d (shiftLeft) s
def execShrlShort (l : BitVec 1) (sl d : BitVec 5) (s : State) : Out := shortInt l sl d (shiftRight) s
def execShraShort (l : BitVec 1) (sl d : BitVec 5) (s : State) : Out := shortInt l sl d (shiftRightArith) s

/-! ### FP32 operations (R140) -/

/-- An FP32 function of two operands under the group's mode. -/
def fpOp (f : RMode → Nat → Nat → Nat × FFlags) (g : Group) (x y : Word) : Word × FFlags :=
  let r := f (RMode.ofCode g.rmode) x.toNat y.toNat
  (BitVec.ofNat 32 r.1, r.2)

def execFaddShort (l : BitVec 1) (sl d : BitVec 5) (s : State) : Out := shortOp l sl d (fpOp (fp32.add)) s .significands
def execFsubShort (l : BitVec 1) (sl d : BitVec 5) (s : State) : Out := shortOp l sl d (fpOp (fp32.sub)) s .significands
def execFmulShort (l : BitVec 1) (sl d : BitVec 5) (s : State) : Out := shortOp l sl d (fpOp (fp32.mul)) s .significands
def execFmaxShort (l : BitVec 1) (sl d : BitVec 5) (s : State) : Out := shortOp l sl d (fpOp (fun _ => fp32.minMax true)) s
def execFminShort (l : BitVec 1) (sl d : BitVec 5) (s : State) : Out := shortOp l sl d (fpOp (fun _ => fp32.minMax false)) s

/-- NOP (R26): no effect; it counts as an instruction. -/
def execNop (s : State) : Out := atIssue s fun c g => issueIns s c g {} none none none none id

def execIadd (g : BitVec 3) (b a d : BitVec 7) (s : State) : Out := v3Int g.toNat b.toNat a.toNat d.toNat (fun x y => x + y) s (carryAdd a.toNat b.toNat)
def execIsub (g : BitVec 3) (b a d : BitVec 7) (s : State) : Out := v3Int g.toNat b.toNat a.toNat d.toNat (fun x y => x - y) s (carrySub a.toNat b.toNat)
def execImul (g : BitVec 3) (b a d : BitVec 7) (s : State) : Out := v3Int g.toNat b.toNat a.toNat d.toNat (fun x y => x * y) s (carryMul a.toNat b.toNat mulHighUnsigned)
def execImulhs (g : BitVec 3) (b a d : BitVec 7) (s : State) : Out := v3Int g.toNat b.toNat a.toNat d.toNat (mulHighSigned) s (carryMulSigned a.toNat b.toNat)
def execImulhn (g : BitVec 3) (b a d : BitVec 7) (s : State) : Out := v3Int g.toNat b.toNat a.toNat d.toNat (mulHighUnsigned) s (carryMul a.toNat b.toNat (fun x y => x * y))
def execImins (g : BitVec 3) (b a d : BitVec 7) (s : State) : Out := v3Int g.toNat b.toNat a.toNat d.toNat (fun x y => if x.toInt ≤ y.toInt then x else y) s
def execImaxs (g : BitVec 3) (b a d : BitVec 7) (s : State) : Out := v3Int g.toNat b.toNat a.toNat d.toNat (fun x y => if x.toInt ≤ y.toInt then y else x) s
def execIminn (g : BitVec 3) (b a d : BitVec 7) (s : State) : Out := v3Int g.toNat b.toNat a.toNat d.toNat (fun x y => if x.toNat ≤ y.toNat then x else y) s
def execImaxn (g : BitVec 3) (b a d : BitVec 7) (s : State) : Out := v3Int g.toNat b.toNat a.toNat d.toNat (fun x y => if x.toNat ≤ y.toNat then y else x) s
def execAnd (g : BitVec 3) (b a d : BitVec 7) (s : State) : Out := v3Int g.toNat b.toNat a.toNat d.toNat (fun x y => x &&& y) s
def execOr (g : BitVec 3) (b a d : BitVec 7) (s : State) : Out := v3Int g.toNat b.toNat a.toNat d.toNat (fun x y => x ||| y) s
def execXor (g : BitVec 3) (b a d : BitVec 7) (s : State) : Out := v3Int g.toNat b.toNat a.toNat d.toNat (fun x y => x ^^^ y) s
def execAndn (g : BitVec 3) (b a d : BitVec 7) (s : State) : Out := v3Int g.toNat b.toNat a.toNat d.toNat (fun x y => x &&& ~~~ y) s
def execShl (g : BitVec 3) (b a d : BitVec 7) (s : State) : Out := v3Int g.toNat b.toNat a.toNat d.toNat (shiftLeft) s
def execShrl (g : BitVec 3) (b a d : BitVec 7) (s : State) : Out := v3Int g.toNat b.toNat a.toNat d.toNat (shiftRight) s
def execShra (g : BitVec 3) (b a d : BitVec 7) (s : State) : Out := v3Int g.toNat b.toNat a.toNat d.toNat (shiftRightArith) s
def execRotl (g : BitVec 3) (b a d : BitVec 7) (s : State) : Out := v3Int g.toNat b.toNat a.toNat d.toNat (fun x y => x.rotateLeft (y.toNat % 32)) s
def execIabsd (g : BitVec 3) (b a d : BitVec 7) (s : State) : Out := v3Int g.toNat b.toNat a.toNat d.toNat (absDiff) s

def execFadd (g : BitVec 3) (b a d : BitVec 7) (s : State) : Out := v3 g.toNat b.toNat a.toNat d.toNat (fpOp (fp32.add)) s .significands
def execFsub (g : BitVec 3) (b a d : BitVec 7) (s : State) : Out := v3 g.toNat b.toNat a.toNat d.toNat (fpOp (fp32.sub)) s .significands
def execFmul (g : BitVec 3) (b a d : BitVec 7) (s : State) : Out := v3 g.toNat b.toNat a.toNat d.toNat (fpOp (fp32.mul)) s .significands
def execFmin (g : BitVec 3) (b a d : BitVec 7) (s : State) : Out := v3 g.toNat b.toNat a.toNat d.toNat (fpOp (fun _ => fp32.minMax false)) s
def execFmax (g : BitVec 3) (b a d : BitVec 7) (s : State) : Out := v3 g.toNat b.toNat a.toNat d.toNat (fpOp (fun _ => fp32.minMax true)) s

/-- A V3 instruction that also reads its destination as an accumulator (R138). -/
def v3Acc (guard b a d : Nat) (f : Group → Word → Word → Word → Word × FFlags) (s : State) : Out :=
  laneOp s guard d { reads := [a, b, d], first := relOf a, second := relOf b } none none none
    (fun g r l => f g (r.read d l) (r.read a l) (r.read b l)) 4 .significands

/-- FMAC: d + a × b with one rounding (R140). -/
def execFmac (g : BitVec 3) (b a d : BitVec 7) (s : State) : Out :=
  v3Acc g.toNat b.toNat a.toNat d.toNat (fun gr z x y =>
    let r := fp32.fma (RMode.ofCode gr.rmode) z.toNat x.toNat y.toNat
    (BitVec.ofNat 32 r.1, r.2)) s

def execFcpys (g : BitVec 3) (b a d : BitVec 7) (s : State) : Out :=
  v3Int g.toNat b.toNat a.toNat d.toNat (fun x y => (x &&& 0x7FFFFFFF) ||| (y &&& 0x80000000)) s

def execFscale (g : BitVec 3) (b a d : BitVec 7) (s : State) : Out :=
  v3 g.toNat b.toNat a.toNat d.toNat (fun gr x y =>
    let r := fp32.scale (RMode.ofCode gr.rmode) x.toNat y.toInt
    (BitVec.ofNat 32 r.1, r.2)) s

/-! ### Packed 16-bit operations (R51, R141) -/

/-- Two 16-bit results packed into one element, with the OR of their flags. -/
def pack16 (lo hi : Nat × FFlags) : Word × FFlags := (BitVec.ofNat 32 (lo.1 % 65536 + 65536 * (hi.1 % 65536)), lo.2 ||| hi.2)
def half0 (x : Word) : Nat := x.toNat % 65536
def half1 (x : Word) : Nat := x.toNat / 65536

def packedOp (f : RMode → Nat → Nat → Nat × FFlags) (g : Group) (x y : Word) : Word × FFlags :=
  let m := RMode.ofCode g.rmode
  pack16 (f m (half0 x) (half0 y)) (f m (half1 x) (half1 y))

def packedMac (fm : Fmt) (g : Group) (z x y : Word) : Word × FFlags :=
  let m := RMode.ofCode g.rmode
  pack16 (fm.fma m (half0 z) (half0 x) (half0 y)) (fm.fma m (half1 z) (half1 x) (half1 y))

def execHadd2 (g : BitVec 3) (b a d : BitVec 7) (s : State) : Out := v3 g.toNat b.toNat a.toNat d.toNat (packedOp (fp16.add)) s .significands
def execHsub2 (g : BitVec 3) (b a d : BitVec 7) (s : State) : Out := v3 g.toNat b.toNat a.toNat d.toNat (packedOp (fp16.sub)) s .significands
def execHmul2 (g : BitVec 3) (b a d : BitVec 7) (s : State) : Out := v3 g.toNat b.toNat a.toNat d.toNat (packedOp (fp16.mul)) s .significands
def execHmin2 (g : BitVec 3) (b a d : BitVec 7) (s : State) : Out := v3 g.toNat b.toNat a.toNat d.toNat (packedOp (fun _ => fp16.minMax false)) s
def execHmax2 (g : BitVec 3) (b a d : BitVec 7) (s : State) : Out := v3 g.toNat b.toNat a.toNat d.toNat (packedOp (fun _ => fp16.minMax true)) s
def execHfmac2 (g : BitVec 3) (b a d : BitVec 7) (s : State) : Out := v3Acc g.toNat b.toNat a.toNat d.toNat (packedMac fp16) s
def execBadd2 (g : BitVec 3) (b a d : BitVec 7) (s : State) : Out := v3 g.toNat b.toNat a.toNat d.toNat (packedOp (bf16.add)) s .significands
def execBsub2 (g : BitVec 3) (b a d : BitVec 7) (s : State) : Out := v3 g.toNat b.toNat a.toNat d.toNat (packedOp (bf16.sub)) s .significands
def execBmul2 (g : BitVec 3) (b a d : BitVec 7) (s : State) : Out := v3 g.toNat b.toNat a.toNat d.toNat (packedOp (bf16.mul)) s .significands
def execBmin2 (g : BitVec 3) (b a d : BitVec 7) (s : State) : Out := v3 g.toNat b.toNat a.toNat d.toNat (packedOp (fun _ => bf16.minMax false)) s
def execBmax2 (g : BitVec 3) (b a d : BitVec 7) (s : State) : Out := v3 g.toNat b.toNat a.toNat d.toNat (packedOp (fun _ => bf16.minMax true)) s
def execBfmac2 (g : BitVec 3) (b a d : BitVec 7) (s : State) : Out := v3Acc g.toNat b.toNat a.toNat d.toNat (packedMac bf16) s

/-! ### Selection and byte permutation (R142, R143) -/

/-- SEL: g selects a source in every active lane. -/
def execSel (g : BitVec 3) (b a d : BitVec 7) (s : State) : Out :=
  laneOp s 0 d.toNat { reads := [a.toNat, b.toNat], preds := [g.toNat], first := relOf a.toNat, second := relOf b.toNat } none none none
    (fun _ r l => (if r.predAt g.toNat l then r.read a.toNat l else r.read b.toNat l, 0)) 2
    (.rule (fun r l => if r.predAt g.toNat l then r.residue a.toNat l else r.residue b.toNat l))

/-- Byte k of the result: byte sel of the eight, or its sign (R143). -/
def permByte (x : Nat) (sel : Nat) : Nat :=
  let y := x / 256 ^ (sel % 8) % 256
  if sel / 8 % 2 = 1 then (if y ≥ 128 then 255 else 0) else y

def permute (sel lo hi : Word) : Word :=
  let x := lo.toNat + 2 ^ 32 * hi.toNat
  BitVec.ofNat 32 (permByte x (sel.toNat % 16) + 256 * permByte x (sel.toNat / 16 % 16) +
    65536 * permByte x (sel.toNat / 256 % 16) + 16777216 * permByte x (sel.toNat / 4096 % 16))

/-- PRMT reads its selector through vd, which may not be 104 or 105. -/
def execPrmt (g : BitVec 3) (b a d : BitVec 7) (s : State) : Out :=
  laneOp s g.toNat d.toNat { reads := [a.toNat, b.toNat, d.toNat], first := relOf a.toNat, second := relOf b.toNat } none
    (failIf (decide (d.toNat = 104 ∨ d.toNat = 105)) illegalOperand) none
    (fun _ r l => (permute (r.read d.toNat l) (r.read a.toNat l) (r.read b.toNat l), 0))

/-! ### Immediate forms (R144) -/

def vi (a d : Nat) (f : Word → Word) (s : State) (carry : Carry := .fresh) : Out :=
  laneOp s 0 d { reads := [a], first := relOf a } none none none (fun _ r l => (f (r.read a l), 0)) 2 carry

def execIaddi (im : BitVec 10) (a d : BitVec 7) (s : State) : Out := vi a.toNat d.toNat (fun x => x + im.signExtend 32) s
    (.rule (fun r l => r.residue a.toNat l + (im.signExtend 32).toNat + 2 * (((r.read a.toNat l).toNat + (im.signExtend 32).toNat) / 2 ^ 32)))
def execImuli (im : BitVec 10) (a d : BitVec 7) (s : State) : Out := vi a.toNat d.toNat (fun x => x * im.signExtend 32) s
    (.rule (fun r l => r.residue a.toNat l * (im.signExtend 32).toNat + 2 * (mulHighUnsigned (r.read a.toNat l) (im.signExtend 32)).toNat))
def execAndi (im : BitVec 10) (a d : BitVec 7) (s : State) : Out := vi a.toNat d.toNat (fun x => x &&& im.zeroExtend 32) s
def execOri (im : BitVec 10) (a d : BitVec 7) (s : State) : Out := vi a.toNat d.toNat (fun x => x ||| im.zeroExtend 32) s
def execXori (im : BitVec 10) (a d : BitVec 7) (s : State) : Out := vi a.toNat d.toNat (fun x => x ^^^ im.zeroExtend 32) s
def execMovhi (im : BitVec 10) (a d : BitVec 7) (s : State) : Out := vi a.toNat d.toNat (fun x => im ++ x.extractLsb' 0 22) s
def execShli (c : BitVec 5) (a d : BitVec 7) (s : State) : Out := vi a.toNat d.toNat (fun x => x <<< c.toNat) s
def execShrli (c : BitVec 5) (a d : BitVec 7) (s : State) : Out := vi a.toNat d.toNat (fun x => x >>> c.toNat) s
def execShrai (c : BitVec 5) (a d : BitVec 7) (s : State) : Out := vi a.toNat d.toNat (fun x => x.sshiftRight c.toNat) s
def execMovi (im : BitVec 10) (d : BitVec 7) (s : State) : Out :=
  laneOp s 0 d.toNat {} none none none (fun _ _ _ => (im.signExtend 32, 0))

/-! ### Compares into predicates (R145, R146) -/

/-- A VP instruction: one bit per active, guard-true lane into pd, ANDed with the old bit where acc is set. -/
def vp (acc : BitVec 1) (guard : Nat) (o : Opnds) (pd : Nat) (early : Option FaultInfo) (f : Regs → Nat → Bool × FFlags) (s : State) : Out :=
  atIssue s fun c g =>
    let o := { o with preds := guard :: (if acc = 1 then pd :: o.preds else o.preds), guard := guard }
    issueIns s c g o early none none none fun s =>
      let m := guardLanes c g guard
      let r := c.view g
      let t := maskOf (fun l => (f r l).1)
      s.modGroup c.g (fun x =>
        (x.writePred pd m (if acc = 1 then r.pred pd &&& t else t)).raiseAt (s.writeback g.die 2) (orFlags ((lanesOf m).map (fun l => (f r l).2))))

/-- The integer conditions EQ, NE, LT, LE, GT, GE. -/
def intCond (n : Nat) (x y : Int) : Bool :=
  match n with
  | 0 => decide (x = y)
  | 1 => decide (x ≠ y)
  | 2 => decide (x < y)
  | 3 => decide (x ≤ y)
  | 4 => decide (x > y)
  | _ => decide (x ≥ y)

def execIcmps (c : BitVec 1) (g : BitVec 3) (b a : BitVec 7) (n p : BitVec 3) (s : State) : Out :=
  vp c g.toNat { reads := [a.toNat, b.toNat], first := relOf a.toNat, second := relOf b.toNat } p.toNat
    (failIf (decide (n.toNat ≥ 6)) illegal) (fun r l => (intCond n.toNat (r.read a.toNat l).toInt (r.read b.toNat l).toInt, 0)) s

def execIcmpn (c : BitVec 1) (g : BitVec 3) (b a : BitVec 7) (n p : BitVec 3) (s : State) : Out :=
  vp c g.toNat { reads := [a.toNat, b.toNat], first := relOf a.toNat, second := relOf b.toNat } p.toNat
    (failIf (decide (n.toNat ≥ 6)) illegal) (fun r l => (intCond n.toNat (r.read a.toNat l).toNat (r.read b.toNat l).toNat, 0)) s

/-- The FP32 conditions, with IV for a signalling NaN, and for any NaN under an ordering condition (R145). -/
def fpCond (n : Nat) (x y : Nat) : Bool × FFlags :=
  let snan := (fp32.value x).isSnan || (fp32.value y).isSnan
  let iv : FFlags := if snan then flagIV else 0
  match fcompare x y with
  | none =>
    match n with
    | 1 | 6 => (true, iv)
    | 0 | 7 => (false, iv)
    | _ => (false, flagIV)
  | some k =>
    match n with
    | 0 => (decide (k = .eq), 0)
    | 1 => (decide (k ≠ .eq), 0)
    | 2 => (decide (k = .lt), 0)
    | 3 => (decide (k ≠ .gt), 0)
    | 4 => (decide (k = .gt), 0)
    | 5 => (decide (k ≠ .lt), 0)
    | 6 => (false, 0)
    | _ => (true, 0)

def execFcmp (c : BitVec 1) (g : BitVec 3) (b a : BitVec 7) (n p : BitVec 3) (s : State) : Out :=
  vp c g.toNat { reads := [a.toNat, b.toNat], first := relOf a.toNat, second := relOf b.toNat } p.toNat none
    (fun r l => fpCond n.toNat (r.read a.toNat l).toNat (r.read b.toNat l).toNat) s

def predOp (n : Nat) (x y : Bool) : Bool :=
  match n with
  | 0 => x && y
  | 1 => x || y
  | 2 => x != y
  | 3 => x && !y
  | 4 => x || !y
  | _ => x == y

def execPlop (c : BitVec 1) (g : BitVec 3) (b a : BitVec 3) (n p : BitVec 3) (s : State) : Out :=
  vp c g.toNat { preds := [a.toNat, b.toNat] } p.toNat (failIf (decide (n.toNat ≥ 6)) illegal)
    (fun r l => (predOp n.toNat (r.predAt a.toNat l) (r.predAt b.toNat l), 0)) s

/-! ### Unary operations (R147, R148) -/

def vx (guard a d : Nat) (f : Group → Word → Word × FFlags) (s : State) (lat : Nat := 4) : Out :=
  laneOp s guard d { reads := [a], first := relOf a } none none none (fun g r l => f g (r.read a l)) lat

def vxInt (guard a d : Nat) (f : Word → Word) (s : State) : Out := vx guard a d (fun _ x => (f x, 0)) s

def fpUnary (f : RMode → Nat → Nat × FFlags) (g : Group) (x : Word) : Word × FFlags :=
  let r := f (RMode.ofCode g.rmode) x.toNat
  (BitVec.ofNat 32 r.1, r.2)

def countOnes (x : Word) : Word := BitVec.ofNat 32 (popcount 32 x.toNat)
def leadingZeros (x : Word) : Word := BitVec.ofNat 32 (32 - bitLen x.toNat)
def reverseBits (x : Word) : Word := maskOf (fun i => x.getLsbD (31 - i))

def execFrcp (g : BitVec 3) (a d : BitVec 7) (s : State) : Out := vx g.toNat a.toNat d.toNat (fpUnary frcp) s 16
def execFrsq (g : BitVec 3) (a d : BitVec 7) (s : State) : Out := vx g.toNat a.toNat d.toNat (fpUnary frsq) s 16
def execFsqrt (g : BitVec 3) (a d : BitVec 7) (s : State) : Out := vx g.toNat a.toNat d.toNat (fpUnary fsqrt) s 16
def execFexp2 (g : BitVec 3) (a d : BitVec 7) (s : State) : Out := vx g.toNat a.toNat d.toNat (fpUnary fexp2) s 16
def execFlog2 (g : BitVec 3) (a d : BitVec 7) (s : State) : Out := vx g.toNat a.toNat d.toNat (fpUnary flog2) s 16
def execFsin (g : BitVec 3) (a d : BitVec 7) (s : State) : Out := vx g.toNat a.toNat d.toNat (fpUnary fsin) s 16
def execFcos (g : BitVec 3) (a d : BitVec 7) (s : State) : Out := vx g.toNat a.toNat d.toNat (fpUnary fcos) s 16
def execFtanh (g : BitVec 3) (a d : BitVec 7) (s : State) : Out := vx g.toNat a.toNat d.toNat (fpUnary ftanh) s 16
def execFfloor (g : BitVec 3) (a d : BitVec 7) (s : State) : Out := vx g.toNat a.toNat d.toNat (fpUnary (fun _ => fp32.integral .rdn false)) s
def execFceil (g : BitVec 3) (a d : BitVec 7) (s : State) : Out := vx g.toNat a.toNat d.toNat (fpUnary (fun _ => fp32.integral .rup false)) s
def execFrint (g : BitVec 3) (a d : BitVec 7) (s : State) : Out := vx g.toNat a.toNat d.toNat (fpUnary (fun m => fp32.integral m true)) s
def execFabs (g : BitVec 3) (a d : BitVec 7) (s : State) : Out := vxInt g.toNat a.toNat d.toNat (fun x => x &&& 0x7FFFFFFF) s
def execFneg (g : BitVec 3) (a d : BitVec 7) (s : State) : Out := vxInt g.toNat a.toNat d.toNat (fun x => x ^^^ 0x80000000) s
def execFexpn (g : BitVec 3) (a d : BitVec 7) (s : State) : Out := vxInt g.toNat a.toNat d.toNat (fun x => fexpn x.toNat) s
def execNot (g : BitVec 3) (a d : BitVec 7) (s : State) : Out := vxInt g.toNat a.toNat d.toNat (fun x => ~~~ x) s
def execNeg (g : BitVec 3) (a d : BitVec 7) (s : State) : Out := vxInt g.toNat a.toNat d.toNat (fun x => 0 - x) s
def execAbs (g : BitVec 3) (a d : BitVec 7) (s : State) : Out := vxInt g.toNat a.toNat d.toNat (fun x => if x.toInt ≥ 0 then x else 0 - x) s
def execPopc (g : BitVec 3) (a d : BitVec 7) (s : State) : Out := vxInt g.toNat a.toNat d.toNat (countOnes) s
def execClz (g : BitVec 3) (a d : BitVec 7) (s : State) : Out := vxInt g.toNat a.toNat d.toNat (leadingZeros) s
def execBrev (g : BitVec 3) (a d : BitVec 7) (s : State) : Out := vxInt g.toNat a.toNat d.toNat (reverseBits) s
def execSext8 (g : BitVec 3) (a d : BitVec 7) (s : State) : Out := vxInt g.toNat a.toNat d.toNat (fun x => (x.extractLsb' 0 8).signExtend 32) s
def execSext16 (g : BitVec 3) (a d : BitVec 7) (s : State) : Out := vxInt g.toNat a.toNat d.toNat (fun x => (x.extractLsb' 0 16).signExtend 32) s

end Sys2Proof.Machine
end

