-- ==== Sys2Proof/Machine/Convert.lean ====
section
/-!
DEFINITION. Conversions (R149 to R153): CVT, the narrow conversions with a chosen scale, and the absolute maxima.
-/
namespace Sys2Proof.Machine

/-! ### CVT (R149, R150) -/

/-- The mode of field rm: 7 is %rmode; 5 and 6 are reserved. -/
def cvtMode (r : Nat) (g : Group) : RMode := RMode.ofCode (if r = 7 then g.rmode else r)
def cvtReserved (r : Nat) : Option FaultInfo := failIf (decide (r = 5 ∨ r = 6)) illegal

/-- A conversion of one element to one 32-bit result. -/
def cvtOne (guard rm a d : Nat) (f : RMode → Word → Word × FFlags) (s : State) : Out :=
  laneOp s guard d { reads := [a], first := relOf a } (cvtReserved rm) none none
    (fun g r l => f (cvtMode rm g) (r.read a l))

/-- Ops 4 and 5: an FP32 pair to two 16-bit values. -/
def cvtPairIn (fm : Fmt) (guard rm a d : Nat) (s : State) : Out :=
  let codes := if eligible a 2 then block a 2 else [a]
  laneOp s guard d { reads := codes, first := codes.filter (fun r => decide (r < 96)), bases := baseOf codes } (cvtReserved rm)
    (failIf (!eligible a 2) illegalOperand) none
    (fun g r l =>
      let m := cvtMode rm g
      pack16 (fp32.convert fm m (r.read a l).toNat) (fp32.convert fm m (r.read (a + 1) l).toNat))

/-- An instruction with a block of main-file destinations (R127, R150, R152): element i of a lane goes to register
base + i; no latch is written. -/
def blockOp (s : State) (guard : Nat) (o : Opnds) (base n : Nat) (ok : Bool) (early mid late : Option FaultInfo)
    (f : Group → Regs → Nat → Nat → Word × FFlags) : Out :=
  atIssue s fun c g =>
    let o := { o with preds := guard :: o.preds, dests := if ok then block base n else [], guard := guard }
    issueIns s c g o early mid late none fun s =>
      let m := guardLanes c g guard
      let r := c.view g
      s.modGroup c.g (fun x =>
        ((upto 0 n).foldl (fun x i => x.writeCode (base + i) m (fun l => (f g r i l).1)) x).raiseAt (s.writeback g.die 4)
          (orFlags ((lanesOf m).map (fun l => orFlags ((upto 0 n).map (fun i => (f g r i l).2))))))

/-- Ops 6 and 7: two 16-bit values to an FP32 pair. -/
def cvtPairOut (fm : Fmt) (guard rm a d : Nat) (s : State) : Out :=
  let ok := decide (d % 2 = 0 ∧ d + 2 ≤ 96)
  let bad := decide (106 ≤ d)
  blockOp s guard { reads := [a], first := relOf a } d (if bad then 1 else 2) (ok || bad) (cvtReserved rm)
    (failIf (!ok) illegalOperand) none
    (fun g r i l =>
      let x := r.read a l
      let v := fm.convert fp32 (cvtMode rm g) (if i = 0 then half0 x else half1 x)
      (BitVec.ofNat 32 v.1, v.2))

def execCvtS32F32 (g r : BitVec 3) (a d : BitVec 7) (s : State) : Out :=
  cvtOne g.toNat r.toNat a.toNat d.toNat (fun m x => toInt32 true m x.toNat) s
def execCvtN32F32 (g r : BitVec 3) (a d : BitVec 7) (s : State) : Out :=
  cvtOne g.toNat r.toNat a.toNat d.toNat (fun m x => toInt32 false m x.toNat) s
def execCvtF32S32 (g r : BitVec 3) (a d : BitVec 7) (s : State) : Out :=
  cvtOne g.toNat r.toNat a.toNat d.toNat (fun m x => let v := ofInt32 true m x; (BitVec.ofNat 32 v.1, v.2)) s
def execCvtF32N32 (g r : BitVec 3) (a d : BitVec 7) (s : State) : Out :=
  cvtOne g.toNat r.toNat a.toNat d.toNat (fun m x => let v := ofInt32 false m x; (BitVec.ofNat 32 v.1, v.2)) s
def execCvtH2F32 (g r : BitVec 3) (a d : BitVec 7) (s : State) : Out := cvtPairIn fp16 g.toNat r.toNat a.toNat d.toNat s
def execCvtB2F32 (g r : BitVec 3) (a d : BitVec 7) (s : State) : Out := cvtPairIn bf16 g.toNat r.toNat a.toNat d.toNat s
def execCvtF32H2 (g r : BitVec 3) (a d : BitVec 7) (s : State) : Out := cvtPairOut fp16 g.toNat r.toNat a.toNat d.toNat s
def execCvtF32B2 (g r : BitVec 3) (a d : BitVec 7) (s : State) : Out := cvtPairOut bf16 g.toNat r.toNat a.toNat d.toNat s
def execCvtB2H2 (g r : BitVec 3) (a d : BitVec 7) (s : State) : Out :=
  cvtOne g.toNat r.toNat a.toNat d.toNat (fun m x => pack16 (fp16.convert bf16 m (half0 x)) (fp16.convert bf16 m (half1 x))) s
def execCvtH2B2 (g r : BitVec 3) (a d : BitVec 7) (s : State) : Out :=
  cvtOne g.toNat r.toNat a.toNat d.toNat (fun m x => pack16 (bf16.convert fp16 m (half0 x)) (bf16.convert fp16 m (half1 x))) s

/-! ### Narrow conversions (R151, R152) -/

/-- Descriptor n of a group's team. -/
def State.fd (s : State) (g : Group) (n : Nat) : Word := Map.get (s.teamAt g.team).fds 0 n

/-- The format fault of a descriptor that is invalid or has the wrong layout. -/
def fdFault (s : State) (g : Group) (n layout : Nat) : Option FaultInfo :=
  let d := s.fd g n
  failIf (!descValid d || decide ((descOf d).layout ≠ layout)) { cls := .format, aux := d.toNat }

/-- Whether the instructions that name descriptors are illegal: in a travelling-thread launch (R158). -/
def travelIllegal (s : State) (g : Group) : Option FaultInfo := failIf (s.inTravel g) illegal

/-- n FP32 registers to one register of narrow codes under the scale byte in vb. -/
def quantize (n layout f b a d : Nat) (s : State) : Out :=
  atIssue s fun c g =>
    let codes := if eligible a n then block a n else [a]
    let o : Opnds := { reads := codes ++ [b], dests := [d], first := codes.filter (fun r => decide (r < 96)), second := relOf b
                       bases := baseOf codes }
    issueIns s c g o (travelIllegal s g) (failIf (!eligible a n) illegalOperand) (fdFault s g f layout) none fun s =>
      let fd := descOf (s.fd g f)
      let r := c.view g
      let conv := fun l i => toNarrow fd (scaleByte (r.read b l).toNat) (fp32.value (r.read (a + i) l).toNat) (RMode.ofCode fd.round)
      s.modGroup c.g (fun x =>
        (x.writeResult d c.lanes (fun l =>
          BitVec.ofNat 32 ((upto 0 n).foldl (fun y i => y + (conv l i).1 * 2 ^ (fd.pitch * i)) 0))).raiseAt (s.writeback g.die 4)
          (orFlags ((lanesOf c.lanes).map (fun l => orFlags ((upto 0 n).map (fun i => (conv l i).2))))))

def execQnt4 (f : BitVec 3) (b a d : BitVec 7) (s : State) : Out := quantize 4 0 f.toNat b.toNat a.toNat d.toNat s
def execQnt8 (f : BitVec 3) (b a d : BitVec 7) (s : State) : Out := quantize 8 1 f.toNat b.toNat a.toNat d.toNat s

/-- One register of narrow codes to n FP32 registers. -/
def dequantize (n layout f b a q : Nat) (s : State) : Out :=
  atIssue s fun c g =>
    let base := n * q
    let ok := decide (base + n ≤ 96)
    let o : Opnds := { reads := [a, b], dests := if ok then block base n else [], first := relOf a, second := relOf b }
    issueIns s c g o (travelIllegal s g) (failIf (!ok) illegalOperand) (fdFault s g f layout) none fun s =>
      let fd := descOf (s.fd g f)
      let r := c.view g
      let conv := fun l i => widen fd (scaleByte (r.read b l).toNat) fp32 (fd.elem (r.read a l).toNat i)
      s.modGroup c.g (fun x =>
        ((upto 0 n).foldl (fun x i => x.writeCode (base + i) c.lanes (fun l => BitVec.ofNat 32 (conv l i).1)) x).raiseAt (s.writeback g.die 4)
          (orFlags ((lanesOf c.lanes).map (fun l => orFlags ((upto 0 n).map (fun i => (conv l i).2))))))

def execDqnt4 (f : BitVec 3) (b a : BitVec 7) (q : BitVec 5) (s : State) : Out := dequantize 4 0 f.toNat b.toNat a.toNat q.toNat s
def execDqnt8 (f : BitVec 3) (b a : BitVec 7) (q : BitVec 5) (s : State) : Out := dequantize 8 1 f.toNat b.toNat a.toNat q.toNat s

/-! ### AMAX (R153) -/

/-- The greater of two magnitudes given as FP32 bits without sign; a NaN wins. -/
def maxMagnitude (l : List Nat) : Nat :=
  if l.any (fun x => decide (x > 0x7F800000)) then 0x7FC00000 else l.foldl max 0

def execAmax (g : BitVec 3) (sl l : BitVec 2) (a d : BitVec 7) (s : State) : Out :=
  let n := 2 ^ l.toNat
  let w := if sl = 0 then 1 else 4 * 2 ^ sl.toNat
  let ok := decide (n = 1) || decide (a.toNat % n = 0 ∧ a.toNat + n ≤ 96)
  let codes := if ok then block a.toNat n else [a.toNat]
  atIssue s fun c gr =>
    let o : Opnds := { reads := codes, preds := [g.toNat], dests := [d.toNat], first := codes.filter (fun r => decide (r < 96))
                       bases := baseOf codes, guard := g.toNat }
    issueIns s c gr o none (failIf (!ok) illegalOperand) none none fun s =>
      let m := guardLanes c gr g.toNat
      let r := c.view gr
      let own := fun k => maxMagnitude ((upto 0 n).map (fun i => (r.read (a.toNat + i) k).toNat % 2 ^ 31))
      s.modGroup c.g (fun x => x.writeResult d.toNat m (fun k =>
        BitVec.ofNat 32 (maxMagnitude (((lanesOf m).filter (fun j => decide (j / w = k / w))).map own))))

end Sys2Proof.Machine
end

