-- ==== Sys2Proof/Machine/Scalar.lean ====
section
/-!
DEFINITION. Format descriptors (R157, R158), scalar instructions (R159 to R163) and special registers (R126, R164).
-/
namespace Sys2Proof.Machine

def execFdset (f : BitVec 3) (sl : BitVec 6) (s : State) : Out :=
  atIssue s fun c g =>
    let x := (c.view g).scalar sl.toNat
    issueIns s c g { scalars := [sl.toNat] } (travelIllegal s g) none
      (failIf (!descValid x) { cls := .format, aux := x.toNat }) none fun s =>
      s.modTeam g.team (fun t => { t with fds := Map.set t.fds 0 f.toNat x })

/-- An instruction whose only result is a scalar. -/
def scalarOp (o : Opnds) (d : Nat) (early mid : Option FaultInfo) (f : State → Issue → Group → Regs → Word) (s : State) : Out :=
  atIssue s fun c g =>
    issueIns s c g o early mid none none fun s =>
      let x := f s c g (c.view g)
      s.modGroup c.g (fun y => y.writeScalar d x)

def execFdget (f : BitVec 3) (d : BitVec 6) (s : State) : Out :=
  atIssue s fun c g =>
    issueIns s c g {} (travelIllegal s g) none none none fun s =>
      let x := s.fd g f.toNat
      s.modGroup c.g (fun y => y.writeScalar d.toNat x)

/-! ### SALU and the scalar immediates (R160, R161) -/

def salu (b a d : Nat) (f : Word → Word → Word) (s : State) : Out :=
  scalarOp { scalars := [a, b] } d none none (fun _ _ _ r => f (r.scalar a) (r.scalar b)) s

def execSadd (b a d : BitVec 6) (s : State) : Out := salu b.toNat a.toNat d.toNat (fun x y => x + y) s
def execSsub (b a d : BitVec 6) (s : State) : Out := salu b.toNat a.toNat d.toNat (fun x y => x - y) s
def execSmul (b a d : BitVec 6) (s : State) : Out := salu b.toNat a.toNat d.toNat (fun x y => x * y) s
def execSmulhn (b a d : BitVec 6) (s : State) : Out := salu b.toNat a.toNat d.toNat mulHighUnsigned s
def execSand (b a d : BitVec 6) (s : State) : Out := salu b.toNat a.toNat d.toNat (fun x y => x &&& y) s
def execSor (b a d : BitVec 6) (s : State) : Out := salu b.toNat a.toNat d.toNat (fun x y => x ||| y) s
def execSxor (b a d : BitVec 6) (s : State) : Out := salu b.toNat a.toNat d.toNat (fun x y => x ^^^ y) s
def execSshl (b a d : BitVec 6) (s : State) : Out := salu b.toNat a.toNat d.toNat shiftLeft s
def execSshrl (b a d : BitVec 6) (s : State) : Out := salu b.toNat a.toNat d.toNat shiftRight s
def execSshra (b a d : BitVec 6) (s : State) : Out := salu b.toNat a.toNat d.toNat shiftRightArith s
def execSmins (b a d : BitVec 6) (s : State) : Out := salu b.toNat a.toNat d.toNat (fun x y => if x.toInt ≤ y.toInt then x else y) s
def execSmaxs (b a d : BitVec 6) (s : State) : Out := salu b.toNat a.toNat d.toNat (fun x y => if x.toInt ≤ y.toInt then y else x) s
def execSminn (b a d : BitVec 6) (s : State) : Out := salu b.toNat a.toNat d.toNat (fun x y => if x.toNat ≤ y.toNat then x else y) s
def execSmaxn (b a d : BitVec 6) (s : State) : Out := salu b.toNat a.toNat d.toNat (fun x y => if x.toNat ≤ y.toNat then y else x) s
def execSmov (a d : BitVec 6) (s : State) : Out := scalarOp { scalars := [a.toNat] } d.toNat none none (fun _ _ _ r => r.scalar a.toNat) s

def execSaddi (im : BitVec 18) (d : BitVec 6) (s : State) : Out :=
  scalarOp { scalars := [d.toNat] } d.toNat none none (fun _ _ _ r => r.scalar d.toNat + im.signExtend 32) s
def execSlit (im : BitVec 18) (d : BitVec 6) (s : State) : Out := scalarOp {} d.toNat none none (fun _ _ _ _ => im.signExtend 32) s
def execShi (im : BitVec 14) (d : BitVec 6) (s : State) : Out :=
  scalarOp { scalars := [d.toNat] } d.toNat none none (fun _ _ _ r => im ++ (r.scalar d.toNat).extractLsb' 0 18) s

/-- SCMP (R162): the same bit into the predicate of every active lane. -/
def execScmp (n : BitVec 1) (c : BitVec 3) (b a : BitVec 6) (p : BitVec 3) (s : State) : Out :=
  atIssue s fun is g =>
    issueIns s is g { scalars := [a.toNat, b.toNat] } (failIf (decide (c.toNat ≥ 6)) illegal) none none none fun s =>
      let x := (is.view g).scalar a.toNat
      let y := (is.view g).scalar b.toNat
      let t := if n = 1 then intCond c.toNat x.toNat y.toNat else intCond c.toNat x.toInt y.toInt
      s.modGroup is.g (fun z => z.writePred p.toNat is.lanes (if t then 0xFFFFFFFF else 0))

/-! ### V2S (R163) -/

def execV2sFirst (a : BitVec 7) (d : BitVec 6) (s : State) : Out :=
  atIssue s fun c g =>
    let l := lowLane c.lanes
    issueIns s c g { readsAt := [(a.toNat, laneBit l)], first := relOf a.toNat } none none none none fun s =>
      let x := (c.view g).read a.toNat l
      s.modGroup c.g (fun y => y.writeScalar d.toNat x)

def execV2sLane (k : BitVec 5) (a : BitVec 7) (d : BitVec 6) (s : State) : Out :=
  atIssue s fun c g =>
    issueIns s c g { readsAt := [(a.toNat, laneBit k.toNat)], first := relOf a.toNat } none
      (failIf (decide (a.toNat = 104)) illegalOperand) none none fun s =>
      let x := (c.view g).read a.toNat k.toNat
      s.modGroup c.g (fun y => y.writeScalar d.toNat x)

/-! ### Special registers (R126, R164) -/

/-- The value of special register n for the issuing path. -/
def State.special (s : State) (c : Issue) (g : Group) (n : Nat) : Word :=
  let t := s.teamAt g.team
  let travel := s.inTravel g
  match n with
  | 0 => BitVec.ofNat 32 (c.head g).tid
  | 1 => BitVec.ofNat 32 (lowLane c.lanes)
  | 2 => BitVec.ofNat 32 ((if travel then g.slot else g.gidx) % 1024)
  | 3 => if travel then 0 else BitVec.ofNat 32 (t.index % 65536)
  | 4 => if travel then 0 else BitVec.ofNat 32 ((s.plotAt t.plot).index % 65536 * 16 + t.member % 16)
  | 5 => BitVec.ofNat 32 (g.core % 32)
  | 6 => BitVec.ofNat 32 (s.module % 8192 * 8 + g.die % 8)
  | 7 => BitVec.ofNat 32 (g.held % 128)
  | 8 => g.flagsNow.zeroExtend 32
  | 9 => BitVec.ofNat 32 (g.rmode % 8)
  | _ => BitVec.ofNat 32 ((s.ctxAt (ctxKey g.die g.ctx)).domain * 65536 + g.ctx % 65536)

def execSsr (n d : BitVec 6) (s : State) : Out :=
  scalarOp {} d.toNat (failIf (decide (n.toNat > 10)) illegal) none (fun s c g _ => s.special c g n.toNat) s

/-- SSW: %fflags or %rmode from a scalar. The raises that are still to be written back are ORed into what is written (R53). -/
def execSsw (n sl : BitVec 6) (s : State) : Out :=
  atIssue s fun c g =>
    let x := (c.view g).scalar sl.toNat
    issueIns s c g { scalars := [sl.toNat] } (failIf (decide (n.toNat ≠ 8 ∧ n.toNat ≠ 9)) illegal)
      none (failIf (decide (n.toNat = 9 ∧ x.toNat % 8 ≥ 5)) illegalOperand) none fun s =>
      s.modGroup c.g (fun y =>
        if n.toNat = 8 then { y with fflags := x.extractLsb' 0 6 } else { y with rmode := x.toNat % 8 })

def execSset (sl : BitVec 6) (s : State) : Out :=
  atIssue s fun c g =>
    issueIns s c g { scalars := [sl.toNat] } none none none none fun s =>
      let x := ((c.view g).scalar sl.toNat).extractLsb' 0 6
      s.modGroup c.g (fun y => { y with fflags := y.fflags ||| x })

def execSclr (sl : BitVec 6) (s : State) : Out :=
  atIssue s fun c g =>
    issueIns s c g { scalars := [sl.toNat] } none none none none fun s =>
      let x := ((c.view g).scalar sl.toNat).extractLsb' 0 6
      s.modGroup c.g (fun y => { y with fflags := y.fflags &&& ~~~ x })

end Sys2Proof.Machine
end

