-- ==== Sys2Proof/Machine/Space.lean ====
section
/-!
DEFINITION. The memories behind their addresses: team-memory and scratchpad addresses (R96, R99), tiles (R168), virtual
addresses and the TLBs (R66 to R69), the range scoreboard (R84), writes with their counts and records, and spill stacks (R292).
-/
namespace Sys2Proof.Machine

/-! ### Team-memory addresses (R96) -/

/-- Where a team-memory address leads: a team, the offset in its region, and whether it goes through the plot window. -/
structure TeamRef where
  team : Nat
  off : Nat
  window : Bool
  deriving DecidableEq, Repr

/-- The team, offset and way of an access of n bytes at a 32-bit team-memory address; none is the team-memory address fault. -/
def State.teamRef (s : State) (g : Group) (a n : Nat) : Option TeamRef :=
  let own := s.teamAt g.team
  let p := s.plotAt own.plot
  let win := decide (a / 2 ^ 31 % 2 = 1)
  let m := a / 2 ^ 21 % 16
  let off := a % 2 ^ 21
  if a / 2 ^ 25 % 64 ≠ 0 then none
  else if !win ∧ m ≠ 0 then none
  else if win ∧ (m ≥ p.w * p.h ∨ s.inTravel g) then none
  else
    let t := if win ∧ m ≠ own.member then p.teams.getD m g.team else g.team
    if off + n > (s.teamAt t).size then none
    else some ⟨t, off, decide (win ∧ m ≠ own.member)⟩

/-- The memory key of an offset in a team's region. -/
def State.teamByte (s : State) (t off : Nat) : Nat :=
  let x := s.teamAt t
  teamKey (coreKey x.die x.core) (x.base + off)

/-- The key of n bytes at a local team-memory address. -/
def State.localTeam (s : State) (g : Group) (a n : Nat) : Option Nat :=
  match s.teamRef g a n with
  | some r => if r.window ∨ a / 2 ^ 31 % 2 = 1 then none else some (s.teamByte r.team r.off)
  | none => none

/-! ### Scratchpad addresses (R99) -/

/-- The key of n bytes at a partition-relative address; none is the out-of-partition fault. -/
def State.scratchAddr (s : State) (g : Group) (a n : Nat) : Option Nat :=
  let c := s.ctxAt (ctxKey g.die g.ctx)
  if a + n > c.scratchSize * 2 ^ 20 then none else some (scratchKey g.die (c.scratchBase * 2 ^ 20 + a))

/-- The die-wide line of a scratchpad key. -/
def lineOf (key : Nat) : Nat := key % 2 ^ 27 / 128

/-! ### Cells and their ECC (R136) -/

def keyRange (k n : Nat) (e : Space × Nat) (sp : Space) : Bool := decide (e.1 = sp ∧ k ≤ e.2 ∧ e.2 < k + n)

/-- The uncorrectable cell among n cells, if any. -/
def State.badCell (s : State) (sp : Space) (k n : Nat) : Option Nat := (s.bad.find? (fun e => keyRange k n e sp)).map (·.2)

/-- Sub code of R303 for an uncorrectable cell of a space. -/
def eccSub : Space → Nat
  | .tile => 0
  | .team => 1
  | .scratch => 2
  | .slot => 3
  | .hbm => 4

/-- The location's address in its space, as the record gives it. -/
def eccAddr (sp : Space) (k : Nat) : Nat :=
  match sp with
  | .tile => k % 2 ^ 19
  | .team => k % 2 ^ 21
  | .scratch => k % 2 ^ 27
  | .slot => k % 2 ^ 23
  | .hbm => k % 2 ^ 37

/-- Reports an uncorrectable cell that an instruction of group k has read (R136, R305). -/
def State.reportEcc (s : State) (k : Nat) (i : InsInfo) (sp : Space) (key n : Nat) : State :=
  match s.badCell sp key n with
  | some b => s.raiseAsync k { cls := .uncorrectableEcc, sub := eccSub sp, addr := eccAddr sp b, lanes := i.lanes } i
  | none => s

def State.clearBad (s : State) (sp : Space) (k n : Nat) : State :=
  if s.bad = [] then s else { s with bad := s.bad.filter (fun e => !keyRange k n e sp) }

/-- Writes bytes into a memory; the cells written carry good ECC again. -/
def State.store (s : State) (sp : Space) (key : Nat) (l : List Byte) : State :=
  (s.setMem sp (writeBytes (s.memOf sp) key l)).clearBad sp key l.length

def State.load (s : State) (sp : Space) (key n : Nat) : Nat := readNat (s.memOf sp) key n

/-! ### Tiles (R124, R168) -/

def tileKey (team tile row col : Nat) : Nat := team * 2 ^ 19 + tile * 8192 + row * 128 + col

def State.tile (s : State) (k : Nat) : Word := Map.get s.tiles 0 k
def State.setTile (s : State) (k : Nat) (x : Word) : State := { s with tiles := Map.set s.tiles 0 k x }.clearBad .tile k 1

/-- Element k of a tile slice (R35): row and column. -/
def sliceAt (column : Bool) (i k : Nat) : Nat × Nat :=
  if column then (32 * (i % 2) + k, i / 2) else (i / 4, 32 * (i % 4) + k)

/-! ### Counted writes and their records (R190, R201) -/

/-- Lists a write record. -/
def State.addWrec (s : State) (r : WRec) : Nat × State :=
  let (n, s) := s.newId
  (n, { s with wrecs := Map.put s.wrecs n r })

/-- A write record of an instruction of group k, its count still open. -/
def wrecOf (k : Nat) (g : Group) (lanes : Lanes) (core home : Nat) (count : Option Nat) : WRec :=
  { groups := [k], lanes := lanes, team := g.team, grid := g.grid, die := g.die, core := core, home := home, count := count }

/-- The writes of the hardware that wait at a home (R190). -/
def Die.waitingWrites (d : Die) (h : Nat) : Nat := (d.writeWait.filter (fun e => decide (e.1 = h))).length

/-- Whether a home has room to give n further counts (R190). -/
def State.homeRoom (s : State) (die h n : Nat) : Bool :=
  let d := s.die die
  decide (d.givenOf h + d.waitingWrites h + n < d.tableOf h + Config.lead)

/-- Performs one counted write to the team memory of a core. -/
def State.teamWrite (s : State) (die core key : Nat) (l : List Byte) : Nat × State :=
  (s.store .team key l).countWrite die (coreHome core)

/-- Whether the HBM controllers have room for the counts of n further writes (R190). -/
def State.spillRoom (s : State) (die n : Nat) : Bool := s.homeRoom die 24 n && s.homeRoom die 25 n

/-- A write of the hardware's own arrives at an HBM home: it is performed and counted, or waits there, behind those that wait, while its
count would be too far ahead (R190). -/
def State.homeWrite (s : State) (die h key : Nat) (l : List Byte) : State :=
  if s.homeRoom die h 1 then ((s.store .hbm key l).countWrite die h).2
  else s.modDie die (fun d => { d with writeWait := d.writeWait ++ [(h, key, l)] })

/-- A write to HBM that hardware makes for itself, of which no witness and no drain speaks: a register or return-address spill, a regroup,
a queue's spill or a context save (log 101). -/
def State.hbmQuiet (s : State) (die pa : Nat) (l : List Byte) : State := s.homeWrite die (hbmHome pa) (hbmKey die pa) l

/-- A window has advanced: the writes that wait arrive again, in their order. -/
def State.giveWaiting (s : State) (die : Nat) : State :=
  (s.die die).writeWait.foldl (fun s e => s.homeWrite die e.1 e.2.1 e.2.2) (s.modDie die (fun d => { d with writeWait := [] }))

/-- HBM as a read of the hardware finds it that arrives behind the writes which wait at its home. -/
def State.hbmArrived (s : State) (die : Nat) : Map Byte := (s.die die).writeWait.foldl (fun m e => writeBytes m e.2.1 e.2.2) s.hbm

/-- Performs one counted write to HBM: one count for each 128-byte block (R75). -/
def State.hbmWriteBlock (s : State) (die pa : Nat) (l : List Byte) : Nat × State :=
  (s.store .hbm (hbmKey die pa) l).countWrite die (hbmHome pa)

/-! ### The range scoreboard (R84, R85) -/

/-- Whether an access of a core to [lo, hi) of a space overlaps an entry that stalls it; the entries of a saved context are in its area
(R77). -/
def State.rangeHit (s : State) (die core : Nat) (sp : Space) (lo hi : Nat) (write : Bool) : Bool :=
  s.cmds.any (fun e =>
    decide (e.2.die = die ∧ e.2.core = core) && !s.ctxSaved die e.2.ctx &&
    e.2.range.any (fun (p, a, b, w) => decide (p = sp ∧ lo < b ∧ a < hi) && (w || write)))

def rangeStall (s : State) (g : Group) (sp : Space) (lo n : Nat) (write : Bool) : Option Stall :=
  if s.rangeHit g.die g.core sp lo (lo + n) write then some (.rangeEntry lo (lo + n) sp write) else none

/-! ### The order of a core's accesses to team memory (R98) -/

/-- Whether a QDEQ of the memory form takes its turn among its core's accesses: from its issue until its delivery. DEDUCED (log 91): one
that has claimed nothing when its context is halted stays at its home, and holds back none of the accesses that R309 has complete. -/
def State.takesTurn (s : State) (o : QOp) : Bool := decide (o.kind = .qdeq ∧ o.form = 2) && (o.delivering || s.ctxRuns o.die o.ctx)

/-- Whether the accesses that a core issued before number `before` to a core's team memory, its own or through the window, have been
performed or sent, so that the next may be (R98). The accesses of other contexts are other teams'. -/
def State.turnFree (s : State) (die core ctx target before : Nat) : Bool :=
  !s.memOps.any (fun e => decide (e.1 < before ∧ e.2.die = die ∧ e.2.core = core ∧ e.2.space = .team ∧ (s.teamAt e.2.team).ctx = ctx) &&
    e.2.lanes.any (fun a => decide (a.st = .waitWitness ∧ a.addr / 2 ^ 21 = target))) &&
  (decide (target ≠ coreKey die core) ||
    !s.qops.any (fun e => decide (e.1 < before ∧ e.2.die = die ∧ e.2.core = core ∧ e.2.ctx = ctx) && s.takesTurn e.2))

/-- Whether a write to [lo, hi) of the own team memory would come before an earlier RDCE of the core has read its index list there, which
no range entry covers (R84, R90, R98). -/
def State.listAhead (s : State) (die core before lo hi : Nat) : Bool :=
  s.cmds.any (fun e => decide (e.1 < before ∧ e.2.die = die ∧ e.2.core = core ∧ e.2.kind = .rdce ∧ e.2.space = .team ∧
      (e.2.stage = .queued ∨ e.2.stage = .suspended)) &&
    decide (lo < s.teamByte e.2.team e.2.index + 4 * e.2.rows ∧ s.teamByte e.2.team e.2.index < hi))

/-- The interlock of an instruction that accesses its core's team memory as it issues, while an earlier access has still to be
performed (R98). -/
def State.turnStall (s : State) (g : Group) : Option Stall :=
  if s.turnFree g.die g.core g.ctx (coreKey g.die g.core) s.fresh then none else some .teamOrder

/-- The same for one that writes [lo, lo + n) there. -/
def State.turnStallAt (s : State) (g : Group) (lo n : Nat) : Option Stall :=
  if s.listAhead g.die g.core s.fresh lo (lo + n) then some .teamOrder else s.turnStall g

/-! ### Virtual addresses (R66 to R69) -/

/-- What a translation is for (R65, R68); `any`: an access of the control node or the launch unit for which no permission is named. -/
inductive Need where
  | read
  | write
  | code
  | system
  | any
  deriving DecidableEq, Repr

/-- The outcome of a translation (R68). -/
inductive Xlat where
  | ok (pa : Nat)
  | missing
  | prot
  deriving DecidableEq, Repr

/-- Low bit and index width of each level's index, and the alignment of the table below (R66). -/
def walkLevels : List (Nat × Nat × Nat) := [(39, 9, 4096), (30, 9, 4096), (21, 9, 256), (16, 5, 1)]

def pteAddr (p : BitVec 64) : Nat := (p.extractLsb' 8 29).toNat * 256

/-- What a page-table entry is, by the conditions of R68. -/
inductive PteKind where
  | absent
  | bad
  | page
  | table
  deriving DecidableEq, Repr

/-- An entry of the level whose index starts at bit lo, above tables aligned to `below` (R66 to R68). -/
def pteKind (lo below : Nat) (e : BitVec 64) : PteKind :=
  if !e.getLsbD 0 then .absent
  else if e.extractLsb' 37 27 ≠ 0 ∨ e.getLsbD 7 ∨ e.getLsbD 2 then .bad
  else if e.getLsbD 1 then (if lo = 39 ∨ pteAddr e % 2 ^ lo ≠ 0 then .bad else .page)
  else if lo = 16 ∨ pteAddr e % below ≠ 0 then .bad
  else .table

/-- The i-th entry of a table. -/
def State.pteAt (s : State) (die table i : Nat) : BitVec 64 := BitVec.ofNat 64 (s.load .hbm (hbmKey die (table + 8 * i)) 8)

/-- Whether a physical address lies in the region that a die reserves for its dump, 64 MiB that no context reaches (R325). DEDUCED (log 110):
an address that translates into it ends as a protection fault. -/
def State.inDump (s : State) (die pa : Nat) : Bool := decide (pa / 2 ^ 26 = (s.die die).dump)

/-- Walks the tables from a table's address: the entry that maps the page, and the page's size. -/
def walk (s : State) (die va : Nat) : List (Nat × Nat × Nat) → Nat → Option (BitVec 64 × Nat) ⊕ Unit
  | [], _ => .inr ()
  | (lo, n, below) :: l, table =>
    let e := s.pteAt die table (va / 2 ^ lo % 2 ^ n)
    match pteKind lo below e with
    | .absent => .inl none
    | .bad => .inr ()
    | .page => if s.inDump die (pteAddr e + va % 2 ^ lo) then .inr () else .inl (some (e, 2 ^ lo))
    | .table => walk s die va l (pteAddr e)

/-- Walks the tables of a context on a die: the entry that maps a page, and the page's size. No context, or a root that is no 4 KiB
aligned address of the die's HBM, maps nothing: every walk ends as a protection fault (log 83). -/
def State.walkCtx (s : State) (die ctx va : Nat) : Option (BitVec 64 × Nat) ⊕ Unit :=
  match Map.find s.contexts (ctxKey die ctx) with
  | none => .inr ()
  | some c => if c.root % 4096 ≠ 0 ∨ c.root ≥ 2 ^ 37 then .inr () else walk s die va walkLevels c.root

/-- Whether a page may be used so. -/
def pteAllows (n : Need) (p : BitVec 64) : Bool :=
  match n with
  | .read => p.getLsbD 3 && !p.getLsbD 6
  | .write => p.getLsbD 4 && !p.getLsbD 6
  | .code => p.getLsbD 5
  | .system => p.getLsbD 6
  | .any => true

def TlbEntry.hit (e : TlbEntry) (ctx va : Nat) : Bool := decide (e.ctx = ctx ∧ e.base ≤ va ∧ va < e.base + e.size)

def pushTlb (cap : Nat) (e : TlbEntry) (l : List TlbEntry) : List TlbEntry := (e :: l).take cap

/-- The page that maps a virtual address of a context, from the core's TLB, the die's, or a walk that fills both. -/
def State.page (s : State) (ck die ctx va : Nat) : (Option TlbEntry ⊕ Unit) × State :=
  match (s.coreAt ck).tlb.find? (fun e => e.hit ctx va) with
  | some e => (.inl (some e), s)
  | none =>
    match (s.die die).tlb.find? (fun e => e.hit ctx va) with
    | some e => (.inl (some e), s.modCore ck (fun c => { c with tlb := pushTlb 512 e c.tlb }))
    | none =>
      match s.walkCtx die ctx va with
      | .inl (some (p, n)) =>
        let e : TlbEntry := { ctx := ctx, base := va / n * n, size := n, pte := p }
        (.inl (some e), (s.modCore ck (fun c => { c with tlb := pushTlb 512 e c.tlb })).modDie die
          (fun d => { d with tlb := pushTlb 16384 e d.tlb }))
      | .inl none => (.inl none, s)
      | .inr () => (.inr (), s)

/-- Translates a virtual address of a context on a core (R68). -/
def State.translate (s : State) (ck die ctx va : Nat) (need : Need) : Xlat × State :=
  match s.page ck die ctx va with
  | (.inl none, s) => (.missing, s)
  | (.inr (), s) => (.prot, s)
  | (.inl (some e), s) =>
    let pa := pteAddr e.pte + (va - e.base)
    (if pteAllows need e.pte && !s.inDump die pa then .ok pa else .prot, s)

/-- Reads bytes of HBM by virtual address, byte by byte, through one kind of access; none where some byte does not
translate. -/
def State.readVirtual (s : State) (die ctx va n : Nat) (need : Need) : Option (List Byte) :=
  (upto 0 n).foldl (fun acc i =>
    match acc, s.walkCtx die ctx (va + i) with
    | some l, .inl (some (p, sz)) =>
      if pteAllows need p then some (l ++ [Map.get s.hbm 0 (hbmKey die (pteAddr p + (va + i) % sz))]) else none
    | _, _ => none) (some [])

/-! ### Spill stacks (R118, R292) -/

/-- The virtual base of a group's spill stack. -/
def State.spillBase (s : State) (g : Group) : Nat :=
  let x := s.gridAt g.grid
  let i := if x.travel then 1024 * g.core + g.slot else x.teamGroups * (s.teamAt g.team).index + g.gidx
  x.spillBase + 4096 * x.stride * i

/-- The hardware register area follows the explicit slots; the return-address area follows both. -/
def State.registerArea (s : State) (g : Group) : Nat := s.spillBase g + 128 * (s.gridAt g.grid).slots

/-- Where thread tid in lane l keeps entry i of its return-address area. -/
def State.returnEntry (s : State) (g : Group) (l tid i : Nat) : Nat :=
  let x := s.gridAt g.grid
  if x.travel then x.spillBase + 4096 * x.stride * 24576 + 8 * x.depth * tid + 8 * i
  else s.registerArea g + (if g.ceil > g.floor then 12288 else 0) + 8 * x.depth * l + 8 * i

/-- A hardware write to the spill stack of a context on a core; a page that system software left unmapped takes nothing. -/
def State.spillWrite (s : State) (g : Group) (va : Nat) (l : List Byte) : State :=
  match s.translate (coreKey g.die g.core) g.die g.ctx va .system with
  | (.ok pa, s) => s.hbmQuiet g.die pa l
  | (_, s) => s

/-- A hardware read from the spill stack; a page that system software left unmapped reads as free values. -/
def State.spillRead (s : State) (g : Group) (va n : Nat) : Nat × State :=
  match s.translate (coreKey g.die g.core) g.die g.ctx va .system with
  | (.ok pa, s) => (readNat (s.hbmArrived g.die) (hbmKey g.die pa) n, s)
  | (_, s) => (Config.unmapped s.draws % 256 ^ n, { s with draws := s.draws + 1 })

/-- Reads a group's spilled registers back (R131). -/
def State.refillRegs (s : State) (k : Nat) : State :=
  let g := s.groupAt k
  let s := ((upto 0 96).filter (fun n => g.regs.spilled.getLsbD n)).foldl (fun s n =>
    let (x, s) := s.spillRead g (s.registerArea g + 128 * n) 128
    s.modGroup k (fun y => { y with regs := { y.regs with
      v := (upto 0 32).foldl (fun v l => Map.set v 0 (n * 32 + l) (BitVec.ofNat 32 (x / 2 ^ (32 * l)))) y.regs.v
      vmap := y.regs.vmap ||| (1#96 <<< n) } })) s
  s.modGroup k (fun y => { y with regs := { y.regs with spilled := 0 } })

end Sys2Proof.Machine
end

