-- ==== Sys2Proof/Machine/Matrix.lean ====
section
/-!
DEFINITION. The matrix unit (R165 to R187): the exact-sum rule, MMA with its latch and yokes, TMOV and the TILE family.
-/
namespace Sys2Proof.Machine

/-! ### Operand classes and blocks (R165 to R168) -/

/-- K of a class. -/
def MClass.depth : MClass → Nat
  | .byte => 32
  | .nibble => 64
  | _ => 16

/-- The value of an element code, under its descriptor where the class is narrow. -/
def MClass.value (m : MClass) (d : Desc) (x : Nat) : FVal :=
  match m with
  | .byte | .nibble => d.value x
  | .f16 => Machine.fp16.value x
  | .bf16 => Machine.bf16.value x

/-- The n bytes of a register in lane order, four to a lane. -/
def Regs.bytes (r : Regs) (code : Nat) : List Byte :=
  (upto 0 32).flatMap (fun l => bytesOf 4 (r.read code l).toNat)

/-- Element k of a row of 32 bytes (R166). -/
def rowElem (m : MClass) (row : List Byte) (k : Nat) : Nat :=
  match m with
  | .byte => (row.getD k 0).toNat
  | .nibble => (row.getD (k / 2) 0).toNat / 16 ^ (k % 2) % 16
  | _ => (row.getD (2 * k) 0).toNat + 256 * (row.getD (2 * k + 1) 0).toNat

/-- Element (k, j) of a B block given by its 32 storage rows of 128 bytes (R167). -/
def colElem (m : MClass) (rows : List (List Byte)) (k j : Nat) : Nat :=
  let at_ := fun r b => ((rows.getD r []).getD b 0).toNat
  match m with
  | .byte => at_ k j
  | .nibble => at_ (k / 2) j / 16 ^ (k % 2) % 16
  | _ => at_ (2 * k + j / 64) (2 * (j % 64)) + 256 * at_ (2 * k + j / 64) (2 * (j % 64) + 1)

/-- A list cut into pieces of n. -/
def chunks {α : Type} (n : Nat) : Nat → List α → List (List α)
  | 0, _ => []
  | fuel + 1, l => if l.isEmpty then [] else l.take n :: chunks n fuel (l.drop n)

/-! ### The exact-sum rule (R171) -/

/-- What the terms of one element have come to. -/
structure MmaAcc where
  bad : Bool := false
  inv : Bool := false
  pos : Bool := false
  neg : Bool := false
  sum : Dyadic := ⟨0, 0⟩
  deriving DecidableEq, Repr

/-- Adds the product of a and x under the scales ea and eb; a scale of -128 is the NaN scale. -/
def MmaAcc.term (t : MmaAcc) (ea eb : Int) (a x : FVal) : MmaAcc :=
  if a.isNan ∨ x.isNan ∨ ea = -128 ∨ eb = -128 then { t with bad := true, inv := t.inv || a.isSnan || x.isSnan }
  else
    match a, x with
    | .fin s m e, .fin s' m' e' =>
      if m * m' = 0 then t else { t with sum := t.sum.add (dyadicOf (s != s') (m * m') (e + e' + ea + eb)) }
    | _, _ =>
      match a.mul x with
      | (.inf s, _) => { t with pos := t.pos || !s, neg := t.neg || s }
      | _ => { t with bad := true, inv := true }

/-- The new value of an element of D and its flags. -/
def MmaAcc.finish (t : MmaAcc) (d : Word) : Word × FFlags :=
  let v := fp32.value d.toNat
  let bad := t.bad || v.isNan
  let inv := t.inv || v.isSnan
  let pos := t.pos || decide (v = .inf false)
  let neg := t.neg || decide (v = .inf true)
  let clash := !bad && pos && neg
  let fl : FFlags := if inv || clash then flagIV else 0
  if bad || clash then (0x7FC00000, fl)
  else if pos then (0x7F800000, fl)
  else if neg then (0xFF800000, fl)
  else if t.sum.n = 0 then (d, fl)
  else
    match v with
    | .fin s m e =>
      let x := (dyadicOf s m e).add t.sum
      if x.n = 0 then (0, fl)
      else
        let r := fp32.roundDyadic .rne x
        (BitVec.ofNat 32 r.1, fl ||| r.2)
    | _ => (d, fl)

/-- One element: a row of A against a column of B, both as values with the scale of each 32-element block. -/
def mmaElem (a b : List (FVal × Int)) (d : Word) : Word × FFlags :=
  ((a.zip b).foldl (fun t p => t.term p.1.2 p.2.2 p.1.1 p.2.1) ({} : MmaAcc)).finish d

/-- The entries of a tile. -/
def State.tileEntries (s : State) (team tile : Nat) : Map Word :=
  s.tiles.filter (fun e => decide (tileKey team tile 0 0 ≤ e.1 ∧ e.1 < tileKey team tile 0 0 + 8192))

/-- Replaces a whole tile by the words of a list in row order. -/
def State.setTileAll (s : State) (team tile : Nat) (l : List Word) : State :=
  let lo := tileKey team tile 0 0
  let fresh := ((upto 0 8192).zip l).filterMap (fun e => if e.2 = 0 then none else some (lo + e.1, e.2))
  { s with tiles := Map.keep s.tiles (fun k => decide (k < lo)) ++ fresh ++ Map.keep s.tiles (fun k => decide (lo + 8192 ≤ k)) }.clearBad
    .tile lo 8192

/-- One array's part of an MMA: 64 rows of A against 128 columns of B into a tile. -/
def State.mmaTile (s : State) (team tile : Nat) (a b : List (List (FVal × Int))) : State × FFlags :=
  let old := s.tileEntries team tile
  let l := (upto 0 64).flatMap (fun i =>
    let row := a.getD i []
    ((upto 0 128).zip b).map (fun e => mmaElem row e.2 (Map.get old 0 (tileKey team tile i e.1))))
  (s.setTileAll team tile (l.map (·.1)), orFlags (l.map (·.2)))

/-- The rows of A with the scale of each element's block. -/
def mmaRows (m : MClass) (d : Desc) (a : List Byte) (sc : Option (List Byte)) : List (List (FVal × Int)) :=
  ((upto 0 64).zip (chunks 32 64 a)).map (fun e =>
    (upto 0 m.depth).map (fun k =>
      (m.value d (rowElem m e.2 k), match sc with
        | some l => scaleByte (l.getD (64 * (k / 32) + e.1) 0).toNat
        | none => 0)))

/-- The columns of B likewise. -/
def mmaCols (m : MClass) (d : Desc) (b : List Byte) (sc : Option (List Byte)) : List (List (FVal × Int)) :=
  let rows := chunks 128 32 b
  (upto 0 128).map (fun j =>
    (upto 0 m.depth).map (fun k =>
      (m.value d (colElem m rows k j), match sc with
        | some l => scaleByte (l.getD (128 * (k / 32) + j) 0).toNat
        | none => 0)))

/-! ### Yokes (R180, R181) -/

/-- The follower's team, where the core of a group leads a yoke of its plot. -/
def State.follower (s : State) (g : Group) : Option Nat :=
  let t := s.teamAt g.team
  let p := s.plotAt t.plot
  if g.core % 6 % 2 = 0 ∧ t.member % p.w + 1 < p.w then some (p.teams.getD (t.member + 1) 0) else none

/-- Whether an MMA that found the array taken still waits at its place. -/
def MmaWait.stands (w : MmaWait) (s : State) : Bool :=
  match Map.find s.groups w.g with
  | none => false
  | some g =>
    let t := g.thread w.lane
    decide (g.set ≠ .halted ∧ g.set ≠ .ended) && s.ctxRuns g.die g.ctx && t.live && decide (t.park = .none ∧ t.pc = w.pc)

/-- Whether an MMA of a core has waited while 16 yoked MMAs issued: the next yoked one waits for it (R181). -/
def State.yokeBlocked (s : State) (ck : Nat) : Bool := (s.coreAt ck).mmaWait.any (fun w => decide (w.seen ≥ 16) && w.stands s)

/-- Role-violation of a group outside a role in a role-split launch; the record carries the group's role. -/
def roleFault (g : Group) (r : Role) : Option FaultInfo :=
  if g.role = .unified ∨ g.role = r then none
  else some { cls := .roleViolation, sub := match g.role with | .copy => 0 | .matrix => 1 | _ => 2 }

def teamFault (a : Nat) : FaultInfo := { cls := .teamMemoryAddress, addr := a }
def alignFault (a : Nat) : FaultInfo := { cls := .misalignment, addr := a }

/-! ### MMA (R174 to R178) -/

/-- What an MMA names: tile, scalar of B, the class with its descriptors, scaled, yoked, keep, and the A base number. -/
structure MmaArgs where
  tile : Nat
  sb : Nat
  wide : Option MClass
  fdA : Nat := 0
  fdB : Nat := 0
  sc : Bool := false
  yoke : Bool
  keep : Bool
  ab : Nat
  deriving DecidableEq, Repr

/-- The class of an MMA: from its form, or from the layout of A's descriptor. -/
def mmaClass (s : State) (g : Group) (x : MmaArgs) : MClass :=
  match x.wide with
  | some m => m
  | none => if (descOf (s.fd g x.fdA)).layout = 1 then .nibble else .byte

/-- The bytes of the B block with the column scales. -/
def mmaBytes (m : MClass) (sc : Bool) : Nat := 4096 + (if sc then 128 * ((m.depth + 31) / 32) else 0)

/-- R169. -/
def mmaFormat (s : State) (g : Group) (x : MmaArgs) : Option FaultInfo :=
  if x.wide.isSome then none
  else
    let a := s.fd g x.fdA
    let b := s.fd g x.fdB
    let bad := fun d => !descValid d || decide ((descOf d).e = 7)
    if bad a then some { cls := .format, aux := a.toNat }
    else if bad b ∨ (descOf a).layout ≠ (descOf b).layout then some { cls := .format, aux := b.toNat }
    else none

/-- Why the array cannot take the MMA now (R84, R98, R173, R181). A path chosen second found the array free: where the path before it
has taken it in this clock, its MMA stays second in issue order and enters the array when that one lets it (R248). -/
def mmaStall (s : State) (c : Issue) (g : Group) (x : MmaArgs) (n : Nat) : Option Stall :=
  let ck := coreKey g.die g.core
  let clock := (s.die g.die).clock
  let b := ((c.view g).scalar x.sb).toNat
  let busy := fun (k : Core) => !c.second && decide (clock < k.arrayFree)
  let here := rangeStall s g .team (s.teamByte g.team b) n x.yoke <|> s.turnStall g
  if x.yoke then
    match s.follower g with
    | none => none
    | some t =>
      let lo := s.teamByte t b
      here <|> (if s.rangeHit g.die (g.core + 1) .team lo (lo + n) true then some (.followerRange lo (lo + n)) else none) <|>
        (if busy (s.coreAt ck) || busy (s.coreAt (ck + 1)) || s.yokeBlocked (ck + 1) then some .array else none)
  else
    here <|> (if clock < (s.coreAt ck).yokeFree then some .follower else if busy (s.coreAt ck) then some .array else none)

/-- The registers the MMA reads: none where the latch serves A. DESIGN CHOICE (log 90): it reads every lane of the row scales' register
(R176) in every class, also in the byte class, of whose scales only the first 64 bytes count (R170). -/
def mmaReads (g : Group) (x : MmaArgs) : List Nat :=
  if g.latch.isSome then [] else block (16 * x.ab) 16 ++ (if x.sc then [16 * x.ab + 16] else [])

/-- The registers its first-source bit releases (R178). -/
def mmaReleases (g : Group) (x : MmaArgs) : List Nat :=
  if x.keep then []
  else
    match g.latch with
    | none => block (16 * x.ab) 16 ++ (if x.sc then [16 * x.ab + 16] else [])
    | some l => block l.base 16 ++ (if l.scales.isSome then [l.base + 16] else [])

/-- One array's part of an MMA: B, with its scales where A has them, is read from a team's memory at an offset, and the team's tile is
updated (R171, R176, R180). -/
def State.mmaPart (s : State) (k : Nat) (i : InsInfo) (m : MClass) (fdA fdB : Word) (a : List Byte) (sa : Option (List Byte))
    (team tile b : Nat) : State × FFlags :=
  let n := mmaBytes m sa.isSome
  let key := s.teamByte team b
  let bytes := readBytes s.team key n
  ((s.reportEcc k i .tile (tileKey team tile 0 0) 8192).reportEcc k i .team key n).mmaTile team tile (mmaRows m (descOf fdA) a sa)
    (mmaCols m (descOf fdB) (bytes.take 4096) (if sa.isSome then some (bytes.drop 4096) else none))

/-- The A block of an MMA and its row scales, from the latch or from the registers (R176). -/
def mmaBlock (r : Regs) (g : Group) (x : MmaArgs) : List Byte × Option (List Byte) :=
  match g.latch with
  | some l => (l.a, l.scales)
  | none => ((block (16 * x.ab) 16).flatMap r.bytes, if x.sc then some (r.bytes (16 * x.ab + 16)) else none)

/-- R176. The residues of A and its scales were tested as they were read (R177). The follower's part of a yoked MMA falls at the end of the clock, after every access that the follower issues in it (R181) and
every write that enters its visible count in it (R182). -/
def mmaEffect (c : Issue) (g : Group) (x : MmaArgs) (s : State) : State :=
  let r := c.view g
  let m := mmaClass s g x
  let (a, sa) := mmaBlock r g x
  let used := if x.sc then sa else none
  let fdA := s.fd g x.fdA
  let fdB := s.fd g x.fdB
  let b := (r.scalar x.sb).toNat
  let i := insInfo c g
  let ck := coreKey g.die g.core
  let follower := if x.yoke then s.follower g else none
  let start := max (s.die g.die).clock (max (s.coreAt ck).arrayFree (if follower.isSome then (s.coreAt (ck + 1)).arrayFree else 0))
  let (s, fl) := (s.tallyCore ck .mmas 1).mmaPart c.g i m fdA fdB a used g.team x.tile b
  let s := s.modCore ck (fun y => { y with arrayFree := start + 4, mmaWait := y.mmaWait.filter (fun w => !(decide (w.g = c.g) && c.lanes.getLsbD w.lane)) })
  let s : State := match follower with
    | some t =>
      let run : YokeRun := {
        g := c.g, ins := i, team := t, tile := x.tile, cls := m, fdA := fdA, fdB := fdB, a := a, scales := used, b := b, due := start + 10 }
      s.modCore (ck + 1) (fun y => { y with
        arrayFree := start + 4, yokeFree := start + 10, mmaWait := y.mmaWait.map (fun w => { w with seen := w.seen + 1 })
        yokes := y.yokes ++ [run] })
    | none => s
  s.modGroup c.g (fun y => { y.raiseAt (start + 10) fl with
    latch := if x.keep then (match g.latch with | some l => some l | none => some ⟨16 * x.ab, a, sa⟩) else none })

/-- Performs the followers' parts of the yoked MMAs of this clock (R180 to R182). -/
def State.runYokes (s : State) (ck : Nat) : State :=
  (s.coreAt ck).yokes.foldl (fun s y =>
    let (s, fl) := s.mmaPart y.g y.ins y.cls y.fdA y.fdB y.a y.scales y.team y.tile y.b
    s.modGroup y.g (fun g => g.raiseAt y.due fl)) (s.modCore ck (fun c => { c with yokes := [] }))

def mmaOp (x : MmaArgs) (s : State) : Out :=
  atIssue s fun c g =>
    let n := mmaBytes (mmaClass s g x) x.sc
    let b := ((c.view g).scalar x.sb).toNat
    let early := travelIllegal s g <|> roleFault g .matrix <|>
      failIf (decide (x.ab ≥ 6) || (x.yoke && (s.follower g).isNone)) illegal
    let held := match g.latch with
      | some l => decide (l.base ≠ 16 * x.ab) || (x.sc && l.scales.isNone)
      | none => false
    let mid := failIf ((x.sc && decide (x.ab = 5)) || decide (x.tile ≥ (s.teamAt g.team).tiles) || held) illegalOperand
    let late := failIf (s.localTeam g b n).isNone (teamFault b) <|> failIf (decide (b % 128 ≠ 0)) (alignFault b) <|> mmaFormat s g x
    issueIns s c g { whole := mmaReads g x, scalars := [x.sb], first := mmaReleases g x, bases := [(16 * x.ab, 16)], sends := true } early mid late (mmaStall s c g x n)
      (mmaEffect c g x)

def execMma (t : BitVec 6) (sl : BitVec 5) (b a : BitVec 3) (c y r : BitVec 1) (v : BitVec 3) (s : State) : Out :=
  mmaOp { tile := t.toNat, sb := sl.toNat, wide := none, fdA := a.toNat, fdB := b.toNat, sc := c = 1, yoke := y = 1, keep := r = 1, ab := v.toNat } s
def execMmaF16 (t : BitVec 6) (sl : BitVec 5) (y r : BitVec 1) (v : BitVec 3) (s : State) : Out :=
  mmaOp { tile := t.toNat, sb := sl.toNat, wide := some .f16, yoke := y = 1, keep := r = 1, ab := v.toNat } s
def execMmaBf16 (t : BitVec 6) (sl : BitVec 5) (y r : BitVec 1) (v : BitVec 3) (s : State) : Out :=
  mmaOp { tile := t.toNat, sb := sl.toNat, wide := some .bf16, yoke := y = 1, keep := r = 1, ab := v.toNat } s

/-! ### TMOV (R183) -/

/-- The checks of TMOV beyond the travel launch. -/
def tmovMid (s : State) (c : Issue) (g : Group) (t sx im : Nat) : Option FaultInfo :=
  readyFault { scalars := [sx] } c g <|>
  failIf (decide (((c.view g).scalar sx + BitVec.ofNat 32 im).toNat > 255) || decide (t ≥ (s.teamAt g.team).tiles)) illegalOperand

/-- The tile key of a lane's element of the slice. -/
def sliceKey (g : Group) (t : Nat) (column : Bool) (i l : Nat) : Nat :=
  tileKey g.team t (sliceAt column i l).1 (sliceAt column i l).2

def tmov (dir : Bool) (t : BitVec 6) (x : BitVec 1) (sl : BitVec 6) (im v : BitVec 5) (s : State) : Out :=
  atIssue s fun c g =>
    let i := ((c.view g).scalar sl.toNat + im.zeroExtend 32).toNat
    let key := sliceKey g t.toNat (x = 1) i
    let o : Opnds := { scalars := [sl.toNat], reads := if dir then [v.toNat] else [], dests := if dir then [] else [v.toNat],
                       first := if dir then [v.toNat] else [] }
    issueIns s c g o (travelIllegal s g) (tmovMid s c g t.toNat sl.toNat im.toNat) none none fun s =>
      if dir then
        (lanesOf c.lanes).foldl (fun s l => s.setTile (key l) ((c.view g).read v.toNat l)) s
      else
        let s := (lanesOf c.lanes).foldl (fun s l => s.reportEcc c.g (insInfo c g) .tile (key l) 1) s
        s.modGroup c.g (fun y => y.writeResult v.toNat c.lanes (fun l => s.tile (key l)))

def execTmovToReg (t : BitVec 6) (x : BitVec 1) (sl : BitVec 6) (im v : BitVec 5) (s : State) : Out := tmov false t x sl im v s
def execTmovToTile (t : BitVec 6) (x : BitVec 1) (sl : BitVec 6) (im v : BitVec 5) (s : State) : Out := tmov true t x sl im v s

/-! ### The TILE family (R184 to R187) -/

def tileCount (s : State) (g : Group) (t : Nat) : Option FaultInfo := failIf (decide (t ≥ (s.teamAt g.team).tiles)) illegalOperand

def execTzero (t : BitVec 6) (s : State) : Out :=
  atIssue s fun c g =>
    issueIns s c g {} (travelIllegal s g) (tileCount s g t.toNat) none none fun s => s.setTileAll g.team t.toNat []

/-- Writes a run of bytes to a core's team memory, a count for each 128 bytes moved; the last count. -/
def State.teamWriteRun (s : State) (die core key : Nat) (l : List Byte) : Nat × State :=
  ((upto 0 (l.length / 128 + 1)).zip (chunks 128 (l.length / 128 + 1) l)).foldl
    (fun p e => p.2.teamWrite die core (key + 128 * e.1) e.2) (0, s)

/-- Records the write of an instruction of group k to its own core's team memory. -/
def State.ownTeamRecord (s : State) (k : Nat) (g : Group) (lanes : Lanes) (count : Nat) : State :=
  (s.addWrec (wrecOf k g lanes g.core (coreHome g.core) (some count))).2

/-- The row scalar of TLDT and TSTT: first row and row count, where R186 accepts it. -/
def rowScalar (x : Word) : Option (Nat × Nat) :=
  let r := x.toNat % 64
  let n := x.toNat / 256 % 64 + 1
  if x.toNat / 64 % 4 = 0 ∧ x.toNat / 2 ^ 14 = 0 ∧ r + n ≤ 64 then some (r, n) else none

def tileMove (store : Bool) (t a x : BitVec 6) (s : State) : Out :=
  atIssue s fun c g =>
    let r := c.view g
    let addr := (r.scalar a.toNat).toNat
    let rows := rowScalar (r.scalar x.toNat)
    let (row0, n) := rows.getD (0, 1)
    let key := s.teamByte g.team addr
    let mid := tileCount s g t.toNat <|> readyFault { scalars := [a.toNat, x.toNat] } c g <|> failIf rows.isNone illegalOperand
    let late := failIf (s.localTeam g addr (512 * n)).isNone (teamFault addr) <|> failIf (decide (addr % 16 ≠ 0)) (alignFault addr)
    let st := rangeStall s g .team key (512 * n) store <|> (if store then s.turnStallAt g key (512 * n) else s.turnStall g) <|>
      (if store ∧ ¬ s.homeRoom g.die (coreHome g.core) (4 * n + 1) then some .homeLead else none)
    issueIns s c g { scalars := [a.toNat, x.toNat] } (travelIllegal s g) mid late st fun s =>
      let i := insInfo c g
      let at_ := fun j => tileKey g.team t.toNat (row0 + j / 128) (j % 128)
      if store then
        let s := s.reportEcc c.g i .tile (at_ 0) (128 * n)
        let (q, s) := s.teamWriteRun g.die g.core key ((upto 0 (128 * n)).flatMap (fun j => bytesOf 4 (s.tile (at_ j)).toNat))
        s.ownTeamRecord c.g g c.lanes q
      else
        let s := s.reportEcc c.g i .team key (512 * n)
        (upto 0 (128 * n)).foldl (fun s j => s.setTile (at_ j) (BitVec.ofNat 32 (s.load .team (key + 4 * j) 4))) s

def execTldt (t a x : BitVec 6) (s : State) : Out := tileMove false t a x s
def execTstt (t a x : BitVec 6) (s : State) : Out := tileMove true t a x s

/-- The parameter scalar of TEPI: scale byte, first slice and slice count, where R187 accepts it. -/
def epiScalar (x : Word) : Option (Int × Nat × Nat) :=
  let i := x.toNat / 256 % 256
  let n := x.toNat / 2 ^ 16 % 32 + 1
  if x.toNat / 2 ^ 21 = 0 ∧ i + n ≤ 256 then some (scaleByte (x.toNat % 256), i, n) else none

/-- The bytes of one slice of codes under a layout. -/
def packCodes (layout : Nat) (l : List Nat) : List Byte :=
  if layout = 1 then (chunks 2 32 l).map (fun p => BitVec.ofNat 8 (p.getD 0 0 % 16 + 16 * (p.getD 1 0 % 16)))
  else l.map (BitVec.ofNat 8)

def execTepi (t a x : BitVec 6) (f : BitVec 3) (s : State) : Out :=
  atIssue s fun c g =>
    let r := c.view g
    let addr := (r.scalar a.toNat).toNat
    let p := epiScalar (r.scalar x.toNat)
    let (e, i0, n) := p.getD (0, 0, 1)
    let d := s.fd g f.toNat
    let fd := descOf d
    let step := if fd.layout = 1 then 16 else 32
    let key := s.teamByte g.team addr
    let mid := tileCount s g t.toNat <|> readyFault { scalars := [a.toNat, x.toNat] } c g <|> failIf p.isNone illegalOperand
    let late := failIf (s.localTeam g addr (step * n)).isNone (teamFault addr) <|>
      failIf (decide (addr % step ≠ 0)) (alignFault addr) <|> failIf (!descValid d) { cls := .format, aux := d.toNat }
    let st := rangeStall s g .team key (step * n) true <|> s.turnStallAt g key (step * n) <|>
      (if s.homeRoom g.die (coreHome g.core) n then none else some .homeLead)
    issueIns s c g { scalars := [a.toNat, x.toNat] } (travelIllegal s g) mid late st fun s =>
      let src := fun q k => tileKey g.team t.toNat (sliceAt false (i0 + q) k).1 (sliceAt false (i0 + q) k).2
      let i := insInfo c g
      let (cnt, fl, s) := (upto 0 n).foldl (fun (acc : Nat × FFlags × State) q =>
        let s := acc.2.2.reportEcc c.g i .tile (src q 0) 32
        let codes := (upto 0 32).map (fun k => toNarrow fd e (fp32.value (s.tile (src q k)).toNat) (RMode.ofCode fd.round))
        let (w, s) := s.teamWrite g.die g.core (key + step * q) (packCodes fd.layout (codes.map (·.1)))
        (w, acc.2.1 ||| orFlags (codes.map (·.2)), s)) (0, 0, s)
      (s.ownTeamRecord c.g g c.lanes cnt).modGroup c.g (fun y => y.raiseAt (s.writeback g.die 4) fl)

end Sys2Proof.Machine
end

