-- ==== Sys2Proof/Machine/Sync.lean ====
section
/-!
DEFINITION. Stage rings (R86 to R89) and barriers (R121 to R123), and the unparking of threads that both share.
-/
namespace Sys2Proof.Machine

/-! ### Unparking -/

/-- Where a thread stands once its wait has ended: free, or departing when the header it was moved to lies in a segment that
its core does not hold (R269). -/
def freed (grid : Grid) (core : Nat) (t : Thread) : Thread :=
  { t with park := if grid.travel ∧ ¬ t.entered ∧ t.pc = t.clause ∧ grid.segOf t.pc ≠ grid.segAt core then .depart else .none }

/-- Ends the waits that a test accepts, in every thread of group k. -/
def State.unpark (s : State) (k : Nat) (p : Thread → Bool) : State :=
  let grid := s.gridAt (s.groupAt k).grid
  s.modGroup k (fun g => { g with threads := g.threads.map (fun e => if p e.2 then (e.1, freed grid g.core e.2) else e) })

/-- Parks the path past its instruction (R298). -/
def State.parkPath (s : State) (c : Issue) (g : Group) (p : Park) : State :=
  let t := c.head g
  s.modGroup c.g (fun x => (x.advance (s.gridAt g.grid) c).park c.lanes p t.clause t.cpos)

/-! ### Rings (R86, R87) -/

def State.ringAt (s : State) (team k : Nat) : Ring := Map.get (s.teamAt team).rings {} k
def State.setRing (s : State) (team k : Nat) (r : Ring) : State := s.modTeam team (fun t => { t with rings := Map.put t.rings k r })
def Ring.stage (r : Ring) (i : Nat) : Stage := Map.get r.stages {} i

/-- One arrival. -/
def Ring.arrive (r : Ring) (i : Nat) : Ring :=
  let x := r.stage i
  let c := x.count + 1
  { r with stages := Map.put r.stages i (if !x.full ∧ c ≥ r.need then { x with full := true, count := c - r.need } else { x with count := c }) }

/-- RREL. -/
def Ring.release (r : Ring) (i : Nat) : Ring :=
  let x := r.stage i
  let y : Stage := if x.count ≥ r.need then { full := true, phase := !x.phase, count := x.count - r.need }
    else { full := false, phase := !x.phase, count := x.count }
  if x.full then { r with stages := Map.put r.stages i y } else r

/-- Whether an RWAIT with a phase passes. -/
def Ring.passes (r : Ring) (full ph : Bool) (idx : Nat) : Bool :=
  let x := r.stage (idx % r.n)
  x.full == full && x.phase == ph

/-- Counts an arrival in the clock's list. -/
def State.countArrival (s : State) (team k i : Nat) : State :=
  let r := s.ringAt team k
  s.setRing team k { r with arr := r.arr ++ [i % r.n] }

/-- What the rings do at the end of a clock (R87): its arrivals, then every RWAIT again. -/
def State.settleRings (s : State) : State :=
  let s : State := { s with teams := s.teams.map (fun t => (t.1, { t.2 with rings := t.2.rings.map (fun r =>
    (r.1, { r.2.arr.foldl Ring.arrive r.2 with arr := [] })) })) }
  (s.groups.filter (fun e => e.2.threads.any (fun t => match t.2.park with | .ring .. => true | _ => false))).foldl
    (fun s e => if e.2.saved then s else s.unpark e.1 (fun t => match t.park with
      | .ring k full ph idx => (s.ringAt e.2.team k).passes full ph idx
      | _ => false)) s

/-- Whether a command that names ring k of a team is in flight (R89). -/
def State.ringBusy (s : State) (team k : Nat) : Bool :=
  s.cmds.any (fun e => decide (e.2.team = team) && (match e.2.ring with | some (r, _) => decide (r = k) | none => false))

/-- The ring that RCFG makes. -/
def ringOf (base geom : Nat) : Ring :=
  { conf := true, base := base, size := geom / 2 ^ 16 * 128, n := geom / 2 ^ 8 % 16 + 1, need := geom % 16 + 1 }

def execRcfg (k : BitVec 3) (a b : BitVec 6) (s : State) : Out :=
  atIssue s fun c g =>
    let base := ((c.view g).scalar a.toNat).toNat
    let geom := ((c.view g).scalar b.toNat).toNat
    let r := ringOf base geom
    let t := s.teamAt g.team
    let mid := readyFault { scalars := [a.toNat, b.toNat] } c g <|>
      failIf (decide (base % 128 ≠ 0 ∨ r.size = 0 ∨ geom / 2 ^ 12 % 16 ≠ 0 ∨ geom / 16 % 16 ≠ 0)) illegalOperand
    let late := failIf (decide (base + r.n * r.size > t.size)) (teamFault base) <|>
      failIf (decide (k.toNat ≥ t.nrings)) illegalOperand
    let st := if s.ringBusy g.team k.toNat then some (Stall.rcfg k.toNat base geom) else none
    issueIns s c g { scalars := [a.toNat, b.toNat] } (travelIllegal s g) mid late st fun s => s.setRing g.team k.toNat r

/-- RCFG_COMPLETE: a waiting RCFG takes effect, and its path goes on (R89). -/
def execRcfgComplete (g : Nat) (s : State) : Out :=
  let gr := s.groupAt g
  let m := maskOf (fun l => match (gr.thread l).stall with
    | .rcfg k _ _ => (gr.thread l).live && !s.ringBusy gr.team k
    | _ => false)
  if m = 0 ∨ gr.set = .halted ∨ gr.saved then .next s
  else
    let lead := lowLane m
    match (gr.thread lead).stall with
    | .rcfg k base geom =>
      let t := gr.thread lead
      let c : Issue := { g := g, lanes := maskOf (fun l => m.getLsbD l && decide ((gr.thread l).pc = t.pc ∧ (gr.thread l).clause = t.clause)), len := 4 }
      .next ((s.setRing gr.team k (ringOf base geom)).finish c [] false)
    | _ => .next s

/-- The stage index value that a RING instruction names: a scalar plus its offset, in 32 bits. -/
def ringIndex (c : Issue) (g : Group) (a im : Nat) : Nat := ((c.view g).scalar a + BitVec.ofNat 32 im).toNat

def ringUnset (s : State) (g : Group) (k : Nat) : Option FaultInfo := failIf (!(s.ringAt g.team k).conf) illegalOperand

/-- RWAIT: the wait is judged at the end of the clock, after the clock's RRELs and arrivals (R87). -/
def ringWait (full : Bool) (k : BitVec 3) (p : BitVec 1) (im : BitVec 4) (a : BitVec 6) (s : State) : Out :=
  atIssue s fun c g =>
    let idx := ringIndex c g a.toNat im.toNat
    issueIns s c g { scalars := [a.toNat] } (travelIllegal s g) (ringUnset s g k.toNat) none none
      (fun s => s.parkPath c (s.groupAt c.g) (.ring k.toNat full (p = 1) idx)) true

def execRwaitF (k : BitVec 3) (p : BitVec 1) (im : BitVec 4) (a : BitVec 6) (s : State) : Out := ringWait true k p im a s
def execRwaitE (k : BitVec 3) (p : BitVec 1) (im : BitVec 4) (a : BitVec 6) (s : State) : Out := ringWait false k p im a s

def execRrel (k : BitVec 3) (im : BitVec 4) (a : BitVec 6) (s : State) : Out :=
  atIssue s fun c g =>
    let r := s.ringAt g.team k.toNat
    issueIns s c g { scalars := [a.toNat] } (travelIllegal s g) (ringUnset s g k.toNat) none none
      (fun s => s.setRing g.team k.toNat (r.release (ringIndex c g a.toNat im.toNat % r.n)))

def execRarv (k : BitVec 3) (im : BitVec 4) (a : BitVec 6) (s : State) : Out :=
  atIssue s fun c g =>
    issueIns s c g { scalars := [a.toNat] } (travelIllegal s g) (ringUnset s g k.toNat) none none
      (fun s => s.countArrival g.team k.toNat (ringIndex c g a.toNat im.toNat))

/-- RSTAT: phases of stages 15 to 0, then their FULL bits (R89); the field sa has no part in it. -/
def execRstat (k : BitVec 3) (_a b : BitVec 6) (s : State) : Out :=
  atIssue s fun c g =>
    let r := s.ringAt g.team k.toNat
    let x := maskOf (fun i => if i < 16 then decide (i < r.n) && (r.stage i).full else decide (i - 16 < r.n) && (r.stage (i - 16)).phase)
    issueIns s c g {} (travelIllegal s g) (ringUnset s g k.toNat) none none fun s => s.modGroup c.g (fun y => y.writeScalar b.toNat x)

/-! ### Barriers (R121, R122) -/

/-- A barrier's state: of a team, or of a plot. -/
def State.barrier (s : State) (plot : Bool) (owner id : Nat) : Barrier :=
  if plot then Map.get (s.plotAt owner).bars {} id else Map.get (s.teamAt owner).bars {} id
def State.setBarrier (s : State) (plot : Bool) (owner id : Nat) (b : Barrier) : State :=
  if plot then { s with plots := Map.modify s.plots owner (fun p => { p with bars := Map.put p.bars id b }) }
  else s.modTeam owner (fun t => { t with bars := Map.put t.bars id b })

/-- The groups whose threads a barrier covers. -/
def State.covered (s : State) (plot : Bool) (owner : Nat) : Map Group :=
  s.groups.filter (fun e => if plot then (s.plotAt owner).teams.contains e.2.team else decide (e.2.team = owner))

/-- Records one thread's arrival (R122). -/
def Barrier.arrive (b : Barrier) (t : Nat × Nat) : Barrier :=
  if b.cur.contains t then (if b.nxt.contains t then b else { b with nxt := t :: b.nxt }) else { b with cur := t :: b.cur }

/-- Whether every covered thread that has not exited has arrived; a halted group's threads count as neither arrived nor exited (R305). -/
def barrierDone (b : Barrier) (l : Map Group) : Bool :=
  l.all (fun e => decide (e.2.set ≠ .halted) && e.2.threads.all (fun t => !t.2.live || b.cur.contains (e.2.team, t.2.tid))) &&
  decide (b.cur ≠ [])

/-- One test of R122: releases every thread parked on the barrier for its phase once that is complete. -/
def State.testOnce (s : State) (plot : Bool) (owner id : Nat) : State :=
  let b := s.barrier plot owner id
  let l := s.covered plot owner
  if barrierDone b l then
    l.foldl (fun s e => s.unpark e.1 (fun t => decide (t.park = .barrier plot id b.phase)))
      (s.setBarrier plot owner id { phase := !b.phase, cur := b.nxt, nxt := [] })
  else s

/-- The test of R122, made again after a release: the arrivals that have moved into the current phase may complete it. -/
def State.testBarrier (s : State) (plot : Bool) (owner id : Nat) : State := (s.testOnce plot owner id).testOnce plot owner id

/-- Tests every barrier that covers a team: after an exit, a halt command or a resume (R122, R305). -/
def State.testBarriers (s : State) (team : Nat) : State :=
  let t := s.teamAt team
  let s := (Map.keys t.bars).foldl (fun s id => s.testBarrier false team id) s
  (Map.keys (s.plotAt t.plot).bars).foldl (fun s id => s.testBarrier true t.plot id) s

def barOp (plot wait : Bool) (id : Nat) (s : State) : Out :=
  atIssue s fun c g =>
    let owner := if plot then (s.teamAt g.team).plot else g.team
    issueIns s c g {} (travelIllegal s g) none none none
      (fun s =>
        let b0 := s.barrier plot owner id
        let b := (lanesOf c.lanes).foldl (fun (b : Barrier) l => b.arrive (g.team, (g.thread l).tid)) b0
        let s := s.setBarrier plot owner id b
        let early := maskOf (fun l => c.lanes.getLsbD l && b0.cur.contains (g.team, (g.thread l).tid))
        let s := if wait then (s.parkPath c (s.groupAt c.g) (.barrier plot id b0.phase)).modGroup c.g
            (fun x => x.mapThreads early (fun t => { t with park := .barrier plot id (!b0.phase) }))
          else s.modGroup c.g (fun x => x.advance (s.gridAt g.grid) c)
        s.testBarrier plot owner id) true

def execBar (im : BitVec 4) (s : State) : Out := barOp false true im.toNat s
def execBarP (im : BitVec 2) (s : State) : Out := barOp true true im.toNat s
def execBarArv (im : BitVec 4) (s : State) : Out := barOp false false im.toNat s
def execBarPArv (im : BitVec 2) (s : State) : Out := barOp true false im.toNat s

end Sys2Proof.Machine
end

