-- ==== Sys2Proof/Machine/Memory.lean ====
section
/-!
DEFINITION. The operations on memory that loads, stores and atomics share (R104 to R117, R335): line requests, the L1 with peer
forwarding, the read-only path, messages to the slices and through the plot window, and the landing of results.
-/
namespace Sys2Proof.Machine

/-! ### Checks over lanes -/

/-- The fault of the lowest failing lane of m, with every failing lane (R111). -/
def laneFault (m : Lanes) (bad : Nat → Bool) (f : Nat → FaultInfo) : Option FaultInfo :=
  let b := maskOf (fun l => m.getLsbD l && bad l)
  if b = 0 then none else some { f (lowLane b) with lanes := b }

/-- R189 rows 1 to 3 over the lanes of an instruction that presents a pair: the rows' order comes before the lanes' (R111). -/
def presentFault (die : Nat) (tokens : Bool) (m : Lanes) (w : Nat → Wit) : Option FaultInfo :=
  laneFault m (fun l => decide (witFault die tokens (w l) = some .witnessOperand)) (fun l => { cls := .witnessOperand, aux := (w l).toNat }) <|>
  laneFault m (fun l => decide (witFault die tokens (w l) = some .witnessDomain)) (fun l => { cls := .witnessDomain, aux := (w l).toNat })

/-- The flag of a variable-latency instruction: its fault where FS names no flag, its stall at 63 (R21). -/
def flagFault (c : Issue) (g : Group) (f : BitVec 1) : Option FaultInfo := failIf (slotFlag (c.head g) (f = 1)).isNone illegal
def flagStall (c : Issue) (g : Group) (f : BitVec 1) : Option Stall :=
  match slotFlag (c.head g) (f = 1) with
  | some n => if g.flagOf n ≥ 63 then some (.flagFull n) else none
  | none => none

/-- Operands of a presented pair. -/
def Opnds.present (o : Opnds) (wp : Nat) : Opnds := { o with
  reads := o.reads ++ witCodes wp, scalars := o.scalars ++ witScalars wp
  bases := o.bases ++ baseOf (witCodes wp) ++ (if 48 ≤ wp ∧ wp < 63 then [(scalarNo (2 * (wp - 48)), 2)] else []) }

/-- Operands of a pair presented by some lanes only (R199, R200). -/
def Opnds.presentIn (o : Opnds) (m : Lanes) (wp : Nat) : Opnds := { o with
  readsAt := o.readsAt ++ (witCodes wp).map (fun n => (n, m))
  scalarsAt := o.scalarsAt ++ (if m = 0 then [] else (witScalars wp).map (fun n => (n, m)))
  bases := o.bases ++ baseOf (witCodes wp) ++ (if 48 ≤ wp ∧ wp < 63 then [(scalarNo (2 * (wp - 48)), 2)] else []) }

/-- R303 numbers of the registers of a witness pair that is a destination. -/
def witRegs (wp : Nat) : List Nat := witCodes wp ++ (witScalars wp).map scalarNo

/-! ### Mesh nodes and classes (R101) -/

def requestChan (die src dst : Nat) : Nat := meshChan 0 die src dst
def responseChan (die src dst : Nat) : Nat := meshChan 1 die src dst
def coherenceChan (die src dst : Nat) : Nat := meshChan 2 die src dst
/-- Node of a slice. -/
def sliceNode (line : Nat) : Nat := 24 + line % 24

/-! ### The L1 and the read-only cache (R104 to R109) -/

/-- The line of scratchpad data as it stands at its slice. -/
def State.lineData (s : State) (die line : Nat) : BitVec 1024 := BitVec.ofNat 1024 (s.load .scratch (scratchKey die (128 * line)) 128)

/-- Bytes of a held line. -/
def lineBytes (d : BitVec 1024) (a n : Nat) : Nat := d.toNat / 256 ^ (a % 128) % 256 ^ n

/-- A store or atomic of the core invalidates its own copy of the line at issue (R104). -/
def Core.dropOwn (c : Core) (line : Nat) : Core :=
  match Map.find c.l1 line with
  | some (.shared ..) => { c with l1 := Map.erase c.l1 line, l1Order := c.l1Order.filter (· ≠ line) }
  | some (.pending _ a) => { c with l1 := Map.put c.l1 line (.pending true a) }
  | none => c

/-- Lists a filled line as Shared; the oldest Shared line leaves when the cache is full. -/
def Core.hold (c : Core) (line : Nat) (d : BitVec 1024) (stamp : Nat) : Core :=
  let c := { c with l1 := Map.put c.l1 line (.shared d stamp), l1Order := c.l1Order.filter (· ≠ line) ++ [line] }
  if c.l1.length > Config.l1Lines then
    match c.l1Order with
    | x :: l => { c with l1 := Map.erase c.l1 x, l1Order := l }
    | [] => c
  else c

def roKey (grid line : Nat) : Nat := grid * 2 ^ 20 + line

/-- Lists a line of the read-only cache under the launch that filled it (R109). -/
def Core.holdRo (c : Core) (k : Nat) (d : BitVec 1024) : Core :=
  let c := { c with ro := Map.put c.ro k d, roOrder := c.roOrder.filter (· ≠ k) ++ [k] }
  if c.ro.length > Config.roLines then
    match c.roOrder with
    | x :: l => { c with ro := Map.erase c.ro x, roOrder := l }
    | [] => c
  else c

/-- Trains the predictor with another sharer of a line (R106). -/
def Core.train (c : Core) (line : Nat) (hint : Option Nat) : Core :=
  match hint with
  | none => c
  | some p =>
    let m := Map.put c.predictor line p
    { c with predictor := if m.length > Config.predictorEntries then m.drop 1 else m }

/-- The core has observed the value that a line had at a stamp (R112). -/
def Core.saw (c : Core) (line stamp : Nat) : Core := { c with seen := Map.put c.seen line (max stamp (Map.get c.seen 0 line)) }

/-- The read-only cache has brought a line with a stamp: what the L1 holds or awaits of it may be older, and then serves no later load
(R112). DEDUCED (log 114). -/
def Core.sawRo (c : Core) (line stamp : Nat) : Core :=
  match Map.find c.l1 line with
  | some (.shared _ t) => if t < stamp then (c.dropOwn line).saw line stamp else c.saw line stamp
  | some (.pending ..) => (c.dropOwn line).saw line stamp
  | none => c.saw line stamp

/-- The peer a miss probes, or none where it goes straight to the slice (R106). -/
def State.peerFor (s : State) (die core line : Nat) : Option Nat :=
  let c := s.coreAt (coreKey die core)
  match Map.find c.predictor line with
  | none => none
  | some p =>
    if p = core ∨ Map.get c.unanswered 0 line > 0 ∨
      (match Map.find c.ownWrites line with
        | some q => serialPending q ((s.die die).tableOf (line % 24))
        | none => false) = true then none
    else some p

/-- Sends a miss (R106, R335): it takes a line request and leaves the line Pending. -/
def State.sendMiss (s : State) (die core line : Nat) : State :=
  let ck := coreKey die core
  let peer := s.peerFor die core line
  let s := (s.modCore ck (fun c => { c with lineUsed := c.lineUsed + 1, l1 := Map.put c.l1 line (.pending false []) })).tallyCore ck .l1Misses 1
  match peer with
  | some p => s.sendMesh (coherenceChan die core p) 5 (.probe die core line p (Map.get (s.coreAt ck).seen 0 line)) .peerProbe
  | none => s.sendMesh (requestChan die core (sliceNode line)) (10 + core) (.read die core line none) .sliceRead

def State.sendRoMiss (s : State) (die core line grid : Nat) : State :=
  (s.modCore (coreKey die core) (fun c => { c with lineUsed := c.lineUsed + 1 })).sendMesh
    (requestChan die core (sliceNode line)) (10 + core) (.read die core line (some grid)) .sliceRead

/-! ### Performing the lanes of an access -/

/-- The distinct lines of a list of accesses, in lane order. -/
def accLines (l : List LaneAcc) : List Nat :=
  l.foldl (fun acc a => if acc.contains (a.addr / 128) then acc else acc ++ [a.addr / 128]) []

/-- Whether a lane of an operation reads through the read-only cache: an LDRO without a witness, of a line that its launch has not read
through the L1 (R109). -/
def State.viaRo (s : State) (o : MemOp) (a : LaneAcc) : Bool :=
  decide (o.kind = .loadRo ∧ a.wit = 0) && !(s.coreAt (coreKey o.die o.core)).roBypass.contains (roKey o.grid (lineOf a.addr))

/-- Once an LDRO has read a line through the L1, the launch's later ones read it there too: what they return is then no older (R109). -/
def Core.bypassRo (c : Core) (k : Nat) : Core :=
  { c with ro := Map.erase c.ro k, roOrder := c.roOrder.filter (· ≠ k), roBypass := if c.roBypass.contains k then c.roBypass else k :: c.roBypass }

/-- Tries to perform one lane of a load of the scratchpad: a hit has its value now, a miss sends its line's request. A lane that waits for
a line of the read-only cache carries 1 in `arg`. -/
def State.tryScratch (s : State) (o : MemOp) (a : LaneAcc) : LaneAcc × State :=
  let ck := coreKey o.die o.core
  let c := s.coreAt ck
  let line := lineOf a.addr
  if s.viaRo o a then
    match Map.find c.ro (roKey o.grid line) with
    | some d => ({ a with st := .done, val := lineBytes d a.addr o.size }, s)
    | none =>
      if o.lines.contains line then ({ a with st := .waitLine, arg := 1 }, s)
      else if c.lineUsed < Config.lineRequests then ({ a with st := .waitLine, arg := 1 }, s.sendRoMiss o.die o.core line o.grid)
      else (a, s)
  else
    let s := if o.kind = .loadRo then s.modCore ck (fun c => c.bypassRo (roKey o.grid line)) else s
    match Map.find c.l1 line with
    | some (.shared d _) => ({ a with st := .done, val := lineBytes d a.addr o.size }, s)
    | some (.pending false _) => ({ a with st := .waitLine }, s)
    | some (.pending true _) => (a, s)
    | none =>
      if c.lineUsed < Config.lineRequests then ({ a with st := .waitLine }, s.sendMiss o.die o.core line) else (a, s)

/-! ### Performing the lanes of a load -/

def OpKind.isLoad : OpKind → Bool
  | .load | .loadRo => true
  | .store | .atomic _ | .fill => false

/-- Whether a lane of a load is held behind an earlier load of the same bytes by the same thread, which has still to be performed: two
loads of one location never return its values in reverse (R197). -/
def State.behindLoad (s : State) (k : Nat) (o : MemOp) (a : LaneAcc) : Bool :=
  s.memOps.any (fun e => decide (e.1 < k ∧ e.2.g = o.g ∧ e.2.space = .scratch) && e.2.kind.isLoad &&
    e.2.lanes.any (fun b => decide (b.lane = a.lane ∧ b.st ≠ .done ∧ b.addr < a.addr + o.size ∧ a.addr < b.addr + e.2.size)))

/-- Tries one lane of a load: it must present a satisfied witness first (R112, R196), and have its turn (R98, R197). -/
def State.tryLane (s : State) (k : Nat) (a : LaneAcc) : State :=
  match Map.find s.memOps k with
  | none => s
  | some o =>
    if !o.kind.isLoad ∨ a.st ≠ .waitWitness ∨ !s.satisfied o.die o.core a.wit then s
    else
      let (b, s) := match o.space with
        | .scratch => if s.behindLoad k o a then (a, s) else s.tryScratch o a
        | _ =>
          if a.addr / 2 ^ 21 = coreKey o.die o.core ∧
              s.turnFree o.die o.core (s.teamAt o.team).ctx (coreKey o.die o.core) k then ({ a with st := .done, val := s.load .team a.addr o.size }, s) else (a, s)
      let s := if b.st = .done ∧ o.space ≠ .hbm then s.reportEcc o.g o.ins o.space b.addr o.size else s
      { s with memOps := Map.modify s.memOps k (fun x => { x with
          lanes := x.lanes.map (fun y => if y.lane = b.lane then b else y)
          lines := if b.st = .waitLine ∧ !x.lines.contains (lineOf b.addr) then lineOf b.addr :: x.lines else x.lines }) }

/-- The event with which an operation completes. -/
def OpKind.event (k : OpKind) (op : Nat) : Ev :=
  match k with
  | .load | .loadRo => .loadComplete op
  | .store => .storeComplete op
  | .atomic _ => .atomicComplete op
  | .fill => .fillComplete op

/-- Lets an operation complete, after a free time, once every lane is done. -/
def State.checkOp (s : State) (k : Nat) : State :=
  match Map.find s.memOps k with
  | none => s
  | some o =>
    if o.lanes.all (fun a => decide (a.st = .done)) ∧ ¬ s.inFlight (o.kind.event k) then s.send 0 4 (o.kind.event k) else s

/-- Sends the lanes of a load that wait for another core's team memory, one window message for each line (R98, R335). -/
def State.tryWindow (s : State) (k : Nat) (o : MemOp) : State :=
  let ck := coreKey o.die o.core
  let l := o.lanes.filter (fun a => decide (a.st = .waitWitness ∧ a.addr / 2 ^ 21 ≠ ck) && s.satisfied o.die o.core a.wit &&
    s.turnFree o.die o.core (s.teamAt o.team).ctx (a.addr / 2 ^ 21) k)
  if o.space ≠ .team ∨ (o.kind ≠ .load) then s
  else
    (accLines l).foldl (fun s line =>
      if (s.coreAt ck).lineUsed < Config.lineRequests then
        let lanes := (l.filter (fun a => decide (a.addr / 128 = line))).map (fun a => { a with st := .sent })
        let dst := line * 128 / 2 ^ 21 % 24
        let s : State := { s with memOps := Map.modify s.memOps k (fun x => { x with
          lanes := x.lanes.map (fun (y : LaneAcc) => (lanes.find? (fun z => decide (z.lane = y.lane))).getD y) }) }
        (s.modCore ck (fun c => { c with lineUsed := c.lineUsed + 1 })).sendMesh
          (requestChan o.die o.core dst) (10 + o.core) (.window o.die o.core dst k .load lanes o.size 0) .teamMemoryWindowAccess
      else s) s

/-! ### Stores and atomics (R113 to R117) -/

/-- What an atomic writes: none where it writes nothing. -/
def AtomicOp.apply (op : AtomicOp) (size old b cmp : Nat) : Option Nat :=
  let s := fun x => (BitVec.ofNat 32 x).toInt
  match op with
  | .add => some ((old + b) % 256 ^ size)
  | .mins => some (if s old ≤ s b then old else b)
  | .maxs => some (if s old ≤ s b then b else old)
  | .minn => some (min old b)
  | .maxn => some (max old b)
  | .and => some (old &&& b)
  | .or => some (old ||| b)
  | .xor => some (old ^^^ b)
  | .exch => some b
  | .cas => if old = cmp then some b else none
  | .incw => some (if old ≥ b then 0 else old + 1)
  | .fadd => some (fp32.add .rne old b).1
  | .faddb2 => some ((bf16.add .rne (old % 65536) (b % 65536)).1 + 65536 * (bf16.add .rne (old / 65536) (b / 65536)).1)
  | .fmin => some (fp32.minMax false old b).1
  | .fmax => some (fp32.minMax true old b).1

/-- One lane of a store or atomic at its home (R114, R117): the new state, and the lane with old value and witness. -/
def State.performLane (s : State) (sp : Space) (die home size : Nat) (kind : OpKind) (a : LaneAcc)
    (count : State → Nat × State) : LaneAcc × State :=
  let old := s.load sp a.addr size
  let new := match kind with
    | .store => some (a.arg % 256 ^ size)
    | .atomic op => op.apply size old a.arg a.cmp
    | _ => none
  match new with
  | some x =>
    let (q, s) := count (s.store sp a.addr (bytesOf size x))
    ({ a with st := .done, val := old, wout := pointWit die (s.die die).inc home q }, s)
  | none =>
    ({ a with st := .done, val := old,
              wout := match kind with
                | .atomic _ => pointWit die (s.die die).inc home ((s.die die).givenOf home)
                | _ => 0 }, s)

/-- Writes done lanes back into an operation. -/
def State.opLanes (s : State) (op : Nat) (l : List LaneAcc) : State :=
  { s with memOps := Map.modify s.memOps op (fun o => { o with lanes := o.lanes.map (fun a => (l.find? (fun b => decide (b.lane = a.lane))).getD a) }) }

/-- The cores whose team memories a list of accesses names, in lane order. -/
def accTargets (l : List LaneAcc) : List Nat :=
  l.foldl (fun acc a => if acc.contains (a.addr / 2 ^ 21) then acc else acc ++ [a.addr / 2 ^ 21]) []

/-- Opens the write records of an access of group k to team memory, issued on a path of these lanes (R271): one for the own core, one for
each line of the others. -/
def State.teamRecords (s : State) (k : Nat) (g : Group) (path : Lanes) (l : List LaneAcc) : Map Nat × State :=
  let ck := coreKey g.die g.core
  let own := l.filter (fun a => decide (a.addr / 2 ^ 21 = ck))
  let (m, s) := if own = [] then (([] : Map Nat), s) else
    (let (w, s) := s.addWrec (wrecOf k g path g.core (coreHome g.core) none)
     ([(ck * 2 ^ 14, w)], s))
  (accLines (l.filter (fun a => decide (a.addr / 2 ^ 21 ≠ ck)))).foldl (fun p line =>
    let dst := line / 2 ^ 14 % 24
    let (w, s) := p.2.addWrec (wrecOf k g path g.core (coreHome dst) none)
    (Map.put p.1 line w, s)) (m, s)

/-- Performs the lanes of a store or atomic at one core's team memory: at the own core now, in lane order, with their counts; at another
core through the window, one message for each line (R98, R335). The lanes as they then stand. -/
def State.goTeam (s : State) (die core op : Nat) (kind : OpKind) (size : Nat) (recs : Map Nat) (target : Nat) (l : List LaneAcc) :
    List LaneAcc × State :=
  let ck := coreKey die core
  if target = ck then
    let (done, s) := l.foldl (fun (p : List LaneAcc × State) a =>
      let (b, s) := p.2.performLane .team die (coreHome core) size kind a (fun s => s.countWrite die (coreHome core))
      (p.1 ++ [b], s)) ([], s)
    (done, { s with wrecs := Map.modify s.wrecs (Map.get recs 0 (ck * 2 ^ 14)) (fun r => { r with count := some ((s.die die).givenOf (coreHome core)) }) })
  else
    (l.map (fun a => { a with st := .sent }), (accLines l).foldl (fun s line =>
      let lanes := (l.filter (fun a => decide (a.addr / 128 = line))).map (fun a => { a with st := .sent })
      let dst := line * 128 / 2 ^ 21 % 24
      (s.modCore ck (fun c => { c with lineUsed := c.lineUsed + 1 })).sendMesh (requestChan die core dst) (10 + core)
        (.window die core dst op kind lanes size (Map.get recs 0 line)) .teamMemoryWindowAccess) s)

/-- Whether the lanes of a store or atomic may go to one core's team memory: their turn has come (R98), the own home has room for their
counts (R190), or the core has line requests for the window (R335). -/
def State.teamFree (s : State) (die core ctx before target : Nat) (l : List LaneAcc) : Bool :=
  s.turnFree die core ctx target before &&
  (if target = coreKey die core then s.homeRoom die (coreHome core) l.length && !l.any (fun a => s.listAhead die core before a.addr (a.addr + 16))
   else decide ((s.coreAt (coreKey die core)).lineUsed + (accLines l).length ≤ Config.lineRequests))

/-- The lanes of an access to one core's team memory. -/
def atTarget (target : Nat) (l : List LaneAcc) : List LaneAcc := l.filter (fun a => decide (a.addr / 2 ^ 21 = target))

/-- Performs those lanes of an operation on team memory whose turn it is, core by core. -/
def State.tryTeam (s : State) (k : Nat) (o : MemOp) : State :=
  let l := o.lanes.filter (fun a => decide (a.st = .waitWitness))
  let go := fun (s : State) (t : Nat) =>
    if s.teamFree o.die o.core (s.teamAt o.team).ctx k t (atTarget t l) then
      let (done, s) := s.goTeam o.die o.core k o.kind o.size o.recs t (atTarget t l)
      s.opLanes k done
    else s
  match o.kind with
  | .store | .atomic _ => (accTargets l).foldl go s
  | _ => s

/-- Tries every waiting lane of an operation. -/
def State.tryOp (s : State) (k : Nat) : State :=
  match Map.find s.memOps k with
  | none => s
  | some o => (((o.lanes.foldl (fun s a => s.tryLane k a) s).tryWindow k o).tryTeam k o).checkOp k

/-- Tries every operation of a core with a lane still waiting, in issue order. -/
def State.retryOps (s : State) (die core : Nat) : State :=
  ((s.memOps.filter (fun e => decide (e.2.die = die ∧ e.2.core = core) && e.2.lanes.any (fun a => decide (a.st = .waitWitness)))).map (·.1)).foldl
    (fun s k => s.tryOp k) s

/-- Starts an operation: its destinations are owed and its flag rises (R21, R23). -/
def State.startOp (s : State) (c : Issue) (owes : List Nat) (m : Lanes) (o : MemOp) : Nat × State :=
  let (k, s) := s.newId
  (k, { s with memOps := Map.put s.memOps k o }.modGroup c.g (fun g =>
    let g := g.owe k owes m
    match o.flag with
    | some n => g.raiseCf n
    | none => g))

/-- A lane of an access as it issues. -/
def lanesAt (m : Lanes) (addr : Nat → Nat) (wit : Nat → Wit) : List LaneAcc :=
  (lanesOf m).map (fun l => { lane := l, addr := addr l, wit := wit l, st := .waitWitness })

/-- How many line requests a load needs now (R335): its misses, and its window lines. -/
def State.missCount (s : State) (o : MemOp) : Nat :=
  let c := s.coreAt (coreKey o.die o.core)
  let l := o.lanes.filter (fun a => s.satisfied o.die o.core a.wit)
  let m := l.filter (fun a =>
    match o.space with
    | .scratch => if s.viaRo o a then (Map.find c.ro (roKey o.grid (lineOf a.addr))).isNone else (Map.find c.l1 (lineOf a.addr)).isNone
    | _ => decide (a.addr / 2 ^ 21 ≠ coreKey o.die o.core))
  (accLines m).length

def lineStall (s : State) (g : Group) (n : Nat) : Option Stall :=
  if n = 0 ∨ (s.coreAt (coreKey g.die g.core)).lineUsed + n ≤ Config.lineRequests then none else some (.lineRequests n)

/-- Sends the lanes of a store or atomic on the scratchpad, one message for each line (R335), and invalidates the core's
copies. Each line's write is one of every lane of the path that issued it (R271). -/
def State.sendLines (s : State) (k : Nat) (g : Group) (path : Lanes) (op : Nat) (kind : OpKind) (size : Nat) (l : List LaneAcc) : State :=
  (accLines l).foldl (fun s line128 =>
    let lanes := l.filter (fun a => decide (a.addr / 128 = line128))
    let line := lineOf (128 * line128)
    let (w, s) := s.addWrec (wrecOf k g path g.core (line % 24) none)
    let s := s.modCore (coreKey g.die g.core) (fun c =>
      { c.dropOwn line with lineUsed := c.lineUsed + 1, unanswered := Map.put c.unanswered line (Map.get c.unanswered 0 line + 1) })
    let chan := requestChan g.die g.core (sliceNode line)
    match kind with
    | .atomic a => s.sendMesh chan (10 + g.core) (.atomic g.die g.core line op a lanes size w) .sliceAtomic
    | _ => s.sendMesh chan (10 + g.core) (.write g.die g.core line op lanes size w) .sliceWrite) s

/-- A store or atomic of group k to team memory. Where every core's turn is free it is performed or sent now; otherwise it stays
outstanding, a posted one too, and its lanes go in their turn (R98, R190). -/
def State.sendTeam (s : State) (c : Issue) (g : Group) (x : MemOp) (owes : List Nat) (returns : Bool) : State :=
  let (recs, s) := s.teamRecords c.g g c.lanes x.lanes
  let targets := accTargets x.lanes
  let free := targets.all (fun t => s.teamFree g.die g.core g.ctx s.fresh t (atTarget t x.lanes))
  if free then
    let (k, s) := if returns then s.startOp c owes c.lanes x else (0, s)
    let (done, s) := targets.foldl (fun (p : List LaneAcc × State) t =>
      let (l, s) := p.2.goTeam g.die g.core k x.kind x.size recs t (atTarget t x.lanes)
      (p.1 ++ l, s)) ([], s)
    if returns then (s.opLanes k done).checkOp k else s
  else
    let (k, s) := s.startOp c (if returns then owes else []) c.lanes { x with
      flag := if returns then x.flag else none, recs := recs, lanes := x.lanes.map (fun a => { a with st := .waitWitness }) }
    s.tryOp k

/-- Ends an operation: its results have landed, its flag drops, and it is no longer outstanding. -/
def State.endOp (s : State) (k : Nat) (o : MemOp) (f : Group → Group) : State :=
  { s with memOps := Map.erase s.memOps k }.modGroup o.g (fun g => ((f g).settle k).dropFlag o.flag)

end Sys2Proof.Machine
end

