-- ==== Sys2Proof/Machine/LoadStore.lean ====
section
/-!
DEFINITION. Loads, stores, atomics, SPILL and FILL, and prefetches (R109 to R120), with the completions of their operations.
-/
namespace Sys2Proof.Machine

/-! ### Checks (R111) -/

/-- Bytes of a size code, where it is assigned. -/
def accSize (code : Nat) : Nat := 2 ^ code

/-- The codes of a data block of n bytes: the single code up to 4 bytes, else the pair or block where eligible. -/
def dataCodes (code n : Nat) : List Nat :=
  if n ≤ 4 then [code] else if eligible code (n / 4) then block code (n / 4) else [code]

/-- The memory key of a lane's address, with the fault where it has none. -/
def State.keyOf (s : State) (sp : Space) (g : Group) (a n : Nat) : Option Nat :=
  match sp with
  | .scratch => s.scratchAddr g a n
  | _ => (s.teamRef g a n).map (fun r => s.teamByte r.team r.off)

/-- Address, alignment and witness rows of R111, in that order. -/
def accessLate (s : State) (sp : Space) (c : Issue) (g : Group) (addr : Nat → Nat) (n : Nat) (w : Option (Nat → Wit)) : Option FaultInfo :=
  laneFault c.lanes (fun l => (s.keyOf sp g (addr l) n).isNone)
    (fun l => { cls := if sp = .scratch then .outOfPartition else .teamMemoryAddress, addr := addr l }) <|>
  laneFault c.lanes (fun l => decide (addr l % n ≠ 0)) (fun l => alignFault (addr l)) <|>
  (match w with
    | some w => presentFault g.die false c.lanes w
    | none => none)

/-- The range-scoreboard stall of an access's lanes on the issuing core (R84). -/
def accessStall (s : State) (sp : Space) (g : Group) (keys : List Nat) (n : Nat) (write : Bool) : Option Stall :=
  (keys.find? (fun k => s.rangeHit g.die g.core sp k (k + n) write)).map (fun k => .rangeEntry k (k + n) sp write)

/-! ### Loads (R112) -/

def loadOp (kind : OpKind) (sp : Space) (f : BitVec 1) (sl : BitVec 3) (w : BitVec 6) (a d : BitVec 7) (s : State) : Out :=
  atIssue s fun c g =>
    let n := accSize sl.toNat
    let r := c.view g
    let wp := w.toNat
    let dst := d.toNat
    let wide := decide (n = 8 ∨ n = 16)
    let early := failIf (decide (sl.toNat ≥ 5)) illegal <|> flagFault c g f <|>
      failIf (decide (sp = .team) && s.inTravel g) illegal <|>
      failIf (decide (dst = 104) || (wide && !decide (dst % (n / 4) = 0 ∧ dst + n / 4 ≤ 96))) illegalOperand
    let addr := fun l => (r.read a.toNat l).toNat
    let wit := fun l => r.wit wp l
    let late := accessLate s sp c g addr n (some wit)
    let keys := (lanesOf c.lanes).map (fun l => (s.keyOf sp g (addr l) n).getD 0)
    let key := fun l => (s.keyOf sp g (addr l) n).getD 0
    let dests := if wide then block dst (n / 4) else [dst]
    let op : MemOp := {
      kind := kind, g := c.g, die := g.die, core := g.core, team := g.team, grid := g.grid, space := sp,
      flag := slotFlag (c.head g) (f = 1), dst := dst, size := n, wp := wp,
      lanes := lanesAt c.lanes key wit, ins := insInfo c g }
    let st := flagStall c g f <|> accessStall s sp g keys n false <|> lineStall s g (s.missCount op)
    let o : Opnds := { reads := [a.toNat], dests := dests, first := relOf a.toNat }
    issueIns s c g (o.present wp) early none late st fun s =>
      let (k, s) := s.startOp c (dests.filterMap regNo) c.lanes op
      s.tryOp k

def execLds (f : BitVec 1) (sl : BitVec 3) (w : BitVec 6) (a d : BitVec 7) (s : State) : Out := loadOp .load .scratch f sl w a d s
def execLdt (f : BitVec 1) (sl : BitVec 3) (w : BitVec 6) (a d : BitVec 7) (s : State) : Out := loadOp .load .team f sl w a d s
def execLdro (f : BitVec 1) (sl : BitVec 3) (w : BitVec 6) (a d : BitVec 7) (s : State) : Out := loadOp .loadRo .scratch f sl w a d s

/-- LOAD_COMPLETE: every active lane's data is written (R112); shorter loads zero-extend. -/
def execLoadComplete (op : Nat) (s : State) : Out :=
  match Map.find s.memOps op with
  | none => .next s
  | some o =>
    let val := fun l => match o.lanes.find? (fun a => decide (a.lane = l)) with
      | some a => a.val
      | none => 0
    .next (s.endOp op o (fun g =>
      (upto 0 ((o.size + 3) / 4)).foldl (fun g i => g.land op (o.dst + i) (fun l => BitVec.ofNat 32 (val l / 2 ^ (32 * i)))) g))

/-! ### Stores (R113) -/

def storeOp (sp : Space) (f : BitVec 1) (sl : BitVec 3) (w : BitVec 6) (a d : BitVec 7) (s : State) : Out :=
  atIssue s fun c g =>
    let n := accSize sl.toNat
    let r := c.view g
    let wp := w.toNat
    let returns := decide (wp ≠ 63)
    let early := failIf (decide (sl.toNat ≥ 5)) illegal <|>
      (if returns then flagFault c g f else failIf (decide (f = 1)) illegal) <|>
      failIf (decide (sp = .team) && s.inTravel g) illegal <|>
      failIf (decide (n = 8 ∨ n = 16) && !eligible d.toNat (n / 4)) illegalOperand
    let addr := fun l => (r.read a.toNat l).toNat
    let key := fun l => (s.keyOf sp g (addr l) n).getD 0
    let codes := dataCodes d.toNat n
    let data := fun l => ((upto 0 (max 1 (n / 4))).foldl (fun x i => x + (r.read (d.toNat + i) l).toNat * 2 ^ (32 * i)) 0) % 256 ^ n
    let lanes := (lanesOf c.lanes).map (fun l => ({ lane := l, addr := key l, arg := data l, st := .sent } : LaneAcc))
    let other := lanes.filter (fun x => decide (sp = .scratch ∨ x.addr / 2 ^ 21 ≠ coreKey g.die g.core))
    let late := accessLate s sp c g addr n none
    let st := (if returns then flagStall c g f else none) <|> accessStall s sp g (lanes.map (·.addr)) n true <|>
      lineStall s g (accLines other).length
    let o : Opnds := { reads := a.toNat :: codes, dests := if returns then witCodes wp else [], first := relOf a.toNat,
                       second := codes.filter (fun x => decide (x < 96)), bases := baseOf codes, sends := true }
    issueIns s c g o early none late st fun s =>
      let op : MemOp := {
        kind := .store, g := c.g, die := g.die, core := g.core, team := g.team, grid := g.grid, space := sp,
        flag := slotFlag (c.head g) (f = 1), size := n, wp := wp, lanes := lanes, ins := insInfo c g }
      match sp with
      | .scratch =>
        let (k, s) := if returns then s.startOp c (witRegs wp) c.lanes op else (0, s)
        s.sendLines c.g g c.lanes k .store n lanes
      | _ => s.sendTeam c g op (witRegs wp) returns

def execSts (f : BitVec 1) (sl : BitVec 3) (w : BitVec 6) (a d : BitVec 7) (s : State) : Out := storeOp .scratch f sl w a d s
def execStt (f : BitVec 1) (sl : BitVec 3) (w : BitVec 6) (a d : BitVec 7) (s : State) : Out := storeOp .team f sl w a d s

/-- STORE_COMPLETE: every lane's write has its count; the witness is written, merged where the pair is scalar (R113, R198).
A merge that needs more tickets than are free waits, and a store of a saved context waits in its area for the restore. -/
def execStoreComplete (op : Nat) (s : State) : Out :=
  match Map.find s.memOps op with
  | none => .next s
  | some o =>
    let wit := fun l => match o.lanes.find? (fun a => decide (a.lane = l)) with
      | some a => a.wout
      | none => 0
    if s.ctxSaved o.die (s.groupAt o.g).ctx then .next (s.at_ (s.now + 1) 4 (.storeComplete op))
    else if o.wp < 48 then
      .next (s.endOp op o (fun g => (g.land op (2 * o.wp) (fun l => (wit l).extractLsb' 0 32)).land op (2 * o.wp + 1)
        (fun l => (wit l).extractLsb' 32 32)))
    else if o.wp = 63 then .next (s.endOp op o id)
    else
      let ck := coreKey o.die o.core
      let m := mergeSet o.die o.core (s.die o.die).inc (o.lanes.map (·.wout))
      if m.need > s.freeTickets ck then .next (s.at_ (s.now + 1) 4 (.storeComplete op))
      else
        let (w, s) := s.finishMerge ck (s.groupAt o.g).ctx m
        .next (s.endOp op o (fun g => (g.landScalar op (2 * (o.wp - 48)) (w.extractLsb' 0 32)).landScalar op (2 * (o.wp - 48) + 1)
          (w.extractLsb' 32 32)))

/-! ### Atomics (R115 to R117) -/

def atomicOp (sp : Space) (op : AtomicOp) (size : Nat) (f : BitVec 1) (b a : BitVec 7) (q : BitVec 5) (s : State) : Out :=
  atIssue s fun c g =>
    let r := c.view g
    let vq := q.toNat
    let returns := decide (vq ≠ 31)
    let n := (if op = .cas then 2 else 1) * (size / 4)
    let early := failIf (decide (24 ≤ vq ∧ vq < 31)) illegal <|> (if returns then flagFault c g f else failIf (decide (f = 1)) illegal) <|>
      failIf (decide (sp = .team) && s.inTravel g) illegal <|>
      failIf (decide (n > 1) && !eligible b.toNat n) illegalOperand
    let codes := if n > 1 ∧ eligible b.toNat n then block b.toNat n else [b.toNat]
    let addr := fun l => (r.read a.toNat l).toNat
    let key := fun l => (s.keyOf sp g (addr l) size).getD 0
    let word := fun l i => if size = 8 then r.readPair (b.toNat + 2 * i) l else (r.read (b.toNat + i) l).toNat
    let lanes := (lanesOf c.lanes).map (fun l => ({
      lane := l, addr := key l, arg := if op = .cas then word l 1 else word l 0, cmp := if op = .cas then word l 0 else 0, st := .sent } : LaneAcc))
    let other := lanes.filter (fun x => decide (sp = .scratch ∨ x.addr / 2 ^ 21 ≠ coreKey g.die g.core))
    let late := accessLate s sp c g addr size none
    let st := (if returns then flagStall c g f else none) <|> accessStall s sp g (lanes.map (·.addr)) size true <|>
      lineStall s g (accLines other).length
    let dests := if returns ∧ vq < 24 then (if size = 8 then [4 * vq, 4 * vq + 1] else [4 * vq]) ++ [4 * vq + 2, 4 * vq + 3] else []
    let o : Opnds := { reads := a.toNat :: codes, dests := dests, first := relOf a.toNat, second := codes.filter (fun x => decide (x < 96))
                       bases := baseOf codes, sends := true }
    issueIns s c g o early none late st fun s =>
      let x : MemOp := {
        kind := .atomic op, g := c.g, die := g.die, core := g.core, team := g.team, grid := g.grid, space := sp,
        flag := slotFlag (c.head g) (f = 1), dst := 4 * vq, size := size, lanes := lanes, ins := insInfo c g }
      match sp with
      | .scratch =>
        let (k, s) := if returns then s.startOp c dests c.lanes x else (0, s)
        s.sendLines c.g g c.lanes k (.atomic op) size lanes
      | _ => s.sendTeam c g x dests returns

/-- ATOMIC_COMPLETE: the old values and witnesses are written (R117). The latch keeps its value; DESIGN CHOICE (log 120). -/
def execAtomicComplete (op : Nat) (s : State) : Out :=
  match Map.find s.memOps op with
  | none => .next s
  | some o =>
    let lane := fun l => (o.lanes.find? (fun a => decide (a.lane = l))).getD { lane := l, addr := 0 }
    .next (s.endOp op o (fun g =>
      let g := g.land op o.dst (fun l => BitVec.ofNat 32 (lane l).val)
      let g := if o.size = 8 then g.land op (o.dst + 1) (fun l => BitVec.ofNat 32 ((lane l).val / 2 ^ 32)) else g
      (g.land op (o.dst + 2) (fun l => (lane l).wout.extractLsb' 0 32)).land op (o.dst + 3) (fun l => (lane l).wout.extractLsb' 32 32)))

def execAtsAdd (f : BitVec 1) (b a : BitVec 7) (q : BitVec 5) (s : State) : Out := atomicOp .scratch .add 4 f b a q s
def execAtsAdd64 (f : BitVec 1) (b a : BitVec 7) (q : BitVec 5) (s : State) : Out := atomicOp .scratch .add 8 f b a q s
def execAtsMins (f : BitVec 1) (b a : BitVec 7) (q : BitVec 5) (s : State) : Out := atomicOp .scratch .mins 4 f b a q s
def execAtsMaxs (f : BitVec 1) (b a : BitVec 7) (q : BitVec 5) (s : State) : Out := atomicOp .scratch .maxs 4 f b a q s
def execAtsMinn (f : BitVec 1) (b a : BitVec 7) (q : BitVec 5) (s : State) : Out := atomicOp .scratch .minn 4 f b a q s
def execAtsMaxn (f : BitVec 1) (b a : BitVec 7) (q : BitVec 5) (s : State) : Out := atomicOp .scratch .maxn 4 f b a q s
def execAtsAnd (f : BitVec 1) (b a : BitVec 7) (q : BitVec 5) (s : State) : Out := atomicOp .scratch .and 4 f b a q s
def execAtsOr (f : BitVec 1) (b a : BitVec 7) (q : BitVec 5) (s : State) : Out := atomicOp .scratch .or 4 f b a q s
def execAtsXor (f : BitVec 1) (b a : BitVec 7) (q : BitVec 5) (s : State) : Out := atomicOp .scratch .xor 4 f b a q s
def execAtsExch (f : BitVec 1) (b a : BitVec 7) (q : BitVec 5) (s : State) : Out := atomicOp .scratch .exch 4 f b a q s
def execAtsExch64 (f : BitVec 1) (b a : BitVec 7) (q : BitVec 5) (s : State) : Out := atomicOp .scratch .exch 8 f b a q s
def execAtsCas (f : BitVec 1) (b a : BitVec 7) (q : BitVec 5) (s : State) : Out := atomicOp .scratch .cas 4 f b a q s
def execAtsCas64 (f : BitVec 1) (b a : BitVec 7) (q : BitVec 5) (s : State) : Out := atomicOp .scratch .cas 8 f b a q s
def execAtsIncw (f : BitVec 1) (b a : BitVec 7) (q : BitVec 5) (s : State) : Out := atomicOp .scratch .incw 4 f b a q s
def execAtsFadd (f : BitVec 1) (b a : BitVec 7) (q : BitVec 5) (s : State) : Out := atomicOp .scratch .fadd 4 f b a q s
def execAtsFaddb2 (f : BitVec 1) (b a : BitVec 7) (q : BitVec 5) (s : State) : Out := atomicOp .scratch .faddb2 4 f b a q s
def execAtsFmin (f : BitVec 1) (b a : BitVec 7) (q : BitVec 5) (s : State) : Out := atomicOp .scratch .fmin 4 f b a q s
def execAtsFmax (f : BitVec 1) (b a : BitVec 7) (q : BitVec 5) (s : State) : Out := atomicOp .scratch .fmax 4 f b a q s
def execAttAdd (f : BitVec 1) (b a : BitVec 7) (q : BitVec 5) (s : State) : Out := atomicOp .team .add 4 f b a q s
def execAttAdd64 (f : BitVec 1) (b a : BitVec 7) (q : BitVec 5) (s : State) : Out := atomicOp .team .add 8 f b a q s
def execAttMins (f : BitVec 1) (b a : BitVec 7) (q : BitVec 5) (s : State) : Out := atomicOp .team .mins 4 f b a q s
def execAttMaxs (f : BitVec 1) (b a : BitVec 7) (q : BitVec 5) (s : State) : Out := atomicOp .team .maxs 4 f b a q s
def execAttMinn (f : BitVec 1) (b a : BitVec 7) (q : BitVec 5) (s : State) : Out := atomicOp .team .minn 4 f b a q s
def execAttMaxn (f : BitVec 1) (b a : BitVec 7) (q : BitVec 5) (s : State) : Out := atomicOp .team .maxn 4 f b a q s
def execAttAnd (f : BitVec 1) (b a : BitVec 7) (q : BitVec 5) (s : State) : Out := atomicOp .team .and 4 f b a q s
def execAttOr (f : BitVec 1) (b a : BitVec 7) (q : BitVec 5) (s : State) : Out := atomicOp .team .or 4 f b a q s
def execAttXor (f : BitVec 1) (b a : BitVec 7) (q : BitVec 5) (s : State) : Out := atomicOp .team .xor 4 f b a q s
def execAttExch (f : BitVec 1) (b a : BitVec 7) (q : BitVec 5) (s : State) : Out := atomicOp .team .exch 4 f b a q s
def execAttExch64 (f : BitVec 1) (b a : BitVec 7) (q : BitVec 5) (s : State) : Out := atomicOp .team .exch 8 f b a q s
def execAttCas (f : BitVec 1) (b a : BitVec 7) (q : BitVec 5) (s : State) : Out := atomicOp .team .cas 4 f b a q s
def execAttCas64 (f : BitVec 1) (b a : BitVec 7) (q : BitVec 5) (s : State) : Out := atomicOp .team .cas 8 f b a q s
def execAttIncw (f : BitVec 1) (b a : BitVec 7) (q : BitVec 5) (s : State) : Out := atomicOp .team .incw 4 f b a q s
def execAttFadd (f : BitVec 1) (b a : BitVec 7) (q : BitVec 5) (s : State) : Out := atomicOp .team .fadd 4 f b a q s
def execAttFaddb2 (f : BitVec 1) (b a : BitVec 7) (q : BitVec 5) (s : State) : Out := atomicOp .team .faddb2 4 f b a q s
def execAttFmin (f : BitVec 1) (b a : BitVec 7) (q : BitVec 5) (s : State) : Out := atomicOp .team .fmin 4 f b a q s
def execAttFmax (f : BitVec 1) (b a : BitVec 7) (q : BitVec 5) (s : State) : Out := atomicOp .team .fmax 4 f b a q s

/-! ### SPILL and FILL (R119) -/

/-- The checks of SPILL and FILL (R119). DESIGN CHOICE (log 119): R119's range is all that is asked of the base, not R30's multiple of the block
size. -/
def splChecks (s : State) (g : Group) (n sl b : Nat) : Option FaultInfo :=
  failIf (decide (b > 95 ∨ b + n > 96)) illegalOperand <|> failIf (decide (sl + n > (s.gridAt g.grid).slots)) illegalOperand

def execSpill (n : BitVec 3) (sl : BitVec 12) (b : BitVec 7) (s : State) : Out :=
  atIssue s fun c g =>
    let cnt := n.toNat + 1
    let codes := if b.toNat + cnt ≤ 96 then block b.toNat cnt else []
    let early := travelIllegal s g <|> splChecks s g cnt sl.toNat b.toNat
    issueIns s c g { whole := codes, first := codes, bases := baseOf codes, sends := true } early none none
      (if s.spillRoom g.die cnt then none else some .homeLead) fun s =>
      let r := c.view g
      let s := (upto 0 cnt).foldl (fun s i => s.spillWrite g (s.spillBase g + 128 * (sl.toNat + i)) (r.bytes (b.toNat + i))) s
      s.modGroup c.g (fun y => { y with spillWritten := y.spillWritten ++ (upto sl.toNat cnt).filter (fun x => !y.spillWritten.contains x) })

/-- FILL: the slot's words are those of the group's last earlier SPILL to it, or zero (R119). -/
def execFill (f : BitVec 1) (n : BitVec 3) (sl : BitVec 12) (b : BitVec 7) (s : State) : Out :=
  atIssue s fun c g =>
    let cnt := n.toNat + 1
    let codes := if b.toNat + cnt ≤ 96 then block b.toNat cnt else []
    let early := flagFault c g f <|> travelIllegal s g <|> splChecks s g cnt sl.toNat b.toNat
    issueIns s c g { dests := codes } early none none (flagStall c g f) fun s =>
      let (vals, s) := (upto 0 cnt).foldl (fun (p : List Nat × State) i =>
        if g.spillWritten.contains (sl.toNat + i) then
          let (x, s) := p.2.spillRead g (p.2.spillBase g + 128 * (sl.toNat + i)) 128
          (p.1 ++ [x], s)
        else (p.1 ++ [0], p.2)) ([], s)
      let op : MemOp := {
        kind := .fill, g := c.g, die := g.die, core := g.core, team := g.team, grid := g.grid, space := .hbm,
        flag := slotFlag (c.head g) (f = 1), dst := b.toNat, size := cnt,
        lanes := (upto 0 cnt).map (fun i => ({ lane := i, addr := 0, st := .done, val := vals.getD i 0 } : LaneAcc)), ins := insInfo c g }
      let (k, s) := s.startOp c codes 0xFFFFFFFF op
      s.send 0 4 (.fillComplete k)

/-- FILL_COMPLETE: the registers arrive in every lane. The latch keeps its value; DESIGN CHOICE (log 120). -/
def execFillComplete (op : Nat) (s : State) : Out :=
  match Map.find s.memOps op with
  | none => .next s
  | some o =>
    .next (s.endOp op o (fun g =>
      o.lanes.foldl (fun g a => g.land op (o.dst + a.lane) (fun l => BitVec.ofNat 32 (a.val / 2 ^ (32 * l)))) g))

/-! ### PREF (R120) -/

/-- The lines a PREF asks for, within the partition. -/
def prefLines (s : State) (c : Issue) (g : Group) (n a : Nat) : List Nat :=
  (lanesOf c.lanes).flatMap (fun l =>
    (upto 0 n).filterMap (fun i => (s.scratchAddr g (((c.view g).read a l).toNat / 128 * 128 + 128 * i) 1).map lineOf))

def pref (ro : Bool) (n : BitVec 6) (a : BitVec 7) (s : State) : Out :=
  atIssue s fun c g =>
    issueIns s c g { reads := [a.toNat], first := relOf a.toNat } none none none none fun s =>
      (prefLines s c g (n.toNat + 1) a.toNat).foldl (fun s line =>
        let x := s.coreAt (coreKey g.die g.core)
        if x.lineUsed ≥ Config.lineRequests then s
        else if ro then
          (if (Map.find x.ro (roKey g.grid line)).isSome then s else s.sendRoMiss g.die g.core line g.grid)
        else if (Map.find x.l1 line).isSome then s
        else s.sendMiss g.die g.core line) s

def execPrefL1 (n : BitVec 6) (a : BitVec 7) (s : State) : Out := pref false n a s
def execPrefRo (n : BitVec 6) (a : BitVec 7) (s : State) : Out := pref true n a s

end Sys2Proof.Machine
end

