-- ==== Sys2Proof/Machine/Coherence.lean ====
section
/-!
DEFINITION. The device events of the die's memory protocol (R98 to R108): slices and their directories, window accesses,
invalidations and their acknowledgements, peer probes, registrations and fills.
-/
namespace Sys2Proof.Machine

/-- Takes a mesh message out of flight. -/
def State.takeMesh (s : State) (n : Nat) : Option MeshMsg × State := (Map.find s.mesh n, { s with mesh := Map.erase s.mesh n })

/-- Sends an invalidation of a line to a core, with the hold on the home's visible count that it stands for (R105, R107). -/
def State.sendInval (s : State) (die line core home count : Nat) : State :=
  let (h, s) := s.newId
  ((s.modDie die (fun d => { d with holds := Map.put d.holds h { home := home, count := count, core := core, line := line } })).tallyDie
      die (sliceUnit (line % 24)) .invalidations 1).sendMesh
    (coherenceChan die (sliceNode line) core) 5 (.inval die core line h) .l1Invalidation

/-- A writer that has forwarded the line, and whose forward the slice has not confirmed, gets no invalidation, so it withholds no
acknowledgement: the count it was given stays invisible until the confirmation all the same, for the copy it gave away is older (R107, R195).
DEDUCED (log 114). -/
def State.holdWriter (s : State) (die line core home count : Nat) : State :=
  if core < 24 ∧ Map.get (s.coreAt (coreKey die core)).forwards 0 line > 0 then
    let (h, s) := s.newId
    (s.modDie die (fun d => { d with holds := Map.put d.holds h { home := home, count := count, core := core, line := line } })).modCore
      (coreKey die core) (fun c => { c with withheld := c.withheld ++ [(line, h)] })
  else s

/-- Gives a write of `core` to a line its count (R105): lastw, and an invalidation to every recorded sharer but the writer. -/
def State.countSliceWrite (s : State) (die core line : Nat) : Nat × State :=
  let home := line % 24
  let (q, d) := (s.die die).giveCount home
  let e := Map.get d.dir {} line
  let others := (upto 0 24).filter (fun c => e.sharers.getLsbD c && decide (c ≠ core))
  let left := others.foldl (fun m c => m &&& ~~~ (1#24 <<< c)) e.sharers
  let s := s.setDie die { d with dir := Map.put d.dir line { sharers := left, lastw := q } }
  let s := (others.foldl (fun s c => s.sendInval die line c home q) s).holdWriter die line core home q
  (q, s.modDie die (fun d => d.advanceVisible home))

/-- Performs the lanes of a write or atomic message at its slice, lane by lane (R114), and answers with their counts. -/
def State.sliceLanes (s : State) (die core line op size wrec : Nat) (kind : OpKind) (l : List LaneAcc) : State :=
  let home := line % 24
  let (done, s) := l.foldl (fun (p : List LaneAcc × State) a =>
    let (b, s) := p.2.performLane .scratch die home size kind a (fun s => s.countSliceWrite die core line)
    (p.1 ++ [b], s)) ([], s)
  s.sendMesh (responseChan die (sliceNode line) core) 5
    (.answer die core (some line) op ((s.die die).givenOf home) (Map.get (s.die die).dir {} line).lastw done wrec) .storeAnswer

/-- How many lanes of an atomic take their value from the result-forwarding buffer: those on the word of the lane before (R100). -/
def forwardedLanes : List LaneAcc → Nat
  | a :: b :: l => (if a.addr / 4 = b.addr / 4 then 1 else 0) + forwardedLanes (b :: l)
  | _ => 0

/-! ### Waiting at a home (R100, R190) -/

/-- The messages that wait at a home, in the order of their arrival. -/
def Die.waitingAt (d : Die) (home : Nat) : List Nat := Map.get d.homeWait [] home
def State.setWaiting (s : State) (die home : Nat) (l : List Nat) : State := s.modDie die (fun d => { d with homeWait := Map.set d.homeWait [] home l })

/-- The event by which a message is performed at its home. -/
def State.homeEvent (s : State) (msg : Nat) : Ev :=
  match Map.find s.mesh msg with
  | some (.atomic ..) => .sliceAtomic msg
  | some (.read ..) => .sliceRead msg
  | some (.window ..) => .teamMemoryWindowAccess msg
  | _ => .sliceWrite msg

/-- A message at its home: it is performed when those that came before it have been and the home has room for its counts; otherwise it
waits in the order of arrival, and the first that waits tries again in the next clock. -/
def State.atHome (s : State) (die home msg : Nat) (room : Bool) (perform : State → State) : State :=
  let q := (s.die die).waitingAt home
  if (q = [] ∨ q.head? = some msg) ∧ room then
    let s := perform (s.setWaiting die home (q.drop 1))
    match q.drop 1 with
    | m :: _ => s.at_ s.now 0 (s.homeEvent m)
    | [] => s
  else
    let s := if q.contains msg then s else s.setWaiting die home (q ++ [msg])
    if q = [] ∨ q.head? = some msg then s.at_ (s.now + 1) 0 (s.homeEvent msg) else s

/-- SLICE_WRITE: a write waits while its home's counts are too far ahead (R190), and behind what waits there (R100). -/
def execSliceWrite (msg : Nat) (s : State) : Out :=
  match s.takeMesh msg with
  | (some (.write die core line op l size w), _) =>
    .next (s.atHome die (line % 24) msg (s.homeRoom die (line % 24) l.length)
      (fun s => (s.takeMesh msg).2.sliceLanes die core line op size w .store l))
  | (_, _) => .next s

/-- SLICE_ATOMIC: reads, operates and writes indivisibly, lane by lane (R100, R117). -/
def execSliceAtomic (msg : Nat) (s : State) : Out :=
  match s.takeMesh msg with
  | (some (.atomic die core line op kind l size w), _) =>
    .next (s.atHome die (line % 24) msg (s.homeRoom die (line % 24) l.length)
      (fun s => (((s.takeMesh msg).2.sliceLanes die core line op size w (.atomic kind) l).tallyDie die (sliceUnit (line % 24)) .atomics l.length).tallyDie
        die (sliceUnit (line % 24)) .forwardedAtomics (forwardedLanes l)))
  | (_, _) => .next s

/-- A core that reads a line anew stands in its directory entry for good: an acknowledgement still to come of the line's eviction no longer
takes it out (R105). -/
def Die.rerecord (d : Die) (line core : Nat) : Die :=
  let e := Map.get d.dir {} line
  { d with
    holds := d.holds.filter (fun x => !decide (x.2.count = 0 ∧ x.2.line = line ∧ x.2.core = core))
    dir := Map.put d.dir line { e with sharers := e.sharers ||| (1#24 <<< core) } }

/-- SLICE_READ: the slice returns the line with its stamp and records the core as a sharer; a read for the read-only cache
records none (R106, R109). -/
def execSliceRead (msg : Nat) (s : State) : Out :=
  match s.takeMesh msg with
  | (some (.read die core line ro), _) =>
    .next (s.atHome die (line % 24) msg true (fun s =>
      let s := (s.takeMesh msg).2
      let e := Map.get (s.die die).dir {} line
      let hint := (upto 0 24).find? (fun c => e.sharers.getLsbD c && decide (c ≠ core))
      let s : State := match ro with
        | some _ => s
        | none => s.modDie die (fun d => d.rerecord line core)
      s.sendMesh (responseChan die (sliceNode line) core) 5 (.fill die core line (s.lineData die line) e.lastw none hint ro) .l1Fill))
  | (_, s) => .next s

/-- STORE_ANSWER: the counts of a store, an atomic or a window access reach the issuing core, and its line request frees
(R106, R335). -/
def execStoreAnswer (msg : Nat) (s : State) : Out :=
  match s.takeMesh msg with
  | (some (.answer die core line op count stamp l w), s) =>
    let s := s.modCore (coreKey die core) (fun c =>
      let c : Core := { c with lineUsed := c.lineUsed - 1 }
      match line with
      | none => c
      | some x =>
        let n := Map.get c.unanswered 0 x - 1
        { c with
          unanswered := if n = 0 then Map.erase c.unanswered x else Map.put c.unanswered x n
          ownWrites := Map.put c.ownWrites x (max count (Map.get c.ownWrites 0 x)) }.saw x stamp)
    let s : State := { s with wrecs := Map.modify s.wrecs w (fun r => { r with count := some count }) }
    let s := (s.opLanes op l).checkOp op
    let s : State := match line, Map.find s.memOps op with
      | none, some o => l.foldl (fun s a => s.reportEcc o.g o.ins .team a.addr o.size) s
      | _, _ => s
    .next (s.retryOps die core)
  | (_, s) => .next s

/-- TEAM_MEMORY_WINDOW_ACCESS: performed at the member core in lane order and counted there (R98), after what waits there. -/
def execTeamMemoryWindowAccess (msg : Nat) (s : State) : Out :=
  match s.takeMesh msg with
  | (some (.window die core dst op kind l size w), _) =>
    let home := coreHome dst
    .next (s.atHome die home msg (kind.isLoad || s.homeRoom die home l.length) (fun s =>
      let (done, s) := l.foldl (fun (p : List LaneAcc × State) a =>
        let (b, s) := p.2.performLane .team die home size kind a (fun s => s.countWrite die home)
        (p.1 ++ [b], s)) ([], (s.takeMesh msg).2)
      s.sendMesh (responseChan die dst core) 5 (.answer die core none op ((s.die die).givenOf home) 0 done w) .storeAnswer))
  | (_, _) => .next s

/-- Sends an acknowledgement of an invalidation to its slice. -/
def State.sendAck (s : State) (die core line hold : Nat) : State :=
  s.sendMesh (coherenceChan die core (sliceNode line)) 5 (.ack die hold) .invalidationAck

/-- L1_INVALIDATION: the copy becomes Invalid; the acknowledgement goes once it is, but is withheld while a forward of the
line is unconfirmed (R105, R107, R108). -/
def execL1Invalidation (msg : Nat) (s : State) : Out :=
  match s.takeMesh msg with
  | (some (.inval die core line hold), s) =>
    let ck := coreKey die core
    let c := s.coreAt ck
    let s := s.setCore ck (c.dropOwn line)
    if Map.get c.forwards 0 line > 0 then .next (s.modCore ck (fun c => { c with withheld := c.withheld ++ [(line, hold)] }))
    else
      match Map.find c.l1 line with
      | some (.pending _ a) => .next (s.modCore ck (fun c => { c with l1 := Map.put c.l1 line (.pending true (a ++ [hold])) }))
      | _ => .next (s.sendAck die core line hold)
  | (_, s) => .next s

/-- INVALIDATION_ACK: the hold ends, and the home's visible count may advance (R105); the acknowledgement of an eviction's
invalidation removes the sharer, unless it has read the line anew meanwhile (Die.rerecord). -/
def execInvalidationAck (msg : Nat) (s : State) : Out :=
  match s.takeMesh msg with
  | (some (.ack die hold), s) =>
    let d := s.die die
    match Map.find d.holds hold with
    | none => .next s
    | some h =>
      let d := { d with holds := Map.erase d.holds hold }
      if h.count = 0 then
        let e := Map.get d.dir {} h.line
        .next (s.setDie die { d with dir := Map.put d.dir h.line { e with sharers := e.sharers &&& ~~~ (1#24 <<< h.core) } })
      else .next (s.setDie die (d.advanceVisible h.home))
  | (_, s) => .next s

/-- PEER_PROBE: a Shared copy is forwarded with its stamp and kept; otherwise the probe is refused (R107). A copy older than what the
requester has observed of the line would turn its loads back (R112, R197): it is refused too; DEDUCED (log 114). -/
def execPeerProbe (msg : Nat) (s : State) : Out :=
  match s.takeMesh msg with
  | (some (.probe die core line peer least), s) =>
    let pk := coreKey die peer
    match Map.find (s.coreAt pk).l1 line with
    | some (.shared d stamp) =>
      if stamp < least then .next (s.sendMesh (coherenceChan die peer core) 5 (.refusal die core line) .probeRefusal)
      else
        .next (((s.modCore pk (fun c => { c with forwards := Map.put c.forwards line (Map.get c.forwards 0 line + 1) })).tallyCore pk .peerForwards 1).sendMesh
          (coherenceChan die peer core) 5 (.fill die core line d stamp (some peer) none none) .l1Fill)
    | _ => .next (s.sendMesh (coherenceChan die peer core) 5 (.refusal die core line) .probeRefusal)
  | (_, s) => .next s

/-- PROBE_REFUSAL: the core asks the slice (R106). -/
def execProbeRefusal (msg : Nat) (s : State) : Out :=
  match s.takeMesh msg with
  | (some (.refusal die core line), s) =>
    .next (s.sendMesh (requestChan die core (sliceNode line)) (10 + core) (.read die core line none) .sliceRead)
  | (_, s) => .next s

/-- SHARER_REGISTRATION: the slice records the requester, invalidates it where the stamp is old, and confirms (R107). -/
def execSharerRegistration (msg : Nat) (s : State) : Out :=
  match s.takeMesh msg with
  | (some (.register die core line peer stamp), s) =>
    let d := s.die die
    let e := Map.get d.dir {} line
    let home := line % 24
    let s := s.setDie die (d.rerecord line core)
    let s := if stamp < e.lastw then s.sendInval die line core home (max (stamp + 1) (d.visibleOf home + 1)) else s
    .next (s.sendMesh (responseChan die (sliceNode line) peer) 5 (.confirm die peer line) .registrationConfirm)
  | (_, s) => .next s

/-- REGISTRATION_CONFIRM: with its last forward confirmed, the peer sends the acknowledgements it withheld, unless a fill of
its own is still outstanding (R107, R108). -/
def execRegistrationConfirm (msg : Nat) (s : State) : Out :=
  match s.takeMesh msg with
  | (some (.confirm die peer line), s) =>
    let pk := coreKey die peer
    let c := s.coreAt pk
    let n := Map.get c.forwards 0 line - 1
    if n > 0 then .next (s.setCore pk { c with forwards := Map.put c.forwards line n })
    else
      let holds := (c.withheld.filter (fun e => decide (e.1 = line))).map (·.2)
      let c : Core := { c with forwards := Map.erase c.forwards line, withheld := c.withheld.filter (fun e => decide (e.1 ≠ line)) }
      match Map.find c.l1 line with
      | some (.pending k a) =>
        if holds = [] then .next (s.setCore pk c)
        else .next (s.setCore pk { c with l1 := Map.put c.l1 line (.pending (k || true) (a ++ holds)) })
      | _ => .next (holds.foldl (fun s h => s.sendAck die peer line h) (s.setCore pk c))
  | (_, s) => .next s

/-- Gives fill data to the lanes that wait for a line. -/
def State.serve (s : State) (die core line : Nat) (ro : Option Nat) (d : BitVec 1024) : State :=
  let waits := fun (o : MemOp) (a : LaneAcc) =>
    decide (a.st = .waitLine ∧ o.die = die ∧ o.core = core ∧ o.space = .scratch ∧ lineOf a.addr = line) &&
    (match ro with
      | some grid => decide (a.arg = 1 ∧ o.grid = grid)
      | none => decide (a.arg = 0))
  let hit := (s.memOps.filter (fun e => e.2.lanes.any (waits e.2))).map (·.1)
  hit.foldl (fun s k =>
    let s : State := { s with memOps := Map.modify s.memOps k (fun o => { o with
      lanes := o.lanes.map (fun a => if waits o a then { a with st := .done, val := lineBytes d a.addr o.size } else a) }) }
    let s : State := match Map.find s.memOps k with
      | some o => o.lanes.foldl (fun (s : State) a => if lineOf a.addr = line then s.reportEcc o.g o.ins .scratch a.addr o.size else s) s
      | none => s
    s.checkOp k) s

/-- L1_FILL: the data serves the loads that wait; the line is then Shared, or Invalid where an invalidation or an own store
met it; a forwarded line is registered at its slice (R104, R107, R108). -/
def execL1Fill (msg : Nat) (s : State) : Out :=
  match s.takeMesh msg with
  | (some (.fill die core line d stamp peer hint ro), s) =>
    let ck := coreKey die core
    let s := s.modCore ck (fun c => { c with lineUsed := c.lineUsed - 1 })
    match ro with
    | some grid => .next (((s.modCore ck (fun c => (c.holdRo (roKey grid line) d).sawRo line stamp)).serve die core line ro d).retryOps die core)
    | none =>
      let old := Map.find (s.coreAt ck).l1 line
      let s := (s.modCore ck (fun c => (c.train line hint).saw line stamp)).serve die core line none d
      let s : State := match peer with
        | some p => s.sendMesh (requestChan die core (sliceNode line)) (10 + core) (.register die core line p stamp) .sharerRegistration
        | none => s
      let s : State := match old with
        | some (.pending true a) =>
          a.foldl (fun s h => s.sendAck die core line h) (s.modCore ck (fun c => { c with l1 := Map.erase c.l1 line }))
        | _ => s.modCore ck (fun c => c.hold line d stamp)
      .next (s.retryOps die core)
  | (_, s) => .next s

/-- DIRECTORY_EVICTION: the directory invalidates every sharer of a line; an entry without sharers is evicted (R105), and
keeps only the count of the line's last write, from which stamps are made (R104). -/
def execDirectoryEviction (die line : Nat) (s : State) : Out :=
  let e := Map.get (s.die die).dir {} line
  let l := (upto 0 24).filter (fun c => e.sharers.getLsbD c)
  .next (l.foldl (fun s c => s.sendInval die line c 99 0) s)

end Sys2Proof.Machine
end

