-- ==== Sys2Proof/Machine/Witness.lean ====
section
/-!
DEFINITION. The instructions on witnesses (R198 to R201), the waking of threads parked on them, and the settling of
tickets (R194).
-/
namespace Sys2Proof.Machine

/-- The tickets an instruction needs that are not free now (R193). -/
def ticketStall (s : State) (g : Group) (n : Nat) : Option Stall :=
  if n ≤ s.freeTickets (coreKey g.die g.core) then none else some (.tickets n)

def mergeFault : Merged → Option (FaultClass × Wit)
  | .fault c w => some (c, w)
  | _ => none

/-- The fault of a merge made lane by lane, the lowest lane reported (R199). -/
def laneMergeFault (m : Lanes) (f : Nat → Merged) : Option FaultInfo :=
  laneFault m (fun l => (mergeFault (f l)).isSome)
    (fun l => match f l with
      | .fault c w => { cls := c, aux := w.toNat }
      | _ => illegalOperand)

/-- WMERGE (R199): the tickets are taken lane by lane in increasing order. -/
def execWmerge (g : BitVec 3) (b a d : BitVec 6) (s : State) : Out :=
  atIssue s fun c gr =>
    let r := c.view gr
    let m := guardLanes c gr g.toNat
    let inc := (s.die gr.die).inc
    let merge := fun l => mergeSet gr.die gr.core inc [r.wit a.toNat l, r.wit b.toNat l]
    let o : Opnds := (({ preds := [g.toNat], dests := if d.toNat < 48 then witCodes d.toNat else [] } : Opnds).presentIn m a.toNat).presentIn m b.toNat
    issueIns s c gr o none (failIf (decide (d.toNat ≥ 48)) illegalOperand) (laneMergeFault m merge)
      (ticketStall s gr ((lanesOf m).foldl (fun n l => n + (merge l).need) 0)) fun s =>
      let (ws, s) := (lanesOf m).foldl (fun (p : List (Nat × Wit) × State) l =>
        let (w, s) := p.2.finishMerge (coreKey gr.die gr.core) gr.ctx (merge l)
        (p.1 ++ [(l, w)], s)) ([], s)
      s.modGroup c.g (fun y => y.writeWit d.toNat m (fun l => match ws.find? (fun e => decide (e.1 = l)) with
        | some e => e.2
        | none => 0))

/-- The contributing lanes that fail in a merge over lanes: those that R189 faults, or the members that do not combine, DEDUCED (log 100). -/
def mergeLanes (die : Nat) (cls : FaultClass) (m : Lanes) (w : Nat → Wit) : Lanes :=
  maskOf (fun l => m.getLsbD l && (if cls = .witnessCombine then decide (w l ≠ 0) else (witFault die true (w l)).isSome))

/-- WREDUCE (R200). -/
def execWreduce (g : BitVec 3) (a d : BitVec 6) (s : State) : Out :=
  atIssue s fun c gr =>
    let r := c.view gr
    let m := guardLanes c gr g.toNat
    let merged := mergeSet gr.die gr.core (s.die gr.die).inc ((lanesOf m).map (r.wit a.toNat))
    let late := (mergeFault merged).map (fun e => { cls := e.1, aux := e.2.toNat, lanes := mergeLanes gr.die e.1 m (r.wit a.toNat) })
    let o : Opnds := ({ preds := [g.toNat] } : Opnds).presentIn m a.toNat
    issueIns s c gr o none (failIf (decide (d.toNat < 48 ∨ d.toNat > 62 ∨ a.toNat = 63)) illegalOperand) late
      (ticketStall s gr merged.need) fun s =>
      let (w, s) := s.finishMerge (coreKey gr.die gr.core) gr.ctx merged
      s.modGroup c.g (fun y => y.writeWit d.toNat c.lanes (fun _ => w))

/-- The writes that a drain requirement of a group names (R201): those not known to be visible. -/
def State.drainOf (s : State) (k : Nat) : List Nat := (s.wrecs.filter (fun e => e.2.groups.contains k)).map (·.1)

/-- WALL (R201): one ticket with a drain requirement. -/
def execWall (d : BitVec 6) (s : State) : Out :=
  atIssue s fun c g =>
    let o : Opnds := { dests := witCodes d.toNat }
    issueIns s c g o none (failIf (decide (d.toNat = 63)) illegalOperand) none (ticketStall s g 1) fun s =>
      let ck := coreKey g.die g.core
      let (t, s) := s.takeTicket ck { drain := s.drainOf c.g, ctx := g.ctx }
      let w := frontierWit g.die (s.die g.die).inc g.core t
      s.modGroup c.g (fun y => y.writeWit d.toNat c.lanes (fun _ => w))

/-- WWAIT (R201): completes when every active lane's witness is satisfied, else the path parks until all are. -/
def execWwait (a : BitVec 6) (s : State) : Out :=
  atIssue s fun c g =>
    let wit := fun l => (c.view g).wit a.toNat l
    let late := presentFault g.die true c.lanes wit <|> fallFault s c g
    issueIns s c g (({} : Opnds).present a.toNat) none (failIf (decide (a.toNat = 63)) illegalOperand) late none
      (fun s =>
        if (lanesOf c.lanes).all (fun l => s.satisfied g.die g.core (wit l)) then
          s.modGroup c.g (fun x => x.advance (s.gridAt g.grid) c)
        else
          let t := c.head g
          let (set, s) := s.newId
          s.modGroup c.g (fun x => (lanesOf c.lanes).foldl (fun x l => x.park (laneBit l) (.witness (wit l) set) t.clause t.cpos)
            (x.advance (s.gridAt g.grid) c))) true

/-- WTEST (R201): judged in its issue clock. -/
def execWtest (p : BitVec 3) (a : BitVec 6) (s : State) : Out :=
  atIssue s fun c g =>
    let wit := fun l => (c.view g).wit a.toNat l
    issueIns s c g (({} : Opnds).present a.toNat) none (failIf (decide (a.toNat = 63)) illegalOperand)
      (presentFault g.die true c.lanes wit) none fun s =>
      s.modGroup c.g (fun y => y.writePred p.toNat c.lanes (maskOf (fun l => s.satisfied g.die g.core (wit l))))

/-! ### Waking (R201, R277) -/

/-- Whether every thread of a set of threads parked on witnesses has a satisfied one. -/
def State.setSatisfied (s : State) (g : Group) (set : Nat) : Bool :=
  g.threads.all (fun t => match t.2.park with
    | .witness w n => decide (n ≠ set) || s.satisfied g.die g.core w
    | _ => true)

def State.wakes (s : State) (g : Group) (t : Thread) : Bool :=
  match t.park with
  | .witness _ n => s.setSatisfied g n
  | _ => false

/-- WITNESS_WAKE: the threads of every set whose witnesses are all satisfied go on. -/
def execWitnessWake (g : Nat) (s : State) : Out :=
  let gr := s.groupAt g
  if gr.set = .halted ∨ gr.saved then .next s else .next (s.unpark g (s.wakes gr))

/-! ### Tickets (R194) -/

/-- Whether a core's oldest ticket has its requirements. -/
def State.ticketDue (s : State) (ck : Nat) : Bool :=
  let c := s.coreAt ck
  match Map.find c.tickets (c.settled + 1) with
  | some t => s.ticketReady (ck / 24) (ck % 24) t
  | none => false

/-- TICKET_SETTLE: the oldest ticket settles and frees its entry. -/
def execTicketSettle (core : Nat) (s : State) : Out :=
  if s.ticketDue core then
    .next (s.modCore core (fun c => { c with tickets := Map.erase c.tickets (c.settled + 1), settled := c.settled + 1 }))
  else .next s

end Sys2Proof.Machine
end

