-- ==== Sys2Proof/Machine/Copy.lean ====
section
/-!
DEFINITION. Shape records and the copy and base-die commands (R70 to R94): the checks at issue, the movement of the data, faults
in HBM translation, retirement, and CPYX.
-/
namespace Sys2Proof.Machine

/-! ### Shape records (R36, R37, R78 to R80) -/

/-- Halfword i of the shape words. -/
def halfword (h : BitVec 128) (i : Nat) : Nat := (h.extractLsb' (16 * i) 16).toNat

/-- The scalars that markers name (R37). -/
def markers (h : BitVec 128) : List Nat :=
  (upto 0 8).filterMap (fun i => if halfword h i ≥ 0xFFC0 then some (halfword h i - 0xFFC0) else none)

/-- The eight fields after substitution (R37). -/
def shapeFields (h : BitVec 128) (r : Regs) : List Nat :=
  (upto 0 8).map (fun i => if halfword h i ≥ 0xFFC0 then (r.scalar (halfword h i - 0xFFC0)).toNat % 65536 else halfword h i)

/-- A shape record read under R78 and R79. -/
structure Shape where
  rank : Nat
  narrow : Bool
  elem : Nat
  pad : Nat
  shift : Nat
  e0 : Nat
  v0 : Nat
  v1 : Nat
  s1 : Nat
  s2 : Nat
  e1 : Nat
  e2 : Nat
  e3 : Nat
  packed : Bool
  swizzle : Nat
  fill : Nat
  reserved : Bool
  deriving DecidableEq, Repr

def shapeOf (l : List Nat) : Shape :=
  let h := fun i => l.getD i 0
  let rank := h 0 / 2 ^ 14 + 1
  { rank := rank, narrow := h 0 / 2 ^ 13 % 2 = 1, elem := h 0 / 2 ^ 10 % 8, pad := h 0 / 2 ^ 8 % 4, shift := h 0 / 16 % 16,
    e0 := h 1, v0 := h 2, v1 := h 3, s1 := h 4, s2 := h 5,
    e1 := if rank ≥ 2 then h 6 % 256 + 1 else 1, e2 := if rank ≥ 3 then h 6 / 256 + 1 else 1,
    e3 := if rank ≥ 4 then h 7 / 256 + 1 else 1,
    packed := h 7 / 16 % 2 = 1, swizzle := h 7 / 4 % 4, fill := h 7 % 4,
    reserved := decide (h 0 % 16 ≠ 0) || decide (h 7 / 32 % 8 ≠ 0) }

/-- Reserved values of h0 and h7 (R78); CONV ignores kind, elem and packed (R92). -/
def Shape.illegal (x : Shape) (conv : Bool) : Bool :=
  x.reserved || decide (x.pad ≥ 2) || decide (x.swizzle ≥ 2) || decide (x.fill = 3) ||
  (!conv && ((!x.narrow && decide (x.elem ≥ 5)) || (x.packed && !x.narrow)))

/-- Bits of an element on die, and of its slot in HBM, under a format. -/
structure Elem where
  bits : Nat
  hbm : Nat
  keep : Nat
  deriving DecidableEq, Repr

def Shape.elemOf (x : Shape) (fd : Word) : Elem :=
  if x.narrow then
    let d := descOf fd
    { bits := d.pitch, hbm := if x.packed then d.width else d.pitch, keep := d.width }
  else { bits := 8 * 2 ^ x.elem, hbm := 8 * 2 ^ x.elem, keep := 8 * 2 ^ x.elem }

/-- Bytes of a row on die (R80). -/
def Shape.pitch (x : Shape) (e : Elem) : Nat :=
  let n := x.e0 * e.bits / 8
  if x.pad = 1 then (n + 127) / 128 * 128 else n

/-- The offset in elements of a box index in HBM (R80). -/
def Shape.hbmOff (x : Shape) (i0 i1 i2 i3 : Nat) : Nat :=
  i0 + 2 ^ x.shift * (x.s1 * i1 + x.s2 * i2 + x.s2 * x.e2 * i3)

/-- The bit address on die of element i0 of a row, from a base in bytes. DESIGN CHOICE (log 85): the rows of GATH and RDCE, for which
R91 writes base + j × pitch + i0 × esz, take R80's XOR under swizzle 01 like every other row. -/
def Shape.dieBit (x : Shape) (e : Elem) (base row i0 : Nat) : Nat :=
  let b := i0 * e.bits
  let d := base + row * x.pitch e + b / 8
  let d := if x.swizzle = 1 then d ^^^ (row % 8 * 16) else d
  8 * d + b % 8

def Shape.inBounds (x : Shape) (i0 i1 : Nat) : Bool := decide (i0 < x.v0) && (decide (x.rank < 2) || decide (i1 < x.v1))

/-- Elements of a box. -/
def Shape.count (x : Shape) : Nat := x.e0 * x.e1 * x.e2 * x.e3

/-- The index in the box of a linear index. -/
def Shape.coords (x : Shape) (lin : Nat) : Nat × Nat × Nat × Nat :=
  (lin % x.e0, lin / x.e0 % x.e1, lin / x.e0 / x.e1 % x.e2, lin / x.e0 / x.e1 / x.e2)

/-! ### Moving the data -/

/-- How the movement of a command stands: the blocks it has written, and as `tail` the one that its last element wrote. -/
structure Move where
  s : State
  ok : Bool := true
  stop : Option (Nat × Bool) := none
  full : Bool := false
  blocks : List Nat := []
  tail : Option Nat := none
  flags : FFlags := 0

/-- n bits from a bit address of a memory. -/
def bitsAt (m : Map Byte) (key bit n : Nat) : Nat := readNat m key ((bit % 8 + n + 7) / 8) / 2 ^ (bit % 8) % 2 ^ n

/-- The bytes from a bit address with n bits replaced by x. -/
def withBits (m : Map Byte) (key bit n x : Nat) : List Byte :=
  let k := (bit % 8 + n + 7) / 8
  let old := readNat m key k
  let lo := 2 ^ (bit % 8)
  bytesOf k (old % lo + lo * (x % 2 ^ n) + old / (lo * 2 ^ n) * (lo * 2 ^ n))

/-- The memory key of a virtual byte address for a command's use of it; none stops the command. -/
def Move.place (m : Move) (x : Cmd) (va : Nat) (need : Need) : Nat × Move :=
  match m.s.translate (coreKey x.die x.core) x.die x.ctx (va % 2 ^ 48) need with
  | (.ok pa, s) => (hbmKey x.die pa, { m with s := s })
  | (.missing, s) => (0, { m with s := s, ok := false, stop := some (va % 2 ^ 48, true) })
  | (.prot, s) => (0, { m with s := s, ok := false, stop := some (va % 2 ^ 48, false) })

/-- Reads n bits of HBM from a virtual bit address; the last byte may lie on the next page. -/
def Move.hbmRead (m : Move) (x : Cmd) (bit n : Nat) : Nat × Move :=
  let last := (bit + n - 1) / 8
  let (k, m) := m.place x (bit / 8) .read
  if !m.ok then (0, m)
  else if last / 65536 = bit / 8 / 65536 then (bitsAt m.s.hbm k bit n, m)
  else
    let cut := last * 8 - bit
    let (j, m) := m.place x last .read
    (if m.ok then bitsAt m.s.hbm k bit cut + 2 ^ cut * bitsAt m.s.hbm j 0 (n - cut) else 0, m)

/-- Writes n bits of HBM at a virtual bit address. -/
def Move.hbmWrite (m : Move) (x : Cmd) (bit n v : Nat) : Move :=
  let last := (bit + n - 1) / 8
  let (k, m) := m.place x (bit / 8) .write
  if !m.ok then m
  else if last / 65536 = bit / 8 / 65536 then { m with s := m.s.store .hbm k (withBits m.s.hbm k bit n v) }
  else
    let cut := last * 8 - bit
    let (j, m) := m.place x last .write
    if m.ok then
      let s := m.s.store .hbm k (withBits m.s.hbm k bit cut v)
      { m with s := s.store .hbm j (withBits s.hbm j 0 (n - cut) (v / 2 ^ cut)) }
    else m

/-- The memory key of a byte on die, given as the program's address. -/
def Cmd.dieKey (x : Cmd) (s : State) (a : Nat) : Nat :=
  match x.space with
  | .scratch => scratchKey x.die ((s.ctxAt (ctxKey x.die x.ctx)).scratchBase * 2 ^ 20 + a)
  | _ => s.teamByte x.team a

def Move.dieRead (m : Move) (x : Cmd) (bit n : Nat) : Nat × Move :=
  let k := x.dieKey m.s (bit / 8)
  (bitsAt (m.s.memOf x.space) k bit n, { m with s := m.s.reportEcc x.g x.ins x.space k ((n + 7) / 8) })

def Move.dieWrite (m : Move) (x : Cmd) (bit n v : Nat) : Move :=
  let k := x.dieKey m.s (bit / 8)
  { m with s := m.s.store x.space k (withBits (m.s.memOf x.space) k bit n v) }

/-- Fill of an out-of-bounds element on die: zero bytes, all-ones bits, or skipped (R78); the bits of a narrow element above its
width stay zero (R57). -/
def Move.fillDie (m : Move) (x : Cmd) (fill bit : Nat) (e : Elem) : Move :=
  match fill with
  | 0 => m.dieWrite x bit e.bits 0
  | 1 => m.dieWrite x bit e.bits (2 ^ e.keep - 1)
  | _ => m

/-- The element formats of CONV (R92): an FP format or a descriptor with its packing. -/
inductive ConvFmt where
  | wide (f : Fmt)
  | narrow (n : Nat) (packed : Bool)
  | bad
  deriving DecidableEq, Repr

def convFmt (code : Nat) : ConvFmt :=
  if code = 0 then .wide fp32 else if code = 1 then .wide fp16 else if code = 2 then .wide bf16
  else if 8 ≤ code ∧ code < 24 then .narrow (code % 8) (decide (16 ≤ code)) else .bad

/-- Bits of an element of a CONV side in HBM. -/
def ConvFmt.bits (c : ConvFmt) (fd : Word) : Nat :=
  match c with
  | .wide f => f.eb + f.mb + 1
  | .narrow _ p => if p then (descOf fd).width else (descOf fd).pitch
  | .bad => 8

/-- Bits of a CONV element that carry its value: the width of a narrow one (R57). -/
def ConvFmt.keep (c : ConvFmt) (fd : Word) : Nat :=
  match c with
  | .narrow _ _ => (descOf fd).width
  | c => c.bits fd

/-- One element of a command, by linear index: the move goes on, or stops where a translation fails. -/
def moveElem (x : Cmd) (sh : Shape) (lin : Nat) (m : Move) : Move :=
  let e := sh.elemOf x.fd
  let (i0, i1, i2, i3) := sh.coords lin
  let row := lin / sh.e0
  match x.kind with
  | .cpy =>
    let bit := sh.dieBit e x.base row i0
    if sh.inBounds i0 i1 then
      let (v, m) := m.hbmRead x (8 * x.va + e.hbm * sh.hbmOff i0 i1 i2 i3) e.hbm
      if m.ok then m.dieWrite x bit e.bits (v % 2 ^ e.keep) else m
    else m.fillDie x sh.fill bit e
  | .cpyo =>
    if sh.inBounds i0 i1 then
      let (v, m) := m.dieRead x (sh.dieBit e x.base row i0) e.bits
      m.hbmWrite x (8 * x.va + e.hbm * sh.hbmOff i0 i1 i2 i3) e.hbm (v % 2 ^ e.keep)
    else m
  | .gath =>
    let (ix, m) := m.dieRead x (8 * (x.index + 4 * row)) 32
    let bit := sh.dieBit e x.base row i0
    if i0 < sh.v0 ∧ ix < sh.v1 then
      let (v, m) := m.hbmRead x (8 * x.va + e.hbm * sh.hbmOff i0 ix 0 0) e.hbm
      if m.ok then m.dieWrite x bit e.bits (v % 2 ^ e.keep) else m
    else m.fillDie x sh.fill bit e
  | .rdce => m
  | .conv =>
    let src := convFmt (x.format.toNat / 256 % 32)
    let dst := convFmt (x.format.toNat % 32)
    let fd := descOf x.fd
    let db := dst.bits x.fd
    let out := 8 * x.va2 + db * lin
    -- the scale byte is read first, for every element of the box (R92)
    let (sc, m) := m.hbmRead x (8 * (x.va3 + lin / 32)) 8
    if !m.ok then m
    else if sh.inBounds i0 i1 then
      let (v, m) := m.hbmRead x (8 * x.va + src.bits x.fd * sh.hbmOff i0 i1 i2 i3) (src.bits x.fd)
      if m.ok then
        let (y, fl) := match src, dst with
          | .wide f, .narrow _ _ => toNarrow fd (scaleByte sc) (f.value v) (RMode.ofCode fd.round)
          | .narrow _ _, .wide f => widen fd (scaleByte sc) f v
          | _, _ => (0, 0)
        { m.hbmWrite x out db y with flags := m.flags ||| fl }
      else m
    else
      match sh.fill with
      | 0 => m.hbmWrite x out db 0
      | 1 => m.hbmWrite x out db (2 ^ dst.keep x.fd - 1)
      | _ => m
  | .fillz =>
    if sh.inBounds i0 i1 then
      let p := x.pattern.toNat
      m.hbmWrite x (8 * x.va + e.hbm * sh.hbmOff i0 i1 i2 i3) e.hbm ((p + 2 ^ 32 * p + 2 ^ 64 * p + 2 ^ 96 * p) % 2 ^ e.keep)
    else m

/-- The 128-byte blocks of virtual addresses over which n bits from a bit address lie. -/
def bitBlocks (bit n : Nat) : List Nat :=
  let a := bit / 8 % 2 ^ 48 / 128
  let b := (bit + n - 1) / 8 % 2 ^ 48 / 128
  if a = b then [a] else [a, b]

/-- The 128-byte blocks that element lin writes, as keys of their own space, none where it writes nothing: on die by address, in HBM
by virtual address (R75). A bit-packed element in HBM may reach into the next block (R74). -/
def elemBlocks (x : Cmd) (sh : Shape) (s : State) (lin : Nat) : List Nat :=
  let e := sh.elemOf x.fd
  let (i0, i1, i2, i3) := sh.coords lin
  match x.kind with
  | .cpy => if sh.inBounds i0 i1 ∨ sh.fill < 2 then [x.dieKey s (sh.dieBit e x.base (lin / sh.e0) i0 / 8) / 128] else []
  | .gath =>
    let ix := (bitsAt (s.memOf x.space) (x.dieKey s (x.index + 4 * (lin / sh.e0))) 0 32)
    if (i0 < sh.v0 ∧ ix < sh.v1) ∨ sh.fill < 2 then [x.dieKey s (sh.dieBit e x.base (lin / sh.e0) i0 / 8) / 128] else []
  | .conv =>
    let db := (convFmt (x.format.toNat % 32)).bits x.fd
    if sh.inBounds i0 i1 ∨ sh.fill < 2 then bitBlocks (8 * x.va2 + db * lin) db else []
  | .rdce => []
  | _ => if sh.inBounds i0 i1 then bitBlocks (8 * x.va + e.hbm * sh.hbmOff i0 i1 i2 i3) e.hbm else []

/-- The home of a block's writes. -/
def Cmd.blockHome (x : Cmd) (s : State) (b : Nat) : Nat :=
  match x.kind with
  | .cpy | .gath => homeOf x.space (128 * b)
  | _ =>
    match (s.translate (coreKey x.die x.core) x.die x.ctx (128 * b) .write).1 with
    | .ok pa => hbmHome pa
    | _ => 24

/-- Counts one block's write at its home (R75). A write to a scratchpad line invalidates every sharer of it (R105). -/
def Cmd.countBlock (x : Cmd) (s : State) (b : Nat) : Nat × Nat × State :=
  match x.kind, x.space with
  | .cpy, .scratch | .gath, .scratch =>
    let line := lineOf (128 * b)
    let (q, s) := s.countSliceWrite x.die 99 line
    (line % 24, q, s)
  | _, _ =>
    let h := x.blockHome s b
    let (q, s) := s.countWrite x.die h
    (h, q, s)

def Cmd.countBlocks (x : Cmd) (s : State) (l : List Nat) : Cmd × State :=
  l.foldl (fun (p : Cmd × State) b =>
    let (h, q, s) := p.1.countBlock p.2 b
    ({ p.1 with counts := Map.put p.1.counts h q }, s)) (x, s)

/-- The checkpoint inside a bit-packed element that reaches from block a of HBM into block b: of the element, the bits in block a are
written, with the rest of that block, and those in block b when the command goes on from it (R75, R76). -/
def Move.between (m m' : Move) (x : Cmd) (a b : Nat) : Move :=
  let k := (m'.place x (128 * b + 2 ^ 48 - 1) .write).1
  { m with s := m.s.store .hbm k [Map.get m'.s.hbm 0 k], blocks := if m.blocks.contains a then m.blocks else m.blocks ++ [a], tail := some a }

/-- Moves elements from linear index lin on, n of them at most. `edge` holds the move as it stood at the last block boundary
and its linear index: a stopped command goes back there, so that a block is written whole or not at all (R75, R76). -/
def moveFrom (x : Cmd) (sh : Shape) : Nat → Nat → Move × Nat → Move → Move × Nat
  | 0, lin, _, m => (m, lin)
  | n + 1, lin, edge, m =>
    let bs := elemBlocks x sh m.s lin
    let new := bs.filter (fun b => !m.blocks.contains b)
    let edge := if m.tail = none ∨ (bs ≠ [] ∧ bs.head? ≠ m.tail) then (m, lin) else edge
    if !new.all (fun b => m.s.homeRoom x.die (x.blockHome m.s b) (m.blocks.length + new.length)) then
      ({ edge.1 with full := true }, edge.2)
    else
      let m' := moveElem x sh lin m
      if !m'.ok then ({ edge.1 with stop := m'.stop }, edge.2)
      else
        let edge := match bs with
          | [a, b] => (m.between m' x a b, lin)
          | _ => edge
        moveFrom x sh n (lin + 1) edge { m' with blocks := m'.blocks ++ new, tail := bs.getLast? <|> m.tail }

/-- One row of RDCE: the whole of its destination is translated first, then every element is added with one rounding (R91). -/
def reduceRow (x : Cmd) (sh : Shape) (j : Nat) (m : Move) : Move :=
  let e := sh.elemOf x.fd
  let f := if sh.elem = 2 then fp32 else bf16
  let (ix, m) := m.dieRead x (8 * (x.index + 4 * j)) 32
  if ix ≥ sh.v1 then m
  else
    let cols := upto 0 (min sh.e0 sh.v0)
    let at_ := fun i0 => 8 * x.va + e.hbm * sh.hbmOff i0 ix 0 0
    let probe := cols.foldl (fun (m : Move) i0 =>
      if m.ok then
        let m := (m.hbmRead x (at_ i0) e.hbm).2
        if m.ok then (m.place x (at_ i0 / 8) .write).2 else m
      else m) m
    if !probe.ok then { m with s := probe.s, ok := false, stop := probe.stop }
    else
      cols.foldl (fun (m : Move) i0 =>
        let (h, m) := m.hbmRead x (at_ i0) e.hbm
        let (v, m) := m.dieRead x (sh.dieBit e x.base j i0) e.bits
        let m := m.hbmWrite x (at_ i0) e.hbm (f.add .rne h v).1
        let b := at_ i0 / 8 % 2 ^ 48 / 128
        if m.blocks.contains b then m else { m with blocks := m.blocks ++ [b] }) { probe with blocks := [] }

/-- Rows of RDCE from j on: a checkpoint after each row, and its blocks counted then (R75, R91); a row waits while its home could not give
it all its counts (R190). -/
def reduceFrom (sh : Shape) : Nat → Nat → Cmd → Move → Cmd × Move × Nat
  | 0, j, x, m => (x, m, j)
  | n + 1, j, x, m =>
    let most := min sh.e0 sh.v0 * (sh.elemOf x.fd).hbm / 1024 + 2
    if !m.s.homeRoom x.die 24 most ∨ !m.s.homeRoom x.die 25 most then (x, { m with full := true }, j)
    else
      let m' := reduceRow x sh j m
      if !m'.ok then (x, m', j)
      else
        let (x, s) := x.countBlocks m'.s m'.blocks
        reduceFrom sh n (j + 1) x { m' with s := s, blocks := [] }

/-- Moves a command's data from its checkpoint as far as it goes: the command with its new checkpoint and counts. -/
def State.moveCmd (s : State) (x : Cmd) : Cmd × Move :=
  let sh := shapeOf x.shape
  match x.kind with
  | .rdce =>
    let (y, m, j) := reduceFrom sh (x.rows - x.pos) x.pos x { s := s }
    ({ y with pos := j }, { m with s := m.s.tallyCore (coreKey x.die x.core) .copyBytes ((j - x.pos) * (min sh.e0 sh.v0 * (sh.elemOf x.fd).hbm / 8)) })
  | k =>
    let total := if k = .gath then sh.e0 * x.rows else sh.count
    let m0 : Move := { s := s, flags := x.flags, blocks := x.block.toList, tail := x.block }
    let (m, lin) := moveFrom x sh (total - x.pos) x.pos (m0, x.pos) m0
    let (y, s) := ({ x with pos := lin, flags := m.flags, block := m.tail } : Cmd).countBlocks m.s (m.blocks.filter (fun b => x.block ≠ some b))
    (y, { m with s := s.tallyCore (coreKey x.die x.core) .copyBytes ((lin - x.pos) * (sh.elemOf x.fd).hbm / 8) })

/-! ### Retirement (R73) -/

/-- Whether every write of a command has entered its home's visible count. -/
def State.cmdVisible (s : State) (x : Cmd) : Bool := x.counts.all (fun e => decide (e.2 ≤ (s.die x.die).visibleOf e.1))

/-- The completion witness before its tickets (R73). -/
def State.cmdMerged (s : State) (x : Cmd) : Merged :=
  match x.counts with
  | [] => .wit 0
  | [(h, q)] => .wit (pointWit x.die (s.die x.die).inc h q)
  | l => .tickets ((sortBy (fun e => spaceOrder e.1) l).map (fun e => Req.count e.1 e.2))

/-- The carried witnesses of the threads whose path issued a command, merged with its completion witness (R271): lane by lane. -/
def State.mergeCarry (s : State) (x : Cmd) (w : Wit) : List (Nat × Merged) :=
  let g := s.groupAt x.g
  if s.inTravel g then
    (lanesOf x.ins.lanes).map (fun l => (l, mergeSet x.die x.core (s.die x.die).inc [(g.thread l).carry, w]))
  else []

/-- Retires a command whose writes are visible: flag, scoreboard, ring arrival and witness (R73), and the carried witnesses of its
path (R271); its flags are raised (R53). It waits for the tickets it needs. -/
def State.retireCmd (s : State) (k : Nat) (x : Cmd) : State :=
  let ck := coreKey x.die x.core
  let later : State := { s with cmds := Map.put s.cmds k x }.at_ (s.now + 1) (10 + x.core) (.copyRetire k)
  let merged := s.cmdMerged x
  if merged.need > s.freeTickets ck then later
  else
    let (w, s) := s.finishMerge ck x.ctx merged
    let carried := s.mergeCarry x w
    if carried.foldl (fun n e => n + e.2.need) 0 > s.freeTickets ck then later
    else
      let s := carried.foldl (fun s e =>
        let (kw, s) := s.finishMerge ck x.ctx e.2
        s.modGroup x.g (fun g => g.mapThreads (laneBit e.1) (fun t => { t with carry := kw }))) s
      let s : State := { s with cmds := Map.erase s.cmds k }
      let s : State := match x.ring with
        | some (r, i) => if x.stage = .written then s.countArrival x.team r i else s
        | none => s
      let s : State := if x.wp = 63 then s else
        s.modGroup x.g (fun g => (g.landScalar k (2 * (x.wp - 48)) (w.extractLsb' 0 32)).landScalar k (2 * (x.wp - 48) + 1) (w.extractLsb' 32 32))
      (s.modGroup x.g (fun g => (g.settle k).dropCf x.flag)).raiseLate x.g x.grid x.die x.core x.flags

/-- The bytes of team memory that a command reads or writes, as ranges with whether it writes them. -/
def Cmd.teamRanges (s : State) (x : Cmd) : List (Nat × Nat × Bool) :=
  x.range.filterMap (fun (sp, lo, hi, w) => if sp = .team then some (lo, hi, w) else none) ++
  (if x.kind = .rdce ∧ x.space = .team then [(s.teamByte x.team x.index, s.teamByte x.team x.index + 4 * x.rows, false)] else [])

/-- Whether a command's accesses to team memory have their turn (R72, R98): every access that the core issued earlier has been
performed, and so has every earlier command that it overlaps where one of the two writes. DEDUCED (log 91): other commands
may be performed in any order (R70). -/
def State.cmdTurn (s : State) (k : Nat) (x : Cmd) : Bool :=
  let mine := x.teamRanges s
  mine.isEmpty || (s.turnFree x.die x.core x.ctx (coreKey x.die x.core) k &&
    !s.cmds.any (fun e => decide (e.1 < k ∧ e.2.die = x.die ∧ e.2.core = x.core ∧ e.2.ctx = x.ctx ∧ (e.2.stage = .queued ∨ e.2.stage = .suspended)) &&
      (e.2.teamRanges s).any (fun (lo, hi, w) => mine.any (fun (lo', hi', w') => decide (lo < hi' ∧ lo' < hi) && (w || w')))))

/-- Whether no message waits at a slice: what a command reads or writes in the scratchpad would arrive behind it (R100). -/
def State.slicesClear (s : State) (x : Cmd) : Bool :=
  decide (x.space ≠ .scratch) || (upto 0 24).all (fun h => decide ((s.die x.die).waitingAt h = []))

/-- A command's turn: it performs what remains of its box once its source witness is satisfied, its team memory accesses have
their turn (R72, R98) and nothing waits at the slices before it (R100), and retires once its writes are
visible. A command still waiting takes its turn again later; one of a context that does not run stays at its checkpoint (R77, R309). A
translation fault suspends it, a protection fault ends it: either is raised in the next clock (R76). -/
def State.copyTurn (s : State) (cmd : Nat) : State :=
  match Map.find s.cmds cmd with
  | none => s
  | some x =>
    if !s.ctxRuns x.die x.ctx then s
    else
    match x.stage with
    | .suspended => s
    | .queued =>
      if !s.satisfied x.die x.core x.wit ∨ !s.cmdTurn cmd x ∨ !s.slicesClear x then s.send 0 (10 + x.core) (.copyRetire cmd)
      else
        let (x, m) := s.moveCmd x
        match m.stop with
        | some (va, restart) =>
          let x := { x with stage := if restart then .suspended else .stopped, faulted := some va }
          { m.s with cmds := Map.put m.s.cmds cmd x }.at_ (s.now + 1) 3
            (if restart then .copyTranslationFault cmd else .copyProtectionFault cmd)
        | none =>
          if m.full then { m.s with cmds := Map.put m.s.cmds cmd x }.send 0 (10 + x.core) (.copyRetire cmd)
          else
            let x := { x with stage := .written }
            if m.s.cmdVisible x then m.s.retireCmd cmd x
            else { m.s with cmds := Map.put m.s.cmds cmd x }.at_ (s.now + 1) (10 + x.core) (.copyRetire cmd)
    | _ => if s.cmdVisible x then s.retireCmd cmd x else s.at_ (s.now + 1) (10 + x.core) (.copyRetire cmd)

/-- Stops a command at its checkpoint, unless all its writes are made: it then retires under R73 (R94). -/
def State.cancelCmd (s : State) (k : Nat) : State :=
  match Map.find s.cmds k with
  | none => s
  | some x =>
    if x.stage = .queued ∨ x.stage = .suspended then
      let s : State := { s with cmds := Map.put s.cmds k { x with stage := .stopped } }
      if x.stage = .suspended then s.at_ (s.now + 1) (10 + x.core) (.copyRetire k) else s
    else s

/-- COPY_RETIRE: a command's turn, at the end of which it may retire (R73); a CANCEL of the same clock takes effect after it (R94). -/
def execCopyRetire (cmd : Nat) (s : State) : Out :=
  let s := s.copyTurn cmd
  match Map.find s.cmds cmd with
  | some x => .next (if x.cancel then s.cancelCmd cmd else s)
  | none => .next s

/-- The record's fields for a fault of a command (R303). -/
def Cmd.faultInfo (x : Cmd) (cls : FaultClass) : FaultInfo :=
  { cls := cls, addr := x.faulted.getD 0, aux := x.slot % 256 + 256 * x.flag, lanes := x.ins.lanes }

/-- COPY_TRANSLATION_FAULT: the command stays suspended at its checkpoint, and the fault is raised, also where a CANCEL has stopped the
command meanwhile (R76, R94). -/
def execCopyTranslationFault (cmd : Nat) (s : State) : Out :=
  match Map.find s.cmds cmd with
  | none => .next s
  | some x =>
    if x.stage = .suspended ∨ (x.stage = .stopped ∧ x.faulted.isSome) then
      .next (s.raiseAsync x.g (x.faultInfo .copyTranslation) x.ins)
    else .next s

/-- COPY_PROTECTION_FAULT: the command has ended; its fault is raised, and it retires with the witness of what it wrote (R76). -/
def execCopyProtectionFault (cmd : Nat) (s : State) : Out :=
  match Map.find s.cmds cmd with
  | none => .next s
  | some x =>
    if x.stage = .stopped ∧ x.faulted.isSome then
      .next ((s.raiseAsync x.g (x.faultInfo .copyProtection) x.ins).at_ (s.now + 1) (10 + x.core) (.copyRetire cmd))
    else .next s

/-! ### Issue (R71, R82, R90) -/

def firstSome {α : Type} (l : List (Option α)) : Option α := (l.find? (·.isSome)).getD none

/-- The virtual address of a scalar pair; none where bits [63:48] are nonzero or the pair does not exist. -/
def pairAddr (r : Regs) (n : Nat) : Option Nat :=
  let hi := (r.scalar (n + 1)).toNat
  if n % 2 = 1 ∨ n + 1 > 63 ∨ hi ≥ 65536 then none else some ((r.scalar n).toNat + 2 ^ 32 * hi)

/-- The memory key and fault of an on-die range of n bytes at a program address. -/
def dieRange (s : State) (g : Group) (sp : Space) (a n : Nat) : Option FaultInfo :=
  match sp with
  | .scratch => if (s.scratchAddr g a n).isSome then none else some { cls := .outOfPartition, addr := a }
  | _ => if (s.localTeam g a n).isSome then none else some (teamFault a)

def dieBase (s : State) (g : Group) (sp : Space) (a : Nat) : Nat :=
  match sp with
  | .scratch => scratchKey g.die ((s.ctxAt (ctxKey g.die g.ctx)).scratchBase * 2 ^ 20 + a)
  | _ => s.teamByte g.team a

/-- The flag number of a copy's slot. -/
def copyFlag (c : Issue) (g : Group) (f : BitVec 1) : Nat := (slotFlag (c.head g) (f = 1)).getD 0

/-- The commands that a core's engine holds: a saved context's wait in its area (R77). -/
def State.engineCmds (s : State) (die core : Nat) : Map Cmd :=
  s.cmds.filter (fun e => decide (e.2.die = die ∧ e.2.core = core) && !s.ctxSaved die e.2.ctx)

/-- Why a copy command cannot be taken (R70, R84). -/
def copyStall (s : State) (g : Group) (entry : Bool) : Option Stall :=
  let l := s.engineCmds g.die g.core
  if l.length ≥ Config.copyCommands ∨ (entry ∧ (l.filter (fun e => decide (e.2.range ≠ []))).length ≥ Config.rangeEntries) then
    some (.copyEngine entry)
  else none

/-- The lowest command slot of a core's engine that no command holds. -/
def freeSlot (s : State) (die core : Nat) : Nat :=
  let used := (s.engineCmds die core).map (fun e => e.2.slot)
  ((upto 0 256).find? (fun i => !used.contains i)).getD 0

/-- What R71 checks of a copy instruction, in the order of its rows: `word` are the illegal-instruction and illegal-operand rows as far as
they need no operand, which is all that comes before an owed operand is found; `all` are the rows in full. -/
structure CopyChecks where
  word : Issue → Group → Option FaultInfo
  all : Issue → Group → Option FaultInfo

/-- Issues a command after its checks, with its block of n scalars from a and the others it reads: they come in R71's order, as R175 has
it, with the owed scalars after the rows that need no operand. A command that moves nothing retires at once with a null witness (R90). -/
def copyOp (f : BitVec 1) (w : BitVec 6) (a n : Nat) (scal : List Nat) (chk : CopyChecks) (entry : Bool) (null : Issue → Group → Bool)
    (mk : Issue → Group → Cmd) (s : State) : Out :=
  atIssue s fun c g =>
    let wp := w.toNat
    let o : Opnds := ({ scalars := (upto a n ++ scal).filter (· < 64), bases := [(scalarNo a, n)] } : Opnds).present wp
    let ready := readyFault o c g
    let early := roleFault g .copy <|> flagFault c g f <|> (if ready.isSome then chk.word c g else none) <|> ready <|> chk.all c g <|>
      presentFault g.die false (laneBit (lowLane c.lanes)) (fun l => (c.view g).wit wp l)
    if null c g then
      issueIns s c g o early none none (flagStall c g f) fun s =>
        s.modGroup c.g (fun y => (witScalars wp).foldl (fun y r => y.writeScalar r 0) y)
    else
    issueIns s c g o early none none (flagStall c g f <|> copyStall s g entry) fun s =>
      let (k, s) := s.newId
      let x := { mk c g with
        g := c.g, die := g.die, core := g.core, ctx := g.ctx, team := g.team, grid := g.grid, slot := freeSlot s g.die g.core,
        flag := copyFlag c g f, wp := wp, wit := (c.view g).wit wp 0, ins := insInfo c g }
      let s : State := { s with cmds := Map.put s.cmds k x }
      let s := s.modGroup c.g (fun y => (y.owe k (witRegs wp) 0xFFFFFFFF).raiseCf (copyFlag c g f))
      s.send 0 (10 + g.core) (.copyRetire k)

/-- R71's rows for a shape: reserved values, then the limits of R79. -/
def shapeLimits (sh : Shape) (e : Elem) : Option FaultInfo :=
  failIf (decide (sh.e0 = 0) || decide (e.bits = 4 ∧ sh.e0 % 2 = 1)) illegalOperand

/-- Whether halfword i is a literal, which is checked without an operand (R37). -/
def literal (h : BitVec 128) (i : Nat) : Bool := decide (halfword h i < 0xFFC0)

/-- The shape as far as literals give it: a marker's field reads as one that passes every check. -/
def literalShape (h : BitVec 128) : Shape :=
  shapeOf ((upto 0 8).map (fun i => if literal h i then halfword h i else if i = 0 then 2 ^ 14 + 2 ^ 13 else if i = 1 then 2 else 0))

def fdOf (s : State) (g : Group) (sh : Shape) : Word := if sh.narrow then s.fd g sh.elem else 0
def fdInvalid (sh : Shape) (fd : Word) : Option FaultInfo := failIf (sh.narrow && !descValid fd) { cls := .format, aux := fd.toNat }

/-- The HBM alignment of R80. -/
def hbmAlign (sh : Shape) (va : Nat) : Option FaultInfo :=
  failIf (decide ((if sh.packed then va % 4 else if sh.narrow then 0 else va % 2 ^ sh.elem) ≠ 0)) (alignFault va)

/-- The on-die alignments of R80. -/
def dieAlign (sh : Shape) (base : Nat) : Option FaultInfo :=
  failIf (decide ((if sh.narrow then 0 else base % 2 ^ sh.elem) ≠ 0 ∨ (sh.pad = 1 ∧ base % 128 ≠ 0) ∨ (sh.swizzle = 1 ∧ sh.pad ≠ 1)))
    (alignFault base)

/-- CPY and CPYO (R82, R83). -/
def cpyOp (out : Bool) (f p r : BitVec 1) (k : BitVec 3) (a d w : BitVec 6) (h : BitVec 128) (s : State) : Out :=
  let sp : Space := if p = 1 then .scratch else .team
  let ring := decide (r = 1)
  let plan := fun (c : Issue) (g : Group) =>
    let v := c.view g
    let fields := shapeFields h v
    let sh := shapeOf fields
    let fd := fdOf s g sh
    let e := sh.elemOf fd
    let x := (v.scalar d.toNat).toNat
    let rg := s.ringAt g.team k.toNat
    let off := x / 16 * 16
    let base := if ring then rg.base + x % 16 * rg.size + off else x
    (fields, sh, fd, e, x, rg, off, base, sh.pitch e * sh.e1 * sh.e2 * sh.e3)
  let field := (ring && (out || decide (p = 1))) || (!ring && decide (k ≠ 0))
  let noRing := fun (g : Group) => ring && (decide (k.toNat ≥ (s.teamAt g.team).nrings) || !(s.ringAt g.team k.toNat).conf)
  copyOp f w a.toNat 2 (d.toNat :: markers h)
    { word := fun _ g =>
        let sh := literalShape h
        firstSome [
          failIf (field || sh.illegal false) illegal, failIf (s.inTravel g && decide (sp = .team)) illegal,
          failIf (decide (w.toNat < 48) || decide (a.toNat % 2 = 1) || noRing g) illegalOperand,
          (if literal h 0 then shapeLimits sh (sh.elemOf (fdOf s g sh)) else failIf (decide (sh.e0 = 0)) illegalOperand)]
      all := fun c g =>
        let (_, sh, fd, e, x, rg, off, base, n) := plan c g
        let va := pairAddr (c.view g) a.toNat
        firstSome [
          failIf (field || sh.illegal false) illegal,
          failIf (s.inTravel g && decide (sp = .team)) illegal,
          failIf (decide (w.toNat < 48) || va.isNone || noRing g || (ring && decide (x % 16 ≥ rg.n))) illegalOperand,
          shapeLimits sh e,
          (if ring ∧ off + n > rg.size then some (teamFault base) else dieRange s g sp base n),
          hbmAlign sh (va.getD 0), dieAlign sh base, fdInvalid sh fd] }
    true (fun _ _ => false)
    (fun c g =>
      let (fields, _, fd, _, x, _, _, base, n) := plan c g
      let lo := dieBase s g sp base
      { kind := if out then .cpyo else .cpy, g := 0, die := 0, core := 0, ctx := 0, team := 0, grid := 0, slot := 0, flag := 0,
        space := sp, ring := if ring then some (k.toNat, x % 16) else none, shape := fields,
        va := (pairAddr (c.view g) a.toNat).getD 0, base := base, fd := fd, range := [(sp, lo, lo + n, !out)] }) s

def execCpy (f p r : BitVec 1) (k : BitVec 3) (a d w : BitVec 6) (h : BitVec 128) (s : State) : Out := cpyOp false f p r k a d w h s
def execCpyo (f p r : BitVec 1) (k : BitVec 3) (a d w : BitVec 6) (h : BitVec 128) (s : State) : Out := cpyOp true f p r k a d w h s

/-- GATH and RDCE (R90, R91). DESIGN CHOICE (log 86): a row count above 65,536, for which R90 names no fault, raises illegal-operand, and
an index list that is not 4-byte aligned raises misalignment. -/
def rowsOp (reduce : Bool) (f p : BitVec 1) (a d w : BitVec 6) (h : BitVec 128) (s : State) : Out :=
  let sp : Space := if p = 1 then .scratch else .team
  let plan := fun (c : Issue) (g : Group) =>
    let v := c.view g
    let fields := shapeFields h v
    let sh0 := shapeOf fields
    let sh := { sh0 with e1 := 1, e2 := 1, e3 := 1 }
    let fd := fdOf s g sh
    let e := sh.elemOf fd
    let n := (v.scalar (a.toNat + 3)).toNat
    (fields, sh, fd, e, (v.scalar d.toNat).toNat, (v.scalar (a.toNat + 2)).toNat, n, sh.pitch e * n)
  copyOp f w a.toNat 4 (d.toNat :: markers h)
    { word := fun _ g =>
        let sh := literalShape h
        firstSome [
          failIf (sh.illegal false || (reduce && literal h 0 && (sh.narrow || decide (sh.elem ≠ 1 ∧ sh.elem ≠ 2)))) illegal,
          failIf (s.inTravel g && decide (sp = .team)) illegal,
          failIf (decide (w.toNat < 48 ∨ a.toNat + 3 > 63 ∨ a.toNat % 2 = 1)) illegalOperand,
          (if literal h 0 then shapeLimits sh (sh.elemOf (fdOf s g sh)) else failIf (decide (sh.e0 = 0)) illegalOperand),
          failIf (decide (sh.rank ≠ 2)) illegalOperand]
      all := fun c g =>
        let (_, sh, fd, e, base, index, n, bytes) := plan c g
        let va := pairAddr (c.view g) a.toNat
        firstSome [
          failIf (sh.illegal false || (reduce && (sh.narrow || decide (sh.elem ≠ 1 ∧ sh.elem ≠ 2)))) illegal,
          failIf (s.inTravel g && decide (sp = .team)) illegal,
          failIf (decide (w.toNat < 48 ∨ a.toNat + 3 > 63) || va.isNone) illegalOperand,
          shapeLimits sh e,
          failIf (decide (sh.rank ≠ 2 ∨ n > 65536)) illegalOperand,
          dieRange s g sp base bytes, dieRange s g sp index (4 * n),
          hbmAlign sh (va.getD 0), dieAlign sh base, failIf (decide (index % 4 ≠ 0)) (alignFault index), fdInvalid sh fd] }
    true (fun c g => let (_, _, _, _, _, _, n, _) := plan c g
      decide (n = 0))
    (fun c g =>
      let (fields, _, fd, _, base, index, n, bytes) := plan c g
      let lo := dieBase s g sp base
      let li := dieBase s g sp index
      { kind := if reduce then .rdce else .gath, g := 0, die := 0, core := 0, ctx := 0, team := 0, grid := 0, slot := 0, flag := 0,
        space := sp, shape := fields, va := (pairAddr (c.view g) a.toNat).getD 0, base := base, index := index, rows := n, fd := fd,
        range := if reduce then [(sp, lo, lo + bytes, false)] else [(sp, lo, lo + bytes, true), (sp, li, li + 4 * n, true)] }) s

def execHbxGath (f p : BitVec 1) (a d w : BitVec 6) (h : BitVec 128) (s : State) : Out := rowsOp false f p a d w h s
def execHbxRdce (f p : BitVec 1) (a d w : BitVec 6) (h : BitVec 128) (s : State) : Out := rowsOp true f p a d w h s

/-- The alignment of one side of CONV. DESIGN CHOICE (log 87): R80 asks for an alignment of va, the source; the model asks for the same of
the destination. -/
def convAlign (c : ConvFmt) (va : Nat) : Option FaultInfo :=
  failIf (decide ((match c with
    | .wide f => va % ((f.eb + f.mb + 1) / 8)
    | .narrow _ p => if p then va % 4 else 0
    | .bad => 0) ≠ 0)) (alignFault va)

/-- CONV (R92). -/
def execHbxConv (f p : BitVec 1) (a d w : BitVec 6) (h : BitVec 128) (s : State) : Out :=
  let plan := fun (c : Issue) (g : Group) =>
    let v := c.view g
    let fields := shapeFields h v
    let x := v.scalar d.toNat
    let src := convFmt (x.toNat / 256 % 32)
    let dst := convFmt (x.toNat % 32)
    let n := match src, dst with
      | .narrow n _, _ => n
      | _, .narrow n _ => n
      | _, _ => 0
    (fields, shapeOf fields, x, src, dst, s.fd g n)
  copyOp f w a.toNat 6 (d.toNat :: markers h)
    { word := fun _ _ =>
        let sh := literalShape h
        firstSome [
          failIf (decide (p = 1) || sh.illegal true) illegal,
          failIf (decide (w.toNat < 48 ∨ a.toNat + 5 > 63 ∨ a.toNat % 2 = 1 ∨ sh.e0 = 0)) illegalOperand]
      all := fun c g =>
      let (_, sh, x, src, dst, fd) := plan c g
      let v := c.view g
      let va := pairAddr v a.toNat
      let vb := pairAddr v (a.toNat + 2)
      let vc := pairAddr v (a.toNat + 4)
      let one := match src, dst with
        | .narrow _ _, .wide _ => true
        | .wide _, .narrow _ _ => true
        | _, _ => false
      let nibble := match src with
        | .narrow _ q => !q && decide ((descOf fd).pitch = 4)
        | _ => match dst with
          | .narrow _ q => !q && decide ((descOf fd).pitch = 4)
          | _ => false
      firstSome [
        failIf (decide (p = 1) || sh.illegal true) illegal,
        failIf (decide (w.toNat < 48 ∨ a.toNat + 5 > 63) || va.isNone || vb.isNone || vc.isNone) illegalOperand,
        failIf (decide (sh.e0 = 0) || (nibble && decide (sh.e0 % 2 = 1))) illegalOperand,
        failIf (decide (x.toNat / 2 ^ 13 ≠ 0 ∨ x.toNat / 32 % 8 ≠ 0) || !one) illegalOperand,
        convAlign src (va.getD 0), convAlign dst (vb.getD 0), failIf (decide (sh.swizzle = 1 ∧ sh.pad ≠ 1)) (alignFault (vb.getD 0)),
        failIf (!descValid fd) { cls := .format, aux := fd.toNat }] }
    false (fun _ _ => false)
    (fun c g =>
      let (fields, _, x, _, _, fd) := plan c g
      let v := c.view g
      { kind := .conv, g := 0, die := 0, core := 0, ctx := 0, team := 0, grid := 0, slot := 0, flag := 0, space := .hbm, shape := fields,
        va := (pairAddr v a.toNat).getD 0, va2 := (pairAddr v (a.toNat + 2)).getD 0, va3 := (pairAddr v (a.toNat + 4)).getD 0,
        format := x, fd := fd }) s

/-- FILLZ (R93). -/
def execHbxFillz (f p : BitVec 1) (a d w : BitVec 6) (h : BitVec 128) (s : State) : Out :=
  let plan := fun (c : Issue) (g : Group) =>
    let fields := shapeFields h (c.view g)
    let sh := shapeOf fields
    (fields, sh, fdOf s g sh)
  copyOp f w a.toNat 3 (markers h)
    { word := fun _ g =>
        let sh := literalShape h
        firstSome [
          failIf (decide (p = 1) || decide (d ≠ 0) || sh.illegal false) illegal,
          failIf (decide (w.toNat < 48 ∨ a.toNat + 3 > 63 ∨ a.toNat % 2 = 1)) illegalOperand,
          (if literal h 0 then shapeLimits sh (sh.elemOf (fdOf s g sh)) else failIf (decide (sh.e0 = 0)) illegalOperand)]
      all := fun c g =>
        let (_, sh, fd) := plan c g
        let va := pairAddr (c.view g) a.toNat
        firstSome [
          failIf (decide (p = 1) || decide (d ≠ 0) || sh.illegal false) illegal,
          failIf (decide (w.toNat < 48 ∨ a.toNat + 3 > 63) || va.isNone) illegalOperand,
          shapeLimits sh (sh.elemOf fd),
          hbmAlign sh (va.getD 0), failIf (decide (sh.swizzle = 1 ∧ sh.pad ≠ 1)) (alignFault (va.getD 0)), fdInvalid sh fd] }
    false (fun _ _ => false)
    (fun c g =>
      let (fields, _, fd) := plan c g
      let v := c.view g
      { kind := .fillz, g := 0, die := 0, core := 0, ctx := 0, team := 0, grid := 0, slot := 0, flag := 0, space := .hbm, shape := fields,
        va := (pairAddr v a.toNat).getD 0, pattern := v.scalar (a.toNat + 2), fd := fd }) s

/-! ### CPYX (R94) -/

/-- The group's commands that count on a flag. -/
def State.cmdsOn (s : State) (k flag : Nat) : Map Cmd := s.cmds.filter (fun e => decide (e.2.g = k ∧ e.2.flag = flag))

/-- A CANCEL of a command: at once, but after its turn where that falls in this clock, for what it then completes completes normally
(R94). -/
def State.cancelOrMark (s : State) (k : Nat) : State :=
  if s.pending.any (fun d => decide (d.at_ ≤ s.now ∧ d.ev = .copyRetire k)) then
    { s with cmds := Map.modify s.cmds k (fun x => { x with cancel := true }) }
  else s.cancelCmd k

def execCpyxStat (c : BitVec 4) (d : BitVec 6) (s : State) : Out :=
  atIssue s fun is g =>
    issueIns s is g {} (roleFault g .copy <|> failIf (decide (c.toNat ≥ 12)) illegal) none none none fun s =>
      let l := s.cmdsOn is.g c.toNat
      let x := l.length + (if l.any (fun e => decide (e.2.stage = .suspended)) then 65536 else 0)
      s.modGroup is.g (fun y => y.writeScalar d.toNat (BitVec.ofNat 32 x))

def execCpyxCancel (c : BitVec 4) (s : State) : Out :=
  atIssue s fun is g =>
    issueIns s is g {} (roleFault g .copy <|> failIf (decide (c.toNat ≥ 12)) illegal) none none none fun s =>
      ((s.cmdsOn is.g c.toNat).map (·.1)).foldl (fun s k => s.cancelOrMark k) s

end Sys2Proof.Machine
end

