-- ==== Sys2Proof/Machine/Network.lean ====
section
/-!
DEFINITION. The package network and the fabric ports (R230 to R245): the queue header, streams, routing, flits, the recovery
ladder of a link, withdrawal and fallback, packets of the fabric, and the sending of one queue message by whichever way leads to
its destination.
-/
namespace Sys2Proof.Machine

/-! ### Queue messages (R242) -/

def QKind.code : QKind → Nat
  | .element => 0
  | .post => 1
  | .answer => 2
  | .request => 3
  | .grant => 4
  | .void => 0
  | .reserved n => n % 16

/-- The 32-byte header of a queue message (R242). -/
def QMsg.header (m : QMsg) : BitVec 256 :=
  BitVec.ofNat 256 (m.ver % 256 * 2 ^ 248 + m.kind.code * 2 ^ 244 + m.esz % 16 * 2 ^ 240 + m.domain % 65536 * 2 ^ 224 + m.qid % 2 ^ 32 * 2 ^ 192 +
    m.key % 2 ^ 64 * 2 ^ 128 + m.smod % 8192 * 2 ^ 115 + m.sdie % 8 * 2 ^ 112 + m.sport % 4 * 2 ^ 110 + m.ctx % 65536 * 2 ^ 80 +
    m.ans % 256 * 2 ^ 72 + (if m.try_ then 2 ^ 71 else 0) + m.cnt % 128 * 2 ^ 64 + m.crc.toNat * 2 ^ 32)

/-- The stream class of a queue message (R230). -/
def QMsg.cls (m : QMsg) : Nat :=
  match m.kind with
  | .element | .post | .void => 0
  | _ => 1

/-- The source and the destination port of a queue message: answers and grants go back to the producer's. -/
def QMsg.back (m : QMsg) : Bool := decide (m.kind = .answer ∨ m.kind = .grant)
/-- Endpoints of queue ports as numbers: module, die and code (R230). A hardware producer is of the die's port 0. -/
def endpoint (module die code : Nat) : Nat := module * 64 + die * 8 + code
def QMsg.producerEnd (m : QMsg) : Nat := endpoint m.smod m.sdie (if m.sport < 4 then m.sport else 0)
def QMsg.homeEnd (m : QMsg) : Nat := endpoint (qidModule m.qid) (qidDie m.qid) (qidPort m.qid)
def QMsg.src (m : QMsg) : Nat := if m.back then m.homeEnd else m.producerEnd
def QMsg.dst (m : QMsg) : Nat := if m.back then m.producerEnd else m.homeEnd

def endDie (e : Nat) : Nat := e / 8 % 8

/-- The event with which a queue message is received. -/
def QMsg.event (m : QMsg) (n : Nat) : Ev :=
  match m.kind with
  | .element | .void => .elementArrival n
  | .post => .postArrival n
  | .request => .qresRequest n
  | .grant => .qresGrantReceive n
  | .reserved _ => .elementArrival n
  | .answer =>
    match m.ans with
    | 0 => .answerAck n
    | 1 | 2 => .answerRetry n
    | 3 => .answerMoved n
    | 4 => .answerCheck n
    | _ => .answerRefused n

/-- The order of sources within a clock: by core, then die, then module (R212). -/
def sourceOrder (core die module : Nat) : Nat := (core * 8 + die) * 8192 + module

/-- The order of R212 within a clock: placements, then grants; claims and refill steps follow. -/
def QMsg.prio (m : QMsg) : Nat :=
  match m.kind with
  | .element | .post | .void => 10000000 + sourceOrder m.core m.sdie m.smod
  | .request => 20000000 + sourceOrder m.core m.sdie m.smod
  | _ => 4
def sleeperPrio : Nat := 29999999
def claimPrio (core die module : Nat) : Nat := 30000000 + sourceOrder core die module
def refillPrio : Nat := 40000000

/-- Lists a queue message. -/
def State.addQMsg (s : State) (m : QMsg) : Nat × State :=
  let (n, s) := s.newId
  (n, { s with qmsgs := Map.put s.qmsgs n m })

/-- Whether a message is of a version or kind that this manual defines (R242). -/
def QMsg.known (m : QMsg) : Bool :=
  decide (m.ver = 1) && (match m.kind with
    | .reserved _ => false
    | _ => true)

/-- Hands a queue message to its port now: one of a reserved kind or version is dropped and counted (R242), and a die that has dumped takes
nothing any more (R325). -/
def State.handQ (s : State) (m : QMsg) : State :=
  if (s.die (endDie m.dst)).mode = .dumped then s
  else if !m.known then s.modPort (portKey (endDie m.dst) (m.dst % 4)) (fun p => { p with reserved := p.reserved + 1 })
  else
    let (n, s) := s.addQMsg m
    s.at_ s.now m.prio (m.event n)

/-- Takes a queue message out of flight. -/
def State.takeQ (s : State) (n : Nat) : Option QMsg × State := (Map.find s.qmsgs n, { s with qmsgs := Map.erase s.qmsgs n })

/-! ### Routing (R7, R232, R233, R238) -/

/-- Links of a die: 0 x+, 1 x−, 2 y (R7). -/
def linkKey (die dir : Nat) : Nat := die * 3 + dir
def neighbour (die dir : Nat) : Nat :=
  match dir with
  | 0 => die / 4 * 4 + (die + 1) % 4
  | 1 => die / 4 * 4 + (die + 3) % 4
  | _ => Nat.xor die 4
/-- The same link in the other direction. -/
def reverseLink (l : Nat) : Nat :=
  let die := l / 3
  match l % 3 with
  | 0 => linkKey (neighbour die 0) 1
  | 1 => linkKey (neighbour die 1) 0
  | _ => linkKey (neighbour die 2) 2

/-- The next link of dimension-ordered routing, x first (R232); none at the destination die. -/
def nextDir (die dst : Nat) : Option Nat :=
  let dx := (dst % 4 + 4 - die % 4) % 4
  if dx = 1 ∨ dx = 2 then some 0
  else if dx = 3 then some 1
  else if die / 4 ≠ dst / 4 then some 2
  else none

/-- Whether a hop crosses the dateline, the x link between x = 3 and x = 0 (R233). -/
def crossesDateline (die dir : Nat) : Bool := decide ((dir = 0 ∧ die % 4 = 3) ∨ (dir = 1 ∧ die % 4 = 0))

/-- The dies that the remaining links reach, spreading n times. -/
def spread (gone : List Nat) : Nat → List Nat → List Nat
  | 0, l => l
  | n + 1, l =>
    spread gone n ((upto 0 8).filter (fun d => l.contains d || (upto 0 3).any (fun dir =>
      l.contains (neighbour d dir) && !gone.contains (linkKey d dir) && !gone.contains (reverseLink (linkKey d dir)))))

/-- A set of withdrawn links with a further one: each link under the lower of its two numbers, in increasing order, so that every die that has
learnt of the same withdrawals has the same set. -/
def withGone (link : Nat) (gone : List Nat) : List Nat := sortBy (fun l => l) (min link (reverseLink link) :: gone.filter (· ≠ min link (reverseLink link)))

/-- The links of a die that have not been withdrawn. -/
def openDirs (gone : List Nat) (die : Nat) : List Nat :=
  (upto 0 3).filter (fun dir => !gone.contains (linkKey die dir) && !gone.contains (reverseLink (linkKey die dir)))
/-- How many hops over the remaining links lead from one die to another. -/
def hopsBetween (gone : List Nat) (a b : Nat) : Nat := ((upto 0 8).find? (fun n => (spread gone n [a]).contains b)).getD 8

/-- The link of a die that leads to its parent in the spanning tree of the remaining links, which is rooted at die 0. DESIGN CHOICE (log 109):
a parent is one hop nearer to the root; which one, where there are several, is firmware's. -/
def treeUp (gone : List Nat) (die : Nat) : Nat :=
  let l := (openDirs gone die).filter (fun dir => decide (hopsBetween gone 0 (neighbour die dir) + 1 = hopsBetween gone 0 die))
  l.getD (Config.fallbackRoute gone die 0 0 true % l.length) 0
/-- A die and its ancestors, up to the root. -/
def treePath (gone : List Nat) : Nat → Nat → List Nat
  | 0, die => [die]
  | n + 1, die => if die = 0 then [0] else die :: treePath gone n (neighbour die (treeUp gone die))
/-- The B route (R238): up the tree until the destination lies below, then down. -/
def treeRoute (gone : List Nat) (die dst : Nat) : Nat :=
  let way := treePath gone 8 dst
  if way.contains die then
    let child := (way.takeWhile (fun d => decide (d ≠ die))).getLastD dst
    ((openDirs gone die).find? (fun dir => decide (neighbour die dir = child))).getD 0
  else treeUp gone die
/-- The A route (R238): a link that leads nearer to the destination; which one, where there are several, is firmware's. -/
def openRoute (gone : List Nat) (die dst cls : Nat) : Nat :=
  let l := (openDirs gone die).filter (fun dir => decide (hopsBetween gone (neighbour die dir) dst + 1 = hopsBetween gone die dst))
  l.getD (Config.fallbackRoute gone die dst cls false % l.length) 0

/-- The link and channel of a flit's next hop: the channel moves to B at the dateline, stays there for the x hops, and is A on y; under
fallback tables the A or the B route; one that has taken channel B under fallback tables never returns to A, whichever tables a later die
has (R233, R238). -/
def State.hopOf (s : State) (die : Nat) (f : Flit) : Option (Nat × Bool) :=
  let d := s.die die
  if die = f.dst then none
  else if d.fallback then some (linkKey die (if f.chanB then treeRoute d.loaded die f.dst else openRoute d.loaded die f.dst f.cls), f.chanB)
  else (nextDir die f.dst).map (fun dir => (linkKey die dir, f.fall || (decide (dir ≠ 2) && (f.chanB || crossesDateline die dir))))

/-- The links that a flit passes from a die on, by the tables as they stand. -/
def State.walkLinks (s : State) : Nat → Nat → Flit → List Nat
  | 0, _, _ => []
  | n + 1, die, f =>
    match s.hopOf die f with
    | none => []
    | some (l, b) => l :: s.walkLinks n (neighbour die (l % 3)) { f with chanB := b }

/-- The links on a message's route from a die: those of its flits on channel A, and from every die with fallback tables those of channel B. -/
def State.wayLinks (s : State) (die dst cls : Nat) : List Nat :=
  let f : Flit := { hdr := 0, payload := [], msg := none, dst := dst, cls := cls, chanB := false }
  let a := s.walkLinks 8 die f
  a ++ a.flatMap (fun l => if (s.die (l / 3)).fallback then s.walkLinks 8 (l / 3) { f with chanB := true, fall := true } else [])

/-! ### Credits and sending on a link (R233, R236) -/

def chanCode (cls : Nat) (b : Bool) : Nat := cls * 2 + (if b then 1 else 0)

/-- Whether a channel may use a further entry of the receiver: its reserve of two, or a shared one. -/
def Link.hasCredit (l : Link) (ch : Nat) : Bool :=
  let shared := (upto 0 6).foldl (fun n c => n + (Map.get l.used 0 c - 2)) 0
  decide (Map.get l.used 0 ch < 2) || decide (shared + 12 < l.good)

/-- The receiver of a link acknowledges the flits up to the first that still stands in its buffer: until it leaves, the sender keeps them for
a replay (R236, R237). -/
def State.ackLink (s : State) (l : Nat) : State :=
  let x := s.linkAt l
  let first := x.standing.foldl min x.expected
  if x.withdrawn ∨ first = 0 then s else s.send (3000000 + reverseLink l) 5 (.linkAck l (first - 1))

/-- Gives back the buffer entry in which a flit stood. -/
def State.freeEntry (s : State) (hop : Option (Nat × Nat × Nat)) : State :=
  match hop with
  | none => s
  | some (l, ch, q) =>
    (s.modLink l (fun x => { x with used := Map.set x.used 0 ch (Map.get x.used 0 ch - 1), standing := x.standing.filter (· ≠ q) })).ackLink l

/-- A flit as it goes out on a link: with its lseq and channel, coded (R234, R235). -/
def Flit.coded (f : Flit) (q : Nat) : Flit :=
  let hdr := (f.hdr &&& ~~~ BitVec.ofNat 128 (0xFFFF * 2 ^ 112 + 2 ^ 81)) |||
    BitVec.ofNat 128 (q % 65536 * 2 ^ 112 + (if f.chanB then 2 ^ 81 else 0))
  let par := rsParity (bytesOf 16 hdr.toNat ++ f.payload)
  { f with hdr := hdr, parity := par.take 8, rest := par.drop 8, hop := none }

/-- The 152 bytes of a flit on a link (R234). -/
def Flit.wire (f : Flit) : List Byte := bytesOf 16 f.hdr.toNat ++ f.payload ++ f.parity
/-- Bytes as errors leave them. -/
def struck (w : List Byte) (e : List (Nat × Byte)) : List Byte :=
  ((upto 0 w.length).zip w).map (fun x => (e.filter (fun y => decide (y.1 = x.1))).foldl (fun b y => b ^^^ y.2) x.2)
/-- In how many bytes two words differ. -/
def byteErrors (a b : List Byte) : Nat := ((a.zip b).filter (fun e => decide (e.1 ≠ e.2))).length
/-- Decoding of a received word (R235): the word that was sent, where it lies within the code's reach, of which there is one at most, the code's
distance being 17. With p8 to p15 erased the reach is 4 errors, with all 16 parity bytes 8. DESIGN CHOICE (log 22): beyond it decoding fails,
also where the received word lies within reach of another code word, of which the manual says nothing. -/
def Flit.decode (f : Flit) (word : List Byte) (all : Bool) : Option (List Byte) :=
  if byteErrors f.wire word ≤ (if all then 8 else 4) then some (f.wire ++ if all then f.rest else []) else none
/-- The errors of a flit that a pattern makes. -/
def Flit.errors (f : Flit) (e : List (Nat × Byte)) : Nat := byteErrors f.wire (struck f.wire e)

/-- The message of a flit as a number, over its stream and sequence. -/
def Flit.key (f : Flit) : Option Nat := f.msg.map (fun m => ((m.src * 2 ^ 19 + m.dst) * 4 + m.cls) * 65536 + m.sseq % 65536)

/-- Sends a link's waiting flits: in each channel's order, those whose channel has an entry. -/
def State.pumpLink (k : Nat) : List Flit → List Nat → State → State
  | [], _, s => s
  | f :: l, shut, s =>
    let x := s.linkAt k
    let ch := chanCode f.cls f.chanB
    if shut.contains ch ∨ f.lost ∨ !x.hasCredit ch then
      pumpLink k l (ch :: shut) (s.modLink k (fun x => { x with waiting := x.waiting ++ [f] }))
    else
      let q := x.next
      let s := s.modLink k (fun x => { x with
        next := q + 1
        unacked := x.unacked ++ [(q, f.coded q)]
        flying := x.flying ++ [q]
        used := Map.set x.used 0 ch (Map.get x.used 0 ch + 1) })
      pumpLink k l shut ((s.freeEntry f.hop).send (3000000 + k) 5 (.flitReceive k))

/-- Tries to send what waits for a link, and watches channel A for the block of R238. -/
def State.tryLink (s : State) (k : Nat) : State :=
  let x := s.linkAt k
  if x.training ∨ x.withdrawn then s
  else
    let s := State.pumpLink k x.waiting [] (s.modLink k (fun x => { x with waiting := [] }))
    let blocked := (s.linkAt k).waiting.filter (fun f => !f.chanB)
    if blocked = [] ∨ !(s.die (k / 3)).fallback ∨ s.inFlight (.channelATimeout k) then s
    else s.at_ (max (s.now + 1) (blocked.foldl (fun n f => min n f.since) s.now + 32)) 6 (.channelATimeout k)

/-- Puts a flit before its next hop; where its message has taken channel B, it does too. A flit routed onto a withdrawn link is lost (R238). -/
def State.routeFlit (s : State) (die : Nat) (f : Flit) : State :=
  match s.hopOf die f with
  | none => s.freeEntry f.hop
  | some (k0, b0) =>
    let follows := !b0 && (match f.key with
      | some m => (s.linkAt k0).moved.contains m
      | none => false)
    let f := { f with chanB := b0 || follows, fall := f.fall || ((b0 || follows) && (s.die die).fallback), since := s.now }
    let k := if follows then ((s.hopOf die f).map (·.1)).getD k0 else k0
    let s := if follows ∧ f.idx + 1 = f.count then s.modLink k0 (fun x => { x with moved := x.moved.filter (fun m => decide (some m ≠ f.key)) }) else s
    if (s.linkAt k).withdrawn then s.freeEntry f.hop
    else (s.modLink k (fun x => { x with waiting := x.waiting ++ [f] })).tryLink k

/-! ### Streams (R230, R231) -/

/-- A stream as a number: source and destination endpoint, each with its module, and class. -/
def streamKey (src dst cls : Nat) : Nat := (src * 2 ^ 19 + dst) * 4 + cls
def endCode (e : Nat) : Nat := e % 8

/-- The flit header (R234), its lseq and vc still zero; an only or first flit bears the message's tag. -/
def flitHeader (m : NetMsg) (pos len : Nat) : BitVec 128 :=
  BitVec.ofNat 128 (m.sseq % 65536 * 2 ^ 96 + endDie m.src * 2 ^ 93 + endCode m.src * 2 ^ 90 + endDie m.dst * 2 ^ 87 +
    endCode m.dst * 2 ^ 84 + m.cls * 2 ^ 82 + pos * 2 ^ 79 + (len - 1) * 2 ^ 72 + (if pos < 2 then m.tag % 2 ^ 64 else 0))

/-- The flits of a message (R234). -/
def flitsOf (m : NetMsg) : List Flit :=
  let n := max 1 ((m.bytes.length + 127) / 128)
  (upto 0 n).map (fun i =>
    let p := (m.bytes.drop (128 * i)).take 128
    let pos := if n = 1 then 0 else if i = 0 then 1 else if i + 1 = n then 3 else 2
    { hdr := flitHeader m pos (max 1 p.length), payload := p ++ List.replicate (128 - p.length) 0
      msg := some m, idx := i, count := n, dst := endDie m.dst, cls := m.cls, chanB := false })

/-- Carries a message to its destination die: over links, or across the die. -/
def State.carry (s : State) (m : NetMsg) : State :=
  if endDie m.src = endDie m.dst then
    let (n, s) := s.newId
    let s : State := { s with netMsgs := Map.put s.netMsgs n m }
    s.send (4000000 + (m.src % 64 * 64 + m.dst % 64) * 4 + m.cls) 5 (.streamMessageArrival n)
  else (flitsOf m).foldl (fun s f => s.routeFlit (endDie m.src) f) s

/-- Sends a message on a stream of this module: numbered, kept until its delivery is acknowledged (R231). -/
def State.sendStream (s : State) (src dst cls : Nat) (body : NetBody) (bytes : List Byte) : State :=
  let k := streamKey src dst cls
  let m : NetMsg := { src := src, dst := dst, cls := cls, sseq := (s.streamAt k).next % 65536, body := body, bytes := bytes
                      tag := Config.messageTag s.draws }
  let s : State := { s with draws := s.draws + 1 }
  let s := s.modStream k (fun x => { x with next := (x.next + 1) % 65536, kept := x.kept ++ [(m.sseq, m, s.now)] })
  (s.carry m).at_ (s.now + 65536) 7 (.streamResendTimeout k)

/-- Sends a delivery acknowledgement on the system class; it belongs to no stream (R231). -/
def State.sendDeliveryAck (s : State) (src dst cls upto : Nat) : State :=
  s.carry { src := dst, dst := src, cls := 2, sseq := 0, body := .deliveryAck src dst cls upto, bytes := [] }

/-! ### The fabric (R241 to R245) -/

def nsccKey (domain module : Nat) : Nat := domain * 8192 + module

/-- The NSCC entry of a port, as it reads when absent (R244). -/
def FabricPort.entry (p : FabricPort) (domain module : Nat) : Nscc :=
  Map.get p.nscc { window := p.initWindow } (nsccKey domain module)

/-- Changes an NSCC entry, making it the most recently used; the least recently used leaves when 8,192 are held. -/
def FabricPort.touch (p : FabricPort) (domain module : Nat) (f : Nscc → Nscc) : FabricPort :=
  let k := nsccKey domain module
  let m := Map.put p.nscc k (f (p.entry domain module))
  let l := p.lru.filter (· ≠ k) ++ [k]
  if l.length > 8192 then { p with nscc := Map.erase m (l.headD 0), lru := l.drop 1 } else { p with nscc := m, lru := l }

def FabricPort.room (p : FabricPort) (domain module : Nat) : Int :=
  let e := p.entry domain module
  (e.window : Int) - e.flight

/-- The fabric port a message takes: of those in the mask that are up, the one with the most room, the lowest at a tie (R243). -/
def State.choosePort (s : State) (mask domain module : Nat) : Option Nat :=
  let l := (upto 0 16).filter (fun p => mask.testBit p && (s.fabricAt p).up)
  l.foldl (fun best p =>
    match best with
    | none => some p
    | some b => if (s.fabricAt b).room domain module < (s.fabricAt p).room domain module then some p else best) none

/-- The key a port sends a domain's packets under (R245). -/
def Die.sendKey (d : Die) (domain : Nat) : Option (BitVec 256) :=
  let k := Map.get d.keys {} domain
  if k.current then k.slot1 else k.slot0

/-- Sends one queue message in a packet from a fabric port (R241 to R243). A domain without a current key sends nothing. -/
def State.fabricSend (s : State) (port : Nat) (m : QMsg) : State :=
  let module := if m.back then m.smod else qidModule m.qid
  let bytes := (bytesOf 32 m.header.toNat).reverse ++ m.data
  match (s.die (port / 2)).sendKey m.domain with
  | none => s.modFabric port (fun p => { p with drops := p.drops + 1 })
  | some key =>
    let n : NetMsg := { src := m.src, dst := m.dst, cls := m.cls, sseq := m.sseq, body := .queue m, bytes := bytes }
    let e := (s.fabricAt port).entry m.domain module
    let path := if e.paths = [] then (upto 0 16).map (fun i => Config.entropy (s.draws + i)) else e.paths
    let s : State := { s with draws := s.draws + (if e.paths = [] then 17 else 1) }
    let pk : Packet := {
      rmod := module, domain := m.domain, auth := key, msg := n, psn := (s.fabricAt port).psn
      ipv6 := (s.fabricAt port).ipv6, dport := (s.fabricAt port).udp
      entropy := path.getD (Config.choice s.draws % 16) 0 }
    let s := s.modFabric port (fun p =>
      { (p.touch m.domain module (fun e => { e with flight := e.flight + bytes.length, paths := path })) with
        psn := p.psn + 1, unacked := p.unacked ++ [pk], sent := p.sent ++ [pk] })
    let (l, s) := s.drawLatency
    (s.tallyDie (port / 2) (fabricUnit (port % 2)) .packets 1).at_ (s.now + 1 + l) 7 (.pdsRetransmit port)

/-! ### Sending a queue message -/

def localChan (m : QMsg) : Nat := 1000000 + (m.src % 64 * 64 + m.dst % 64) * 4 + m.cls

/-- Sends a queue message for another module by the fabric port that is chosen now: at once, or over the package network in the message's
own class, a QRES request, an answer or a grant in that of queue control (R230, R243). -/
def State.sendAway (s : State) (mask : Nat) (m : QMsg) : State :=
  match s.choosePort mask m.domain (if m.back then m.smod else qidModule m.qid) with
  | none => s
  | some p =>
    if p / 2 = endDie m.src then s.fabricSend p m
    else s.sendStream m.src (endpoint s.module (p / 2) (4 + p % 2)) m.cls (.toFabric p m) (bytesOf 32 m.header.toNat ++ m.data)

/-- The stream sequence under which a message for another module is still kept, if it has been sent before and its delivery is not
acknowledged: it is sent again under the same one (R231, R241). -/
def State.keptAway (s : State) (m : QMsg) : Option Nat :=
  if m.back then none
  else ((s.streamAt (streamKey m.src m.dst m.cls)).kept.find? (fun e => match e.2.1.body with
    | .away _ q => decide (q.id = m.id ∧ q.kind = m.kind ∧ q.key = m.key ∧ q.qid = m.qid)
    | _ => false)).map (·.1)

/-- Sends a queue message to its destination port: across the die, over the package network, or through a fabric port of the
mask. False where no port of the mask is up: the message waits (R243). One for another module is kept at its source until its delivery is
acknowledged, like every message of a stream (R231). -/
def State.sendQ (s : State) (m : QMsg) (mask : Nat) : Bool × State :=
  let module := if m.back then m.smod else qidModule m.qid
  if module = s.module then
    if endDie m.src = endDie m.dst then
      let (n, s) := s.addQMsg m
      (true, s.send (localChan m) m.prio (m.event n))
    else (true, s.sendStream m.src m.dst m.cls (.queue m) (bytesOf 32 m.header.toNat ++ m.data))
  else
    match s.choosePort mask m.domain module with
    | none => (false, s)
    | some _ =>
      let k := streamKey m.src m.dst m.cls
      match s.keptAway m with
      | some q => (true, s.sendAway mask { m with sseq := q })
      | none =>
        let m := { m with sseq := (s.streamAt k).next % 65536 }
        let n : NetMsg := { src := m.src, dst := m.dst, cls := m.cls, sseq := m.sseq, body := .away mask m }
        let s := s.modStream k (fun x => { x with next := (x.next + 1) % 65536, kept := x.kept ++ [(m.sseq, n, s.now)] })
        (true, (s.sendAway mask m).at_ (s.now + 65536) 7 (.streamResendTimeout k))

/-- The message of a retained copy has been answered, so that it was delivered: its source endpoint lets go of it (R231). -/
def State.letGo (s : State) (m : QMsg) : State :=
  if qidModule m.qid = s.module then s
  else s.modStream (streamKey m.src m.dst m.cls) (fun x => { x with kept := x.kept.filter (fun e => match e.2.1.body with
    | .away _ q => decide (q.id ≠ m.id)
    | _ => true) })

/-! ### Receiving from a stream (R231) -/

/-- Delivers a message of this module's network to its endpoint. -/
def State.deliverNet (s : State) (m : NetMsg) : State :=
  if (s.die (endDie m.dst)).mode = .dumped then s else
  match m.body with
  | .queue q => s.handQ q
  | .toFabric p q => s.fabricSend p q
  | .withdraw l => s.at_ s.now 5 (.withdrawalAnnounce (endDie m.dst) l)
  | .fromFabric _ _ | .deliveryAck .. | .away .. => s

/-- How many messages the endpoint holds in a class's reorder store. -/
def State.heldCount (s : State) (dst cls : Nat) : Nat :=
  s.streams.foldl (fun n e => if e.1 % 4 = cls ∧ e.1 / 4 % 2 ^ 19 = dst then n + e.2.held.length else n) 0

/-- Delivers the held messages that follow, at most n of them. -/
def State.drainHeld (k : Nat) (give : State → NetMsg → State) : Nat → State → State
  | 0, s => s
  | n + 1, s =>
    let x := s.streamAt k
    match x.held.find? (fun e => decide (e.1 = x.expected)) with
    | none => s
    | some (q, m) =>
      drainHeld k give n (give (s.modStream k (fun x => { x with
        expected := (x.expected + 1) % 65536, held := x.held.filter (fun e => decide (e.1 ≠ q)) })) m)

/-- Judges an arriving message by its stream sequence: delivered, held, or dropped (R231). -/
def State.sequence (s : State) (m : NetMsg) (give : State → NetMsg → State) : State :=
  let k := streamKey m.src m.dst m.cls
  let x := s.streamAt k
  let ahead := (m.sseq + 65536 - x.expected) % 65536
  if ahead = 0 then
    State.drainHeld k give 64 (give (s.modStream k (fun x => { x with expected := (x.expected + 1) % 65536 })) m)
  else if ahead ≤ 63 then
    if x.held.any (fun e => decide (e.1 = m.sseq)) ∨ s.heldCount m.dst m.cls ≥ 64 then s
    else s.modStream k (fun x => { x with held := x.held ++ [(m.sseq, m)] })
  else s

/-- STREAM_MESSAGE_ARRIVAL: a message reaches its endpoint; delivery is acknowledged up to the last in order. A message that
came through a fabric port is also ordered by the stream on which its module sent it. -/
def execStreamMessageArrival (msg : Nat) (s : State) : Out :=
  match Map.find s.netMsgs msg with
  | none => .next s
  | some m =>
    let s : State := { s with netMsgs := Map.erase s.netMsgs msg }
    match m.body with
    | .deliveryAck .. =>
      let (n, s) := s.newId
      .next ({ s with netMsgs := Map.put s.netMsgs n m }.at_ s.now 5 (.streamDeliveryAck n))
    | _ =>
      let s := s.sequence m (fun s m =>
        match m.body with
        | .fromFabric _ q =>
          s.sequence { src := q.src, dst := q.dst, cls := q.cls, sseq := q.sseq, body := .queue q } State.deliverNet
        | _ => s.deliverNet m)
      let x := s.streamAt (streamKey m.src m.dst m.cls)
      .next (s.sendDeliveryAck m.src m.dst m.cls ((x.expected + 65535) % 65536))

/-- The source of a stream lets go of what it keeps up to a sequence (R231). -/
def State.releaseKept (s : State) (k upto : Nat) : State :=
  s.modStream k (fun x => { x with kept := x.kept.filter (fun e => decide ((upto + 65536 - e.1) % 65536 ≥ 32768)) })

/-- STREAM_DELIVERY_ACK: the source lets go of every message up to the acknowledged one. -/
def execStreamDeliveryAck (msg : Nat) (s : State) : Out :=
  match Map.find s.netMsgs msg with
  | some { body := .deliveryAck src dst cls upto, .. } =>
    .next ({ s with netMsgs := Map.erase s.netMsgs msg }.releaseKept (streamKey src dst cls) upto)
  | _ => .next s

/-- Resends a stream's unacknowledged messages, in order (R231). -/
def State.resendStream (s : State) (k : Nat) : State :=
  let x := s.streamAt k
  let s := s.modStream k (fun x => { x with kept := x.kept.map (fun e => (e.1, e.2.1, s.now)) })
  (x.kept.foldl (fun s e => match e.2.1.body with
    | .away mask q => s.sendAway mask q
    | _ => s.carry e.2.1) s).at_ (s.now + 65536) 7 (.streamResendTimeout k)

/-- STREAM_RESEND_TIMEOUT: 65,536 clocks without an acknowledgement. -/
def execStreamResendTimeout (stream : Nat) (s : State) : Out :=
  if (s.streamAt stream).kept.any (fun e => decide (e.2.2 + 65536 ≤ s.now)) then .next (s.resendStream stream) else .next s

/-! ### Links (R236, R237) -/

/-- A link is withdrawn (R237): what it carried and what waits for it is lost, and both dies' controllers announce it. -/
def State.withdrawLink (s : State) (k : Nat) : State :=
  if (s.linkAt k).withdrawn then s
  else
    let r := reverseLink k
    let lose := fun (s : State) (j : Nat) =>
      let x := s.linkAt j
      (x.waiting.foldl (fun s f => s.freeEntry f.hop) s).modLink j (fun x => { x with
        withdrawn := true, training := false, unacked := [], waiting := [], flying := [], heldBack := [], asked := [], missing := [], moved := [] })
    let s := lose (lose s k) r
    let s : State := { s with links := s.links.map (fun e => (e.1, { e.2 with waiting := e.2.waiting.filter (fun f =>
      !(f.lost && (match f.hop with
        | some (l, _, _) => decide (l = k ∨ l = r)
        | none => false))) })) }
    [k / 3, r / 3].foldl (fun s d => (upto 0 8).foldl (fun s e =>
      s.sendStream (endpoint s.module d 6) (endpoint s.module e 6) 2 (.withdraw k) []) s) s

/-- Ten milliseconds of the arithmetic clock (R1, R237). -/
def retrainSpan : Nat := 15000000

/-- Retrains a link, both directions stopped (R237): what is on the wire is lost, control words too. A third retrain within the span withdraws
it. -/
def State.retrain (s : State) (k : Nat) : State :=
  let x := s.linkAt k
  let l := (x.retrains.filter (fun t => decide (s.now < t + retrainSpan))) ++ [s.now]
  let s := s.tallyDie (k / 3) (linkUnit (k % 3)) .retrains 1
  if l.length ≥ 3 then s.withdrawLink k
  else
    let stop := fun (x : Link) => { x with training := true, retrains := l, flying := [], heldBack := [], asked := [], ladder := .normal }
    let s := (s.modLink k stop).modLink (reverseLink k) stop
    let (n, s) := s.drawLatency
    s.at_ (s.now + 1 + n % 30000) 5 (.linkRetrainComplete k)

/-- Sends a replay request (R236, step 2). -/
def State.askReplay (s : State) (k : Nat) : State :=
  (s.tallyDie (k / 3) (linkUnit (k % 3)) .replays 1).send (3000000 + reverseLink k) 5 (.replayRequest k)

/-- Asks for the replay of the awaited flit and every later one; later flits held back are discarded (R236, step 2). -/
def State.requestReplay (s : State) (k : Nat) : State := (s.modLink k (fun x => { x with ladder := .replay, heldBack := [] })).askReplay k

/-- Asks for the other half of a flit's parity (R236, step 1). -/
def State.requestParity (s : State) (k q : Nat) (damage : List (Nat × Byte)) : State :=
  ((s.modLink k (fun x => { x with asked := x.asked.filter (fun e => decide (e.1 ≠ q)) ++ [(q, damage)] })).tallyDie (k / 3) (linkUnit (k % 3)) .parityRequests 1).send
    (3000000 + reverseLink k) 5 (.parityRequest k)

/-- What the receiver finds wrong in a flit that decodes: a reserved class, endpoint 7 or a nonzero reserved field (R234). -/
def reservedFlit (f : Flit) : Bool :=
  decide (f.hdr.extractLsb' 82 2 = 3 ∨ f.hdr.extractLsb' 90 3 = 7 ∨ f.hdr.extractLsb' 84 3 = 7 ∨ f.hdr.extractLsb' 64 8 ≠ 0)

/-- A flit has come to its message's destination die: the message is complete with all of its flits (R234). -/
def State.joinFlit (s : State) (die : Nat) (f : Flit) : State :=
  match f.msg, f.key with
  | some m, some key =>
    let got := f.idx :: (Map.get (s.die die).arriving [] key).filter (· ≠ f.idx)
    if got.length < f.count then s.modDie die (fun d => { d with arriving := Map.put d.arriving key got })
    else
      let (n, s) := (s.modDie die (fun d => { d with arriving := Map.erase d.arriving key })).newId
      { s with netMsgs := Map.put s.netMsgs n m }.at_ s.now 5 (.streamMessageArrival n)
  | _, _ => s

/-- An accepted flit goes on: to its message on this die, or before its next hop, in the buffer entry of its channel. -/
def State.passFlit (s : State) (k q : Nat) (f : Flit) : State :=
  let die := neighbour (k / 3) (k % 3)
  let entry := some (k, chanCode f.cls f.chanB, q)
  if die = f.dst then ((s.freeEntry entry).joinFlit die f).tryLink k
  else ((s.modLink k (fun x => { x with standing := q :: x.standing })).routeFlit die { f with hop := entry }).tryLink k

/-- Accepts the awaited flit (R236). One that is reserved has its message dropped and counted, and is resent once; what comes then is dropped
for good (R234). -/
def State.acceptFlit (s : State) (k : Nat) (corrected : Nat) : State :=
  let x := s.linkAt k
  let s := s.tallyDie (k / 3) (linkUnit (k % 3)) .correctedBytes corrected
  match x.unacked.find? (fun e => decide (e.1 = x.expected)) with
  | none => s
  | some (q, f) =>
    if reservedFlit f ∧ (x.ladder = .normal ∨ x.ladder = .parity) then (s.modLink k (fun x => { x with drops := x.drops + 1 })).requestReplay k
    else
      let s := s.modLink k (fun x => { x with expected := q + 1, ladder := .normal })
      if reservedFlit f then s.freeEntry (some (k, chanCode f.cls f.chanB, q)) else s.passFlit k q f

/-- The flit that a link's receiver awaits, as its sender keeps it. -/
def Link.awaited (x : Link) : Option Flit := (x.unacked.find? (fun e => decide (e.1 = x.expected))).map (·.2)

/-- One decode of the awaited flit with p0 to p7 (R235, R236). -/
def State.decodeFlit (s : State) (k : Nat) (damage : List (Nat × Byte)) (resent : Bool) : State :=
  let x := s.linkAt k
  match x.awaited with
  | none => s
  | some f =>
    match f.decode (struck f.wire damage) false with
    | some _ => s.acceptFlit k (f.errors damage)
    | none => (s.modLink k (fun x => { x with ladder := if resent then .resentParity else .parity })).requestParity k x.expected damage

/-- The flit of a failed buffer entry has been recovered: it stands in its place again (R237). -/
def State.restoreFlit (s : State) (k q : Nat) : State :=
  let s := s.modLink k (fun x => { x with missing := x.missing.filter (· ≠ q) })
  let here := fun (f : Flit) => match f.hop with
    | some (l, _, n) => decide (l = k ∧ n = q)
    | none => false
  let at_ := (s.links.filter (fun e => e.2.waiting.any here)).map (·.1)
  let s : State := { s with links := s.links.map (fun e => (e.1, { e.2 with waiting := e.2.waiting.map (fun f => if here f then { f with lost := false } else f) })) }
  at_.foldl (fun s j => s.tryLink j) s

/-- A flit that its sender keeps, as the decode of one that errors have struck finds it: with p0 to p7 alone or with all 16 parity bytes. -/
def Link.decodes (x : Link) (q : Nat) (damage : List (Nat × Byte)) (all : Bool) : Bool :=
  match x.unacked.find? (fun e => decide (e.1 = q)) with
  | some (_, f) => (f.decode (struck f.wire damage) all).isSome
  | none => true

/-- The flit of a failed buffer entry has been sent again: where it fails to decode, the further parity is asked for (R236, R237). -/
def State.recoverFlit (s : State) (k q : Nat) (damage : List (Nat × Byte)) : State :=
  if (s.linkAt k).decodes q damage false then s.restoreFlit k q else s.requestParity k q damage

/-- The flits held back follow, in lseq order, until one fails; one that has been accepted meanwhile is no longer held. -/
def State.releaseHeld (k : Nat) : Nat → State → State
  | 0, s => s
  | n + 1, s =>
    let s := s.modLink k (fun x => { x with heldBack := x.heldBack.filter (fun e => decide (x.expected ≤ e.1)) })
    let x := s.linkAt k
    match x.heldBack with
    | (q, d) :: l =>
      if x.ladder = .normal ∧ q = x.expected then
        releaseHeld k n ((s.modLink k (fun x => { x with heldBack := l })).decodeFlit k d false)
      else s
    | [] => s

/-- FLIT_RECEIVE (R236): the next flit of the wire arrives with the errors that the world has made in it. One that follows a flit whose parity
is asked for is held back, once; one that has been accepted already is dropped. -/
def execFlitReceive (link : Nat) (s : State) : Out :=
  let x := s.linkAt link
  match x.flying with
  | [] => .next s
  | q :: rest =>
    let d := x.noise.headD []
    let s := s.modLink link (fun x => { x with flying := rest, noise := x.noise.drop 1 })
    if x.missing.contains q then .next (s.recoverFlit link q d)
    else if q = x.expected ∧ (x.ladder = .normal ∨ x.ladder = .replay) then .next (s.decodeFlit link d (x.ladder = .replay))
    else if x.expected < q ∧ (x.ladder = .parity ∨ x.ladder = .resentParity) then
      .next (s.modLink link (fun x => { x with heldBack := Map.put x.heldBack q d }))
    else .next s

/-- PARITY_REQUEST: the sender sends p8 to p15 of the flit it keeps. A link in training carries nothing (R237). -/
def execParityRequest (link : Nat) (s : State) : Out :=
  if (s.linkAt link).training then .next s else .next (s.send (3000000 + link) 5 (.parityResponse link))

/-- The awaited flit is decoded with all 16 parity bytes: the held-back flits follow it, or the next step of the ladder is taken (R236). -/
def State.judgeParity (s : State) (k : Nat) (damage : List (Nat × Byte)) : State :=
  let x := s.linkAt k
  let errors := match x.awaited with
    | some f => f.errors damage
    | none => 0
  if x.awaited.isSome && x.decodes x.expected damage true then State.releaseHeld k x.heldBack.length (s.acceptFlit k errors)
  else
    match x.ladder with
    | .parity => s.requestReplay k
    | .resentParity => s.retrain k
    | _ => s

/-- PARITY_RESPONSE: the receiver decodes with all 16 parity bytes the flit for which it asked first (R235, R236). A flit that has been sent
again to stand in a failed entry and fails both decodes retrains the link. -/
def execParityResponse (link : Nat) (s : State) : Out :=
  let x := s.linkAt link
  match x.asked with
  | [] => .next s
  | (q, d) :: rest =>
    let s := s.modLink link (fun x => { x with asked := rest })
    if x.training then .next s
    else if x.missing.contains q then .next (if x.decodes q d true then s.restoreFlit link q else s.retrain link)
    else if q = x.expected ∧ (x.ladder = .parity ∨ x.ladder = .resentParity) then .next (s.judgeParity link d)
    else .next s

/-- Puts every unacknowledged flit from an lseq on back on the wire. -/
def State.replayFrom (s : State) (k from_ : Nat) : State :=
  let l := ((s.linkAt k).unacked.filter (fun e => decide (from_ ≤ e.1))).map (·.1)
  l.foldl (fun s _ => s.send (3000000 + k) 5 (.flitReceive k)) (s.modLink k (fun x => { x with flying := x.flying ++ l }))

/-- REPLAY_REQUEST: the sender resends the flit that the receiver awaits, or one whose entry has failed, and every later one; over a link in
training, nothing: it replays when it has trained. -/
def execReplayRequest (link : Nat) (s : State) : Out :=
  let x := s.linkAt link
  if x.training then .next s else .next (s.replayFrom link (x.missing.foldl min x.expected))

/-- LINK_ACK: the sender frees the flits up to an lseq; one that training overtakes is given anew after it. -/
def execLinkAck (link upto : Nat) (s : State) : Out :=
  if (s.linkAt link).training then .next s else
  .next (s.modLink link (fun x => { x with unacked := x.unacked.filter (fun e => decide (upto < e.1)) }))

/-- LINK_RETRAIN_COMPLETE (R237): a half with a failing lane is disabled; with neither, the link is withdrawn; else each direction
replays from its first unacknowledged flit. DESIGN CHOICE (log 116): every training tries all 32 lanes, so a half that one training has disabled
comes back with the next in which all its lanes pass. -/
def execLinkRetrainComplete (link : Nat) (s : State) : Out :=
  if !(s.linkAt link).training then .next s
  else
    let bad := Config.trainingFailures s.draws
    let s : State := { s with draws := s.draws + 1 }
    let low := bad.any (fun l => decide (l < 16))
    let high := bad.any (fun l => decide (16 ≤ l ∧ l < 32))
    if low ∧ high then .next (s.withdrawLink link)
    else
      .next ([link, reverseLink link].foldl (fun s k =>
        (((s.modLink k (fun x => { x with training := false, half := low || high })).ackLink k).replayFrom k 0).tryLink k) s)

/-- BUFFER_ENTRY_ERROR (R237): the entry is retired; below 12 good ones the link is withdrawn, else the flit in it, if there is one, keeps
its place until a replay has recovered it. The flit that the receiver awaits stays at its own step of the ladder. -/
def execBufferEntryError (link : Nat) (s : State) : Out :=
  let x := s.linkAt link
  if x.withdrawn then .next s
  else
    let s := (s.modLink link (fun x => { x with good := x.good - 1 })).tallyDie (link / 3) (linkUnit (link % 3)) .retiredEntries 1
    if x.good - 1 < 12 then .next (s.withdrawLink link)
    else
      let (n, s) := s.drawChoice (x.standing.length + 1)
      match x.standing[n]? with
      | none => .next s
      | some q =>
        let s : State := { s with links := s.links.map (fun e => (e.1, { e.2 with waiting := e.2.waiting.map (fun f =>
          match f.hop with
          | some (l, _, i) => if l = link ∧ i = q then { f with lost := true } else f
          | none => f) })) }
        .next ((s.modLink link (fun x => { x with missing := q :: x.missing.filter (· ≠ q) })).askReplay link)

/-! ### Withdrawal (R238, R239) -/

/-- WITHDRAWAL_ANNOUNCE: a die's controller learns of a withdrawal. It will load the fallback tables for the set of withdrawn links within
100 µs; messages that its endpoints have not had acknowledged and whose route, by the tables it still has, uses the link are resent at once
(R231); a die left unreachable is a fatal module error (R239). -/
def execWithdrawalAnnounce (die link : Nat) (s : State) : Out :=
  let d := s.die die
  if d.fallbackFor.contains (min link (reverseLink link)) then .next s
  else
    let gone := withGone link d.fallbackFor
    let s := s.setDie die { d with fallbackFor := gone }
    if (spread gone 8 [0]).length < 8 then .next (s.at_ s.now 5 (.fatalDieError die 1))
    else
      let hit := (s.streams.filter (fun e => decide (endDie (e.1 / 4 / 2 ^ 19) = die) && e.2.kept.any (fun k =>
        decide (k.2.1.dst / 64 = s.module) &&
        (s.wayLinks die (endDie k.2.1.dst) k.2.1.cls).any (fun l => decide (l = link ∨ reverseLink l = link))))).map (·.1)
      let s := hit.foldl (fun s k => s.resendStream k) s
      let (n, s) := s.drawLatency
      .next (s.at_ (s.now + 1 + n % 150000) 5 (.fallbackTableSwitch die))

/-- FALLBACK_TABLE_SWITCH: the die routes by the firmware's tables for the links that it knows to be withdrawn from here on, and watches what
already waits on channel A. -/
def execFallbackTableSwitch (die : Nat) (s : State) : Out :=
  .next ((upto 0 3).foldl (fun s dir => s.tryLink (linkKey die dir)) (s.modDie die (fun d => { d with fallback := true, loaded := d.fallbackFor })))

/-- CHANNEL_A_TIMEOUT: under fallback tables a message blocked on channel A for 32 clocks takes the B route at its next hop, with all its flits
(R238). -/
def execChannelATimeout (link : Nat) (s : State) : Out :=
  if !(s.die (link / 3)).fallback then .next s else
  let x := s.linkAt link
  let due := x.waiting.filter (fun f => !f.chanB && decide (f.since + 32 ≤ s.now))
  let keys := due.filterMap Flit.key
  let go := x.waiting.filter (fun f => !f.chanB && ((match f.key with
    | some m => keys.contains m
    | none => false) || due.contains f))
  let open_ := keys.filter (fun m => !go.any (fun f => decide (f.key = some m ∧ f.idx + 1 = f.count)))
  let s := s.modLink link (fun y => { y with
    waiting := y.waiting.filter (fun f => !go.contains f), moved := y.moved ++ open_.filter (fun m => !y.moved.contains m) })
  .next ((go.foldl (fun s f => s.routeFlit (link / 3) { f with chanB := true, fall := true }) s).tryLink link)

/-- The links of a die, in both directions, as the die's reset leaves them (R237): what they carried is lost. -/
def State.resetLinks (s : State) (die : Nat) : State :=
  let mine := (upto 0 3).flatMap (fun dir => [linkKey die dir, reverseLink (linkKey die dir)])
  let s := mine.foldl (fun s k => (s.linkAt k).waiting.foldl (fun s f => s.freeEntry f.hop) s) s
  { s with
    links := (s.links.filter (fun e => !mine.contains e.1)).map (fun e => (e.1, { e.2 with
      waiting := (e.2.waiting.filter (fun f => !(f.lost && (match f.hop with
        | some (l, _, _) => mine.contains l
        | none => false)))).map (fun f => match f.hop with
        | some (l, _, _) => if mine.contains l then { f with hop := none } else f
        | none => f) }))
    dies := s.dies.map (fun e =>
      let left := e.2.fallbackFor.filter (fun l => !mine.contains l)
      if left = e.2.fallbackFor then e else (e.1, { e.2 with
        fallbackFor := left, loaded := e.2.loaded.filter (fun l => !mine.contains l), fallback := e.2.fallback && decide (left ≠ []) })) }

/-! ### Fabric ports (R240 to R245) -/

/-- Hands a message that came in at a fabric port to its queue port: on this die at once, else over the package network. -/
def State.fromFabric (s : State) (port : Nat) (m : QMsg) : State :=
  let die := port / 2
  if endDie m.dst = die then
    s.sequence { src := m.src, dst := m.dst, cls := m.cls, sseq := m.sseq, body := .queue m } State.deliverNet
  else s.sendStream (endpoint s.module die (4 + port % 2)) m.dst m.cls (.fromFabric port m) (bytesOf 32 m.header.toNat ++ m.data)

/-- What an acknowledgement does (R231, R241, R243): it frees its packet and moves the congestion window, replaces an entropy value whose
mark it returns, and lets the stream's source let go of what has been delivered. -/
def State.takePdsAck (s : State) (port : Nat) (k : Packet) (src dst cls upto : Nat) : State :=
  let s := s.releaseKept (streamKey src dst cls) upto
  match (s.fabricAt port).unacked.find? (fun u => decide (u.psn = k.psn)) with
  | none => s
  | some u =>
    { s with draws := s.draws + 2 }.modFabric port (fun p =>
      let p := p.touch u.domain u.rmod (fun e => { e with
        window := Config.nsccStep e.window s.draws, flight := e.flight - u.msg.bytes.length
        paths := if k.echo then e.paths.map (fun v => if v = u.entropy then Config.entropy (s.draws + 1) else v) else e.paths })
      { p with unacked := p.unacked.filter (fun u => decide (u.psn ≠ k.psn)) })

/-- The acknowledgement of a packet: it returns a switch's mark, and says up to where the packet's stream has been delivered. DESIGN CHOICE
(log 107): R242 has no message for R231's acknowledgement between modules, so that of the packet delivery sublayer carries it. -/
def State.pdsAck (s : State) (k : Packet) : Packet :=
  let upto := ((s.streamAt (streamKey k.msg.src k.msg.dst k.msg.cls)).expected + 65535) % 65536
  { rmod := k.rmod, domain := k.domain, auth := k.auth, ipv6 := k.ipv6, dport := k.dport, echo := k.ecn, psn := k.psn, entropy := k.entropy
    msg := { src := k.msg.dst, dst := k.msg.src, cls := 2, sseq := 0, body := .deliveryAck k.msg.src k.msg.dst k.msg.cls upto } }

/-- FABRIC_PACKET_RECEIVE: the oldest packet that has arrived. One for another UDP port, or that fails authentication, is dropped, counted
and not acknowledged (R241 to R245). -/
def execFabricPacketReceive (port : Nat) (s : State) : Out :=
  let p := s.fabricAt port
  match p.inbox with
  | [] => .next s
  | k :: rest =>
    let s := s.modFabric port (fun p => { p with inbox := rest })
    let keys := Map.get (s.die (port / 2)).keys {} k.domain
    let unit := fabricUnit (port % 2)
    if k.dport ≠ p.udp then .next (s.modFabric port (fun p => { p with drops := p.drops + 1 }))
    else if keys.slot0 ≠ some k.auth ∧ keys.slot1 ≠ some k.auth then
      .next ((s.modFabric port (fun p => { p with drops := p.drops + 1 })).tallyDie (port / 2) unit .authDrops 1)
    else
      let s := s.modFabric port (fun p => p.touch k.domain k.rmod (fun e => { e with marks := (e.marks + if k.ecn then 1 else 0) % 2 ^ 32 }))
      let s := s.tallyDie (port / 2) unit .ecnMarks (if k.ecn then 1 else 0)
      match k.msg.body with
      | .deliveryAck src dst cls upto => .next (s.takePdsAck port k src dst cls upto)
      | .queue m =>
        let s := if qidModule m.qid = s.module ∨ m.back then s.fromFabric port m else s
        let ack := s.pdsAck k
        .next (s.modFabric port (fun p => { p with sent := p.sent ++ [ack] }))
      | _ => .next (s.modFabric port (fun p => { p with drops := p.drops + 1 }))

/-- PDS_RETRANSMIT: the oldest packet without an acknowledgement is sent again with a fresh entropy value, or given up: its element
is still retained, and its stream's source resends it under the same sequence (R231, R241, R243). -/
def execPdsRetransmit (port : Nat) (s : State) : Out :=
  match (s.fabricAt port).unacked with
  | [] => .next s
  | u :: rest =>
    let (giveUp, s) := s.drawChoice 2
    let fresh := Config.entropy s.draws
    let s : State := { s with draws := s.draws + 1 }
    let f := fun (e : Nscc) => { e with window := Config.nsccStep e.window s.draws, paths := e.paths.map (fun v => if v = u.entropy then fresh else v) }
    if giveUp = 1 then
      .next (s.modFabric port (fun p => { p.touch u.domain u.rmod (fun e => { f e with flight := e.flight - u.msg.bytes.length }) with unacked := rest }))
    else
      let u := { u with entropy := fresh }
      let s := s.modFabric port (fun p => { p.touch u.domain u.rmod f with unacked := rest ++ [u], sent := p.sent ++ [u] })
      let (l, s) := s.drawLatency
      .next ((s.tallyDie (port / 2) (fabricUnit (port % 2)) .retransmissions 1).at_ (s.now + 1 + l) 7 (.pdsRetransmit port))

/-- PAUSE_FRAME_RECEIVE: discarded and counted (R240). -/
def execPauseFrameReceive (port : Nat) (s : State) : Out :=
  .next ((s.modFabric port (fun p => { p with pauses := p.pauses + 1 })).tallyDie (port / 2) (fabricUnit (port % 2)) .pauseFrames 1)

end Sys2Proof.Machine
end

