-- ==== Sys2Proof/Machine/Queue.lean ====
section
/-!
DEFINITION. Queues (R203 to R223, R336): translation of handles, the home's slots, grants, placements, claims, sleepers and
refills, the source port's retained copies and answers, and the queue instructions (R224 to R229).
-/
namespace Sys2Proof.Machine

/-! ### Translation entries and handles (R204 to R206) -/

/-- The port that serves a core (R206). -/
def servingPort (core : Nat) : Nat := 2 * (core / 6 / 2) + core % 6 / 3

def entSpray (e : BitVec 64) : Nat := (e.extractLsb' 48 16).toNat
def entEsz (e : BitVec 64) : Nat := (e.extractLsb' 44 4).toNat
def entQid (e : BitVec 64) : Nat := (e.extractLsb' 0 32).toNat
def entGroup (e : BitVec 64) : Nat := (e.extractLsb' 0 10).toNat
def entMulti (e : BitVec 64) : Bool := e.getLsbD 43
/-- Element bytes of a size code (R204). -/
def eszBytes (esz : Nat) : Nat := 16 * 2 ^ esz

/-- Launch queues are the indices 0 to 15 of port 0 (R208, R284). -/
def isLaunch (qid : Nat) : Bool := decide (qidPort qid = 0 ∧ qidIndex qid < 16)

/-- The right an instruction needs (R224). -/
inductive Right where
  | produce
  | post
  | consume
  | any
  deriving DecidableEq, Repr

/-- Whether an entry grants a right. -/
def entRight (e : BitVec 64) : Right → Bool
  | .produce =>
    if entMulti e then e.getLsbD 40 || e.getLsbD 42 else if isLaunch (entQid e) then e.getLsbD 42 else e.getLsbD 40
  | .post => e.getLsbD 40 || e.getLsbD 42
  | .consume => e.getLsbD 41
  | .any => e.getLsbD 40 || e.getLsbD 41 || e.getLsbD 42

/-- The entry of a handle as the issuing core holds it. -/
def State.entry (s : State) (g : Group) (h : Nat) : Option (BitVec 64) :=
  Map.find (s.coreAt (coreKey g.die g.core)).handles (g.ctx * 65536 + h)

/-- The checks of R206 on a translated handle, then the Also column of R224: `multi` where a multicast handle may be named. DESIGN CHOICE (log 122):
the check of spray is made on the entry of one queue; that of a multicast group, whose members name modules of their own, passes it. -/
def entryFault (s : State) (g : Group) (h : Nat) (e : BitVec 64) (r : Right) (multi : Bool) : Option FaultInfo :=
  let c := s.ctxAt (ctxKey g.die g.ctx)
  let bad : FaultInfo := { cls := .queueHandle, aux := h }
  let rights : FaultInfo := { cls := .queueRights, aux := h }
  failIf (!e.getLsbD 32 || decide (entEsz e ≥ 9) || (!entMulti e && decide (entQid e / 2 ^ 30 ≠ 0)) ||
    (entMulti e && decide (entGroup e > c.groupCount))) bad <|>
  failIf (!entMulti e && decide (qidModule (entQid e) ≠ s.module ∧ entSpray e = 0)) bad <|>
  failIf (!entRight e r) rights <|>
  failIf (entMulti e && !multi) rights <|>
  failIf (decide (r = .consume) && decide (qidModule (entQid e) ≠ s.module ∨ qidDie (entQid e) ≠ g.die)) rights

/-- The checks of R206 on the scalar that names a handle. -/
def handleFault (s : State) (g : Group) (x : Nat) (r : Right) (multi : Bool) : Option FaultInfo :=
  let h := x % 65536
  if x ≥ 65536 then some illegalOperand
  else if h ≥ (s.ctxAt (ctxKey g.die g.ctx)).tableSize then some { cls := .queueHandle, aux := h }
  else
    match s.entry g h with
    | some e => entryFault s g h e r multi
    | none => none

/-- A check that comes after those of R206: with a handle that the core does not hold it waits for the translation. -/
def State.whenHeld (s : State) (g : Group) (x : Nat) (f : Option FaultInfo) : Option FaultInfo := if (s.entry g (x % 65536)).isSome then f else none

/-- The wait for a handle that the core does not hold. -/
def handleStall (s : State) (g : Group) (x : Nat) : Option Stall :=
  if (s.entry g (x % 65536)).isNone then some (.handle (g.ctx * 65536 + x % 65536)) else none

/-- HANDLE_TRANSLATION_REPLY: the serving port answers, and the core holds the entry. -/
def execHandleTranslationReply (core handle : Nat) (s : State) : Out :=
  let e := Map.get (s.ctxAt (ctxKey (core / 24) (handle / 65536))).trans 0 (handle % 65536)
  .next (s.modCore core (fun c => { c with handles := Map.put c.handles handle e }))

/-! ### Fields of a queue (R208, R210) -/

def Queue.state (q : Queue) : Nat := (q.desc.extractLsb' 6 2).toNat
def Queue.kind (q : Queue) : Nat := (q.desc.extractLsb' 4 2).toNat
def Queue.esz (q : Queue) : Nat := (q.desc.extractLsb' 8 4).toNat
def Queue.win (q : Queue) : Nat := (q.desc.extractLsb' 31 16).toNat + 1
def Queue.winbase (q : Queue) : Nat := (q.desc.extractLsb' 12 19).toNat * 16
def Queue.spill (q : Queue) : Nat := (q.desc.extractLsb' 47 33).toNat
def Queue.spillbase (q : Queue) : Nat := (q.desc.extractLsb' 80 48).toNat
def Queue.alcount (q : Queue) : Nat := (q.desc.extractLsb' 0 4).toNat
def Queue.capacity (q : Queue) : Nat := q.win + q.spill
/-- Whether n further slots can be granted (R210). -/
def Queue.fits (q : Queue) (n : Nat) : Bool := decide (q.t + n ≤ q.f + q.capacity)
def Queue.slot (q : Queue) (i : Nat) : Option SlotSt := Map.find q.slots i
def Queue.setSlot (q : Queue) (i : Nat) (x : SlotSt) : Queue := { q with slots := Map.put q.slots i x }

/-- The key of a slot's first window byte in the queue SRAM of all ports. -/
def slotCell (qk : Nat) (q : Queue) (slot : Nat) : Nat := qk / 4096 * 2 ^ 23 + q.winbase + slot % q.win * eszBytes q.esz

/-- Whether the access list passes a producer (R207). -/
def Queue.passes (q : Queue) (m : QMsg) : Bool :=
  (q.acl.take q.alcount).any (fun e =>
    e.getLsbD 31 && decide ((e.extractLsb' 0 16).toNat = m.domain) &&
    (e.getLsbD 30 || decide ((e.extractLsb' 17 13).toNat = m.smod)) && (decide (q.kind ≠ 1) || e.getLsbD 16))

/-- The answer that turns a producer's message away before it is judged, if any (R207, R208, R215): MOVED, CLOSED, RIGHTS. -/
def Queue.turnsAway (q : Queue) (m : QMsg) : Option Nat :=
  if q.state = 2 then some 3
  else if q.state ≠ 1 then some 6
  else if q.kind ≥ 2 ∧ ¬ m.hw then some 5
  else if q.kind < 2 ∧ !q.passes m then some 5
  else if (m.kind = .element ∨ m.kind = .post) ∧ m.esz ≠ q.esz then some 5
  else none

/-- A producer with its context and the context's domain as a number (R211, R214). -/
def QMsg.owner (m : QMsg) : Nat := (((m.domain * 8192 + m.smod) * 8 + m.sdie) * 8 + m.sport) * 65536 + m.ctx
/-- The producer of a post: module, die, source port and context (R214). -/
def QMsg.producer (m : QMsg) : Nat := m.owner % 2 ^ 35

/-! ### Commit, free point, claims (R210, R211, R219) -/

/-- Advances C over what has become filled or void. -/
def Queue.commitFrom : Nat → Queue → Queue
  | 0, q => q
  | n + 1, q =>
    if q.c < q.t then
      match q.slot q.c with
      | some (.reserved _) => q
      | _ => commitFrom n { q with c := q.c + 1 }
    else q
def Queue.commit (q : Queue) : Queue := q.commitFrom (q.t - q.c)

/-- Whose a slot was, plus 1; 0 for a void one. -/
def SlotSt.formerOwner : SlotSt → Nat
  | .reserved o | .filled o .. | .claimed o .. | .broken o => o + 1
  | .void => 0

/-- The slot that a number of 40 bits names: the one within 2^39 of F (R209); none for one that has never been. -/
def Queue.named (q : Queue) (k : Nat) : Option Nat :=
  let n := q.f + (k % 2 ^ 40 + 2 ^ 40 + 2 ^ 39 - q.f % 2 ^ 40) % 2 ^ 40
  if n < 2 ^ 39 then none else some (n - 2 ^ 39)

/-- Advances F over what is complete. -/
def Queue.freeFrom : Nat → Queue → Queue
  | 0, q => q
  | n + 1, q =>
    if q.f < q.h then
      match q.slot q.f with
      | some (.claimed _ _ false) => q
      | x => freeFrom n { q with slots := Map.erase q.slots q.f, past := Map.put q.past q.f (x.elim 0 SlotSt.formerOwner), f := q.f + 1 }
    else q
def Queue.free (q : Queue) : Queue := q.freeFrom (q.h - q.f)

/-- Whether a slot's element stands in the spill region. -/
def SlotSt.isSpilled : SlotSt → Bool
  | .filled _ _ _ _ _ inWindow => !inWindow
  | _ => false
/-- Advances E at once over what holds no data in the spill region, up to F + W (R209). -/
def Queue.advanceEdge (q : Queue) : Queue :=
  { q with e := (q.slots.filter (fun x => decide (q.e ≤ x.1) && x.2.isSpilled)).foldl (fun n x => min n x.1) (max q.e (q.f + q.win)) }

/-- Whether a slot holds an element. -/
def SlotSt.isFilled : SlotSt → Bool
  | .filled .. => true
  | _ => false
/-- Committed elements from H up to a bound, voids excluded. -/
def Queue.waitingTo (q : Queue) (hi : Nat) : Nat :=
  ((upto q.h (hi - q.h)).filter (fun i => match q.slot i with
    | some x => x.isFilled
    | none => false)).length

/-- Claims up to `want` elements at H (R219): the queue, the elements with their slots, and the slots whose refill had failed. -/
def Queue.claimFrom (op : Nat) : Nat → Nat → Queue → Queue × List (Nat × List Byte) × List Nat
  | 0, _, q => (q, [], [])
  | n + 1, want, q =>
    if want = 0 ∨ ¬ q.h < min q.c q.e then (q, [], [])
    else
      match q.slot q.h with
      | some (.filled o d _ _ _ _) =>
        let (q', l, b) := claimFrom op n (want - 1) { q.setSlot q.h (.claimed o op false) with h := q.h + 1 }
        (q', (q.h, d) :: l, b)
      | some (.broken _) =>
        let (q', l, b) := claimFrom op n want { q with h := q.h + 1 }
        (q', l, q.h :: b)
      | _ => claimFrom op n want { q with h := q.h + 1, voids := q.voids + 1 }
def Queue.claim (q : Queue) (op want : Nat) : Queue × List (Nat × List Byte) × List Nat := q.claimFrom op (min q.c q.e - q.h) want

/-! ### Answers and grants on their way back -/

/-- Sends an answer or a grant; with no fabric port up it waits (R243). -/
def State.sendBack (s : State) (m : QMsg) : State :=
  match s.sendQ m 0xFFFF with
  | (true, s) => s
  | (false, s) =>
    let (n, s) := s.newId
    { s with retained := Map.put s.retained n { msg := m, die := qidDie m.qid, port := qidPort m.qid, g := 0, handle := 0,
                                                spray := 0xFFFF, waiting := true } }

/-- Answers a message (R215, R242). -/
def State.answer (s : State) (m : QMsg) (ans slot : Nat) : State :=
  s.sendBack { m with kind := .answer, ans := ans, crc := if ans = 0 ∧ m.kind = .post then BitVec.ofNat 32 slot else 0,
                      try_ := false, cnt := 0, data := [], hw := false }

/-! ### Grants (R213) -/

/-- Grants n slots at T to a request. -/
def State.grant (s : State) (qk : Nat) (m : QMsg) (n : Nat) : State :=
  let q := s.queueAt qk
  let s := s.setQueue qk { q with
    slots := (upto q.t n).foldl (fun l i => Map.put l i (.reserved m.owner)) q.slots, t := q.t + n }
  s.sendBack { m with kind := .grant, key := if n = 0 then 0 else q.t % 2 ^ 40, cnt := n, try_ := false, crc := 0 }

/-- QRES_REQUEST: granted, queued or refused at the home (R213, R215). -/
def execQresRequest (msg : Nat) (s : State) : Out :=
  match s.takeQ msg with
  | (some m, s) =>
    let qk := qidKey m.qid
    let q := s.queueAt qk
    match q.turnsAway m with
    | some a => .next (s.answer m a 0)
    | none =>
      if q.fifo ≠ [] then .next (s.grant qk m 0)
      else if q.fits m.cnt then .next (s.grant qk m m.cnt)
      else if m.try_ then .next (s.grant qk m 0)
      else .next (s.setQueue qk { q with fifo := [m] })
  | (none, _) => .next s

/-- QRES_DEFERRED_GRANT: the waiting request is granted once its slots fit. -/
def execQresDeferredGrant (queue : Nat) (s : State) : Out :=
  let q := s.queueAt queue
  match q.fifo with
  | m :: rest => if q.state = 1 ∧ q.fits m.cnt then .next ((s.setQueue queue { q with fifo := rest }).grant queue m m.cnt) else .next s
  | [] => .next s

/-- The reservation pair (R225). -/
def resPair (handle base n : Nat) : Word × Word :=
  if n = 0 then (0, BitVec.ofNat 32 (handle * 65536))
  else (BitVec.ofNat 32 base, BitVec.ofNat 32 (handle * 65536 + n % 64 * 256 + base / 2 ^ 32 % 256))

/-- Ends an operation of group o.g: its results have landed and its flag drops. -/
def State.endQop (s : State) (op : Nat) (o : QOp) (f : Group → Group) : State :=
  { s with qops := Map.erase s.qops op }.modGroup o.g (fun g => ((f g).settle op).dropFlag o.flag)

/-- Writes the pair of a QRES. -/
def State.endQres (s : State) (op base n : Nat) : State :=
  match Map.find s.qops op with
  | none => s
  | some o =>
    let p := resPair o.handle base n
    s.endQop op o (fun g => (g.landScalar op o.dst p.1).landScalar op (o.dst + 1) p.2)

/-- Whether an operation's group is saved: what comes for it waits for the restore (R220). -/
def State.opSaved (s : State) (op : Nat) : Bool :=
  match Map.find s.qops op with
  | some o => (s.groupAt o.g).saved
  | none => false

/-- Whether a grant, or an answer to a request, is for a saved group. -/
def State.requestSaved (s : State) (msg : Nat) : Bool :=
  match (Map.find s.qmsgs msg).bind (fun m => Map.find s.retained m.id) with
  | some r => decide (r.msg.kind = .request) && s.opSaved r.handle
  | none => false

/-- QRES_GRANT_RECEIVE: the pair is written. -/
def execQresGrantReceive (msg : Nat) (s : State) : Out :=
  if s.requestSaved msg then .next (s.at_ (s.now + 1024) 4 (.qresGrantReceive msg)) else
  match s.takeQ msg with
  | (some m, s) =>
    match Map.find s.retained m.id with
    | some r => .next ({ s with retained := Map.erase s.retained m.id }.endQres r.handle m.key m.cnt)
    | none => .next s
  | (none, _) => .next s

/-! ### Placement (R209, R211, R214, R216) -/

/-- The physical address of a spill slot, through the owning context's system pages (R68, R208). -/
def State.spillSlot (s : State) (die : Nat) (q : Queue) (slot : Nat) : Option Nat :=
  let va := q.spillbase + slot % max 1 q.spill * eszBytes q.esz
  match s.walkCtx die q.owner va with
  | .inl (some (p, n)) => if pteAllows .system p then some (pteAddr p + va % n) else none
  | _ => none

/-- Writes an element to a spill slot, one count for each 128-byte block (R75); an unmapped page takes nothing. -/
def State.writeSpill (s : State) (die : Nat) (q : Queue) (slot : Nat) (data : List Byte) : State :=
  match s.spillSlot die q slot with
  | none => s
  | some pa =>
    ((upto 0 ((data.length + 127) / 128)).zip (chunks 128 ((data.length + 127) / 128) data)).foldl
      (fun s e => s.hbmQuiet die (pa + 128 * e.1) e.2) s

/-- Reads an element back from a spill slot; an unmapped page reads as free values. -/
def State.readSpill (s : State) (die : Nat) (q : Queue) (slot : Nat) : List Byte × State :=
  match s.spillSlot die q slot with
  | some pa => (readBytes (s.hbmArrived die) (hbmKey die pa) (eszBytes q.esz), s)
  | none => (bytesOf (eszBytes q.esz) (Config.unmapped s.draws), { s with draws := s.draws + 1 })

/-- Places an element at its slot's residence. -/
def State.place (s : State) (qk slot : Nat) (m : QMsg) : State :=
  let q := s.queueAt qk
  let die := qk / 16384
  let s := s.tallyDie die (portUnit (qk / 4096 % 4)) .placed 1
  if slot < q.e then
    (s.setQueue qk (q.setSlot slot (.filled m.owner m.data m.crc m.qid m.key true))).clearBad .slot (slotCell qk q slot) (eszBytes q.esz)
  else (s.setQueue qk (q.setSlot slot (.filled m.owner [] m.crc m.qid m.key false))).writeSpill die q slot m.data

/-- Whether an element's check code is good (R216). -/
def QMsg.codeGood (m : QMsg) : Bool := decide (m.crc = checkCode m.qid m.key m.data)

/-- Voids the reserved slots of a range that belong to an owner (R229). -/
def Queue.voidRange (q : Queue) (owner base n : Nat) : Queue :=
  (upto base n).foldl (fun q i => if q.slot i = some (.reserved owner) then q.setSlot i .void else q) q

/-- Counts a duplicate or a drop at a void slot. -/
def State.countDup (s : State) (qk : Nat) (e : Source) : State :=
  (s.modQueue qk (fun q => { q with dups := q.dups + 1 })).tallyDie (qk / 16384) (portUnit (qk / 4096 % 4)) e 1

/-- The reorder store of a home port: the posts and bytes it holds (R214). -/
def Port.heldBytes (p : Port) : Nat := p.held.foldl (fun n m => n + m.data.length) 0

/-- Places a post in sequence where capacity is free, or answers CHECK; false where it is not placed. Another copy of it is held no longer. -/
def State.placePost (s : State) (qk : Nat) (m : QMsg) : Bool × State :=
  let q := s.queueAt qk
  let s := s.modPort (qk / 4096) (fun p => { p with held := p.held.filter (fun y => !decide (qidKey y.qid = qk ∧ y.producer = m.producer ∧ y.key = m.key)) })
  if !m.codeGood then (false, (s.tallyDie (qk / 16384) (portUnit (qk / 4096 % 4)) .checkAnswers 1).answer m 4 0)
  else
    let n := (Map.get q.prods {} m.producer).next
    let s := s.place qk q.t m
    let s := s.modQueue qk (fun x => { x with t := q.t + 1, prods := Map.put x.prods m.producer { next := (n + 1) % 2 ^ 32, last := q.t } })
    (true, s.answer m 0 q.t)

/-- Places the held posts that are now in sequence, at most n, while capacity is free; the others stay held. -/
def State.placeHeld (qk producer : Nat) : Nat → State → State
  | 0, s => s
  | n + 1, s =>
    let q := s.queueAt qk
    let next := (Map.get q.prods {} producer).next
    match (s.portAt (qk / 4096)).held.find? (fun m => decide (qidKey m.qid = qk ∧ m.producer = producer ∧ m.key % 2 ^ 32 = next)) with
    | none => s
    | some m =>
      if !q.fits 1 then s
      else
        match s.placePost qk m with
        | (true, s) => placeHeld qk producer n s
        | (false, s) => s

/-- The held posts of a queue that are next of their producers, where capacity is free (R214). -/
def State.heldDue (s : State) (qk : Nat) : List Nat :=
  let q := s.queueAt qk
  if q.state = 1 ∧ q.fits 1 then
    ((s.portAt (qk / 4096)).held.filter (fun m => decide (qidKey m.qid = qk ∧ m.key % 2 ^ 32 = (Map.get q.prods {} m.producer).next))).map QMsg.producer
  else []

/-! ### What follows a change (R209, R212, R213, R220, R336) -/

/-- Ends a consumer operation that receives nothing: its destination keeps its values and "got" is false. -/
def State.endEmpty (s : State) (op : Nat) (o : QOp) : State :=
  let s := s.unpark o.g (fun t => decide (t.park = .queue op))
  match o.kind with
  | .qwait => { s with qops := Map.erase s.qops op }
  | _ => s.send 0 4 (.qdeqDeliveryComplete op)

/-- The queue-refusal fault of a consumer request: CLOSED on a closed queue (R336), RIGHTS on a fault or arrival queue (R208). -/
def State.refuseConsumer (s : State) (o : QOp) (ans : Nat) : State :=
  s.raiseAsync o.g { cls := .queueRefusal, sub := ans, aux := o.qid, lanes := o.ins.lanes } o.ins

/-- The sleepers of a queue that has closed are released with the fault, once the claims made before have been delivered (R336). -/
def State.releaseSleepers (s : State) (qk : Nat) : State :=
  let q := s.queueAt qk
  if q.state = 1 ∨ q.state = 2 ∨ q.slots.any (fun e => match e.2 with
    | .claimed _ _ false => true
    | _ => false) then s
  else
    q.sleepers.foldl (fun s op =>
      match Map.find s.qops op with
      | none => s
      | some o => (s.endEmpty op o).refuseConsumer o 6) (s.modQueue qk (fun q => { q with sleepers := [] }))

/-- The sleepers' turn among the claims of a clock: they come before what is left for others (R212, R219, R220). -/
def State.callSleepers (s : State) (qk t : Nat) : State :=
  let q := s.queueAt qk
  if q.state = 1 then q.sleepers.foldl (fun s op => if s.inFlight (.qdeqClaim op) then s else s.at_ t sleeperPrio (.qdeqClaim op)) s else s

/-- What follows a change of F, T or E: held posts that fit, deferred grants (R213), refill steps (R209), and a closed queue's sleepers. -/
def State.queueTick (s : State) (qk : Nat) : State :=
  let s := s.modQueue qk (fun q => q.free.advanceEdge)
  let l := s.heldDue qk
  let s := l.foldl (fun s p => State.placeHeld qk p 32 s) s
  let s := if l = [] then s else (s.modQueue qk Queue.commit).callSleepers qk (s.now + 1)
  let q := s.queueAt qk
  let s := if q.state = 1 ∧ (q.fifo.head?.map (fun m => q.fits m.cnt)) = some true ∧ ¬ s.inFlight (.qresDeferredGrant qk) then
    s.at_ s.now 25000000 (.qresDeferredGrant qk) else s
  let s := if q.state = 1 ∧ q.e < q.f + q.win ∧ ¬ s.inFlight (.refillStep qk) then s.at_ (s.now + 1) refillPrio (.refillStep qk) else s
  s.releaseSleepers qk

/-- After placements: C advances, and the sleepers claim in their turn of the clock (R212). -/
def State.settleQueue (s : State) (qk t : Nat) : State := ((s.modQueue qk Queue.commit).callSleepers qk t).queueTick qk

/-- Reports the slots of a claim that are delivered to no one: a failed refill (R216), or a struck window cell (R136). -/
def State.reportSlots (s : State) (o : QOp) (qk : Nat) (q : Queue) (broken : List Nat) (got : List (Nat × List Byte)) : State :=
  let s := broken.foldl (fun s i => s.raiseAsync o.g
    { cls := .uncorrectableEcc, sub := 4, addr := (q.spillbase + i % max 1 q.spill * eszBytes q.esz) % 2 ^ 48, aux := o.qid, lanes := o.ins.lanes } o.ins) s
  got.foldl (fun s e =>
    match s.badCell .slot (slotCell qk q e.1) (eszBytes q.esz) with
    | some b => s.raiseAsync o.g { cls := .uncorrectableEcc, sub := 3, addr := eccAddr .slot b, aux := o.qid, lanes := o.ins.lanes } o.ins
    | none => s) s

/-- Claims for an operation: its elements are on their way to it. -/
def State.claimFor (s : State) (op : Nat) (o : QOp) (qk : Nat) : State :=
  let q := s.queueAt qk
  let (q', got, broken) := q.claim op o.want
  let s := (s.setQueue qk q').reportSlots o qk q broken got
  if got = [] then s
  else
    let s : State := { s with qops := Map.put s.qops op { o with got := got, delivering := true } }
    let s := s.modQueue qk (fun q => { q with sleepers := q.sleepers.filter (· ≠ op) })
    (s.unpark o.g (fun t => decide (t.park = .queue op))).send 0 4 (.qdeqDeliveryComplete op)

/-- Serves one sleeper (R220). -/
def State.serveOne (s : State) (qk op : Nat) : State :=
  match Map.find s.qops op with
  | none => s
  | some o =>
    let q := s.queueAt qk
    match o.kind with
    | .qwait =>
      if q.waitingTo q.c ≥ o.want then (s.modQueue qk (fun q => { q with sleepers := q.sleepers.filter (· ≠ op) })).endEmpty op o else s
    | _ => s.claimFor op o qk

/-- Commits what can be committed and serves the sleepers in registration order (R212, R220). -/
def State.serveQueue (s : State) (qk : Nat) : State :=
  let s := s.modQueue qk Queue.commit
  ((s.queueAt qk).sleepers.foldl (fun s op => s.serveOne qk op) s).queueTick qk

/-- ELEMENT_ARRIVAL: an element of reserved mode, or a QVOID, reaches the home (R211, R215, R229). A slot below F has been placed
and consumed: its owner's element is a duplicate. -/
def execElementArrival (msg : Nat) (s : State) : Out :=
  match s.takeQ msg with
  | (some m, s) =>
    let qk := qidKey m.qid
    let q := s.queueAt qk
    let unit := portUnit (qk / 4096 % 4)
    match q.turnsAway m, q.named m.key with
    | some a, _ => .next (s.answer m a 0)
    | none, none => .next (s.answer m (if m.kind = .void then 0 else 5) 0)
    | none, some slot =>
      if m.kind = .void then .next ((((s.setQueue qk (q.voidRange m.owner slot m.cnt)).settleQueue qk s.now)).answer m 0 0)
      else
        let whose := match q.slot slot with
          | some x => some x.formerOwner
          | none => Map.find q.past slot
        match q.slot slot, whose with
        | some (.reserved o), _ =>
          if o ≠ m.owner then .next (s.answer m 5 0)
          else if m.codeGood then .next (((s.place qk slot m).settleQueue qk s.now).answer m 0 0)
          else .next ((s.tallyDie (qk / 16384) unit .checkAnswers 1).answer m 4 0)
        | _, some 0 => .next ((s.countDup qk .voidDrops).answer m 0 0)
        | _, some (o + 1) => if o = m.owner then .next ((s.countDup qk .duplicates).answer m 0 0) else .next (s.answer m 5 0)
        | _, none => .next (s.answer m 5 0)
  | (none, _) => .next s

/-- POST_ARRIVAL (R214). -/
def execPostArrival (msg : Nat) (s : State) : Out :=
  match s.takeQ msg with
  | (some m, s) =>
    let qk := qidKey m.qid
    let pk := qk / 4096
    let q := s.queueAt qk
    match q.turnsAway m with
    | some a => .next (s.answer m a 0)
    | none =>
      let p := Map.get q.prods {} m.producer
      let d := (m.key % 2 ^ 32 + 2 ^ 32 - p.next) % 2 ^ 32
      if d = 0 then
        if !q.fits 1 then .next (s.answer m 1 0)
        else
          match s.placePost qk m with
          | (true, s) => .next ((State.placeHeld qk m.producer 32 s).settleQueue qk s.now)
          | (false, s) => .next s
      else if d ≤ 32 then
        let x := s.portAt pk
        if x.held.any (fun y => decide (y.qid = m.qid ∧ y.producer = m.producer ∧ y.key = m.key)) then .next s
        else if x.held.length < Config.reorderPosts ∧ x.heldBytes + m.data.length ≤ Config.reorderBytes then
          .next (s.modPort pk (fun p => { p with held := p.held ++ [m] }))
        else .next (s.answer m 2 0)
      else if d ≥ 2 ^ 31 then .next ((s.countDup qk .duplicates).answer m 0 p.last)
      else .next (s.answer m 2 0)
  | (none, _) => .next s

/-- The cores that a port serves, in increasing order (R206, R274). -/
def servedCores (port : Nat) : List Nat := (upto 0 24).filter (fun c => decide (servingPort c = port))
/-- The index of a core among those its port serves (R274). -/
def servedIndex (core : Nat) : Nat := ((servedCores (servingPort core)).takeWhile (fun c => decide (c ≠ core))).length
/-- The arrival queue of a core (R274). -/
def arrivalKey (die core : Nat) : Nat := queueKey die (servingPort core) (4088 + servedIndex core)

/-- Counts a record that reaches an arrival queue's window from its spill region (R283). -/
def State.countRefill (s : State) (qk : Nat) (q : Queue) : State :=
  if q.kind = 3 then
    s.modCore (coreKey (qk / 16384) ((servedCores (qk / 4096 % 4)).getD (qk % 4096 - 4088) 0))
      (fun c => { c with packer := { c.packer with refilled := c.packer.refilled + 1 } })
  else s

/-- REFILL_STEP: the element at E is moved from the spill region into the window and tested, and E passes it (R209, R216). -/
def execRefillStep (queue : Nat) (s : State) : Out :=
  let q := s.queueAt queue
  if q.state ≠ 1 ∨ q.e ≥ q.f + q.win then .next s
  else
    match q.slot q.e with
    | some (.filled o _ crc qid key false) =>
      let (data, s) := s.readSpill (queue / 16384) q q.e
      let x : SlotSt := if crc = checkCode qid key data then .filled o data crc qid key true else .broken o
      let s := (s.setQueue queue { q.setSlot q.e x with e := q.e + 1 }).countRefill queue q
      .next (((s.clearBad .slot (slotCell queue q q.e) (eszBytes q.esz)).tallyDie (queue / 16384) (portUnit (queue / 4096 % 4)) .refills 1).settleQueue
        queue (s.now + 1))
    | _ => .next (s.settleQueue queue (s.now + 1))

/-! ### The source port: retained copies (R215) -/

/-- Element bytes that a port retains. -/
def State.retainedBytes (s : State) (die port : Nat) : Nat :=
  s.retained.foldl (fun n e => if e.2.die = die ∧ e.2.port = port then n + e.2.msg.data.length else n) 0

/-- Sends a retained copy, or lets it wait while no port of its mask is up (R243). -/
def State.sendCopy (s : State) (rid : Nat) : State :=
  match Map.find s.retained rid with
  | none => s
  | some r =>
    let (ok, s) := s.sendQ r.msg r.spray
    let s : State := { s with retained := Map.modify s.retained rid (fun r => { r with sent := s.now, waiting := !ok, moved := false, again := false }) }
    let s := if ok then s else s.tallyDie r.die (portUnit r.port) .retentionWaits 1
    if r.msg.kind = .request then s else s.at_ (s.now + 16384) 8 (.retentionTimeout rid)

/-- Resends the copies of a producer's posts to a queue that wait for it, in sequence order: none before the answers to the posts before
it (R215). -/
def State.resendPosts (s : State) (r : Retained) : State :=
  ((s.retained.filter (fun e => decide (e.2.die = r.die ∧ e.2.port = r.port ∧ e.2.msg.ctx = r.msg.ctx ∧ e.2.msg.qid = r.msg.qid ∧
    e.2.msg.hw = r.msg.hw ∧ e.2.msg.kind = .post ∧ ¬ e.2.waiting))).takeWhile (fun e => e.2.again)).foldl (fun s e => s.sendCopy e.1) s

/-- Retains a message of a group and sends it. -/
def State.submit (s : State) (r : Retained) : State :=
  let (rid, s) := s.newId
  ({ s with retained := Map.put s.retained rid { r with msg := { r.msg with id := rid } } }).sendCopy rid

/-- A message of an instruction of group k, its check code folded (R216). -/
def queueMsg (s : State) (g : Group) (kind : QKind) (e : BitVec 64) (qid key : Nat) (data : List Byte) : QMsg :=
  { kind := kind, esz := entEsz e, domain := (s.ctxAt (ctxKey g.die g.ctx)).domain, qid := qid, key := key, smod := s.module
    sdie := g.die, sport := servingPort g.core, ctx := g.ctx, core := g.core, data := data
    crc := if kind = .element ∨ kind = .post then checkCode qid key data else 0 }

/-- A retained copy of an instruction of group k. -/
def retainedOf (k : Nat) (g : Group) (h : Nat) (e : BitVec 64) (ins : InsInfo) (m : QMsg) (member : Option Nat) : Retained :=
  { msg := m, die := g.die, port := servingPort g.core, g := k, handle := h, spray := entSpray e, member := member, ins := ins }

/-- The posts of a stream whose copies have been discarded never come: a home of this module goes on with the number that the port gives
next, and drops what it held of them (R214, R218). DESIGN CHOICE (log 61). -/
def State.skipStream (s : State) (pk sk n : Nat) : State :=
  let qid := sk % 2 ^ 32
  let qk := qidKey qid
  let sport := if sk / 2 ^ 32 % 2 = 1 ∧ qidIndex qid < 4088 then 4 else pk % 4
  let who := ((s.module * 8 + pk / 4) * 8 + sport) * 65536 + sk / 2 ^ 33
  let p := Map.get (s.queueAt qk).prods {} who
  let s := if p.next = n then s else s.modQueue qk (fun q => { q with prods := Map.put q.prods who { p with next := n } })
  let s : State := { s with ports := Map.modify s.ports (qk / 4096) (fun x => { x with
    held := x.held.filter (fun m => decide (qidKey m.qid ≠ qk ∨ m.producer ≠ who)) }) }
  s.modPort pk (fun x => { x with refused := Map.erase x.refused sk })

/-- That, for every stream of a die's ports that passes the test and leads to a queue of this module. -/
def State.skipPosts (s : State) (die : Nat) (mine : Nat → Bool) : State :=
  (s.ports.filter (fun e => decide (e.1 / 4 = die))).foldl (fun s e =>
    (e.2.seqs.filter (fun x => mine x.1 && decide (qidModule (x.1 % 2 ^ 32) = s.module))).foldl (fun s x => s.skipStream e.1 x.1 x.2) s) s

/-- Accepts a post at the source port: it takes the next sequence number of its queue (R214). -/
def State.submitPost (s : State) (k : Nat) (g : Group) (h : Nat) (e : BitVec 64) (ins : InsInfo) (qid : Nat) (member : Option Nat)
    (data : List Byte) : State :=
  let (n, s) := s.nextPost (portKey g.die (servingPort g.core)) (g.ctx * 2 * 2 ^ 32 + qid)
  s.submit (retainedOf k g h e ins (queueMsg s g .post e qid (2 ^ 63 + n) data) member)

/-- The members of a multicast group: number and QID (R205). -/
def State.members (s : State) (g : Group) (e : BitVec 64) : List (Nat × Nat) :=
  let x := Map.get (s.ctxAt (ctxKey g.die g.ctx)).mcast {} (entGroup e)
  ((upto 0 64).filter (fun i => x.mask.getLsbD i)).map (fun i => (i, (Map.get x.members 0 i).toNat))

/-- Sends one element as a post: once, or once for each member of its group (R221). -/
def State.postElement (s : State) (k : Nat) (g : Group) (h : Nat) (e : BitVec 64) (ins : InsInfo) (data : List Byte) : State :=
  if entMulti e then (s.members g e).foldl (fun s m => s.submitPost k g h e ins m.2 (some m.1) data) s
  else s.submitPost k g h e ins (entQid e) none data

/-- The later of two slot numbers of 32 bits. -/
def laterSlot (a b : Nat) : Nat := if (b + 2 ^ 32 - a) % 2 ^ 32 < 2 ^ 31 then b else a
def highOf (o : Option Nat) (b : Nat) : Option Nat :=
  match o with
  | none => some b
  | some a => some (laterSlot a b)

/-- A copy has its final answer: it is freed, with the slot where ACK reports one, and the QFLUSHes that wait for it count it. -/
def State.freeCopy (s : State) (rid : Nat) (slot : Option Nat) : State :=
  match Map.find s.retained rid with
  | none => s
  | some r =>
    let s : State := { s with
      retained := Map.erase s.retained rid
      sent := match slot with
        | some n => if r.member = none then
            (let k := r.g * 2 ^ 32 + r.msg.qid
             match highOf (Map.find s.sent k) n with
             | some v => Map.put s.sent k v
             | none => s.sent) else s.sent
        | none => s.sent
      qops := s.qops.map (fun e => if e.2.waitFor.contains rid then
        (e.1, { e.2 with waitFor := e.2.waitFor.filter (· ≠ rid), high := match slot with
          | some n => highOf e.2.high n
          | none => e.2.high }) else e) }
    let s := s.resendPosts r
    ((s.qops.filter (fun e => decide (e.2.kind = .qflush ∧ e.2.waitFor = []))).map (·.1)).foldl
      (fun s op => if s.inFlight (.qflushComplete op) then s else s.at_ (s.now + 1) 4 (.qflushComplete op)) s

/-- Sends a chimney response (R317): status in arg, and the check code. -/
def chimHeader (op die ctx arg addr len seq crc : Nat) : BitVec 256 :=
  BitVec.ofNat 256 (op * 2 ^ 248 + die * 2 ^ 245 + ctx * 2 ^ 224 + arg * 2 ^ 192 + addr * 2 ^ 128 + len * 2 ^ 96 + seq * 2 ^ 64 + crc)
def State.respond (s : State) (chan op die ctx status addr seq : Nat) (payload : List Byte) : State :=
  let h := fun crc => chimHeader op die ctx status (addr % 2 ^ 48) payload.length (seq % 2 ^ 32) crc
  let crc := crc32c (bytesOf 32 (h 0).toNat ++ payload)
  let s : State := { s with responses := s.responses ++ [{ chan := chan, hdr := h crc.toNat, payload := payload }] }
  if (s.chanAt chan).busy = some (seq % 2 ^ 32) ∧ op ≠ 0xFF then s.modChan chan (fun x => { x with busy := none }) else s

/-- The stream that a copy of a post is of, at its port. -/
def Retained.streamKey (r : Retained) : Nat := (r.msg.ctx * 2 + (if r.msg.hw then 1 else 0)) * 2 ^ 32 + r.msg.qid

/-- Notes a number of a stream that was refused for good: once no other post of the stream is out, the numbers start again at the lowest of
those that were refused. -/
def Port.refuse (p : Port) (k n : Nat) (others : Bool) : Port :=
  let low := match Map.find p.refused k with
    | some m => if laterSlot m n = n then m else n
    | none => n
  if others then { p with refused := Map.put p.refused k low } else { p with refused := Map.erase p.refused k, seqs := Map.put p.seqs k low }

/-- A post that has been turned away for good was not placed: its number is given again once no other post of its stream is out, so that the
home does not wait for it for ever, and no number is given twice. DESIGN CHOICE (log 106). -/
def State.takeBack (s : State) (r : Retained) : State :=
  let pk := portKey r.die r.port
  let k := (s.portAt pk).stream r.streamKey
  if r.msg.kind ≠ .post then s
  else
    let others := s.retained.any (fun e => decide (e.2.die = r.die ∧ e.2.port = r.port ∧ e.2.msg.kind = .post ∧
      (s.portAt pk).stream e.2.streamKey = k ∧ e.2.msg.key ≠ r.msg.key))
    s.modPort pk (fun p => p.refuse k (r.msg.key % 2 ^ 32) others)

/-- A queue has moved from one QID to another: the stream of posts to it goes on under the new one, whatever number an earlier queue at that
QID had (R214, R217). -/
def Port.carry (p : Port) (old new : Nat) : Port :=
  let o := p.stream old
  let go := fun (m : Map Nat) => match Map.find m o with
    | some n => Map.put (Map.erase m o) new n
    | none => Map.erase m new
  if o = new then p
  else { p with
    seqs := go p.seqs, refused := go p.refused
    moved := Map.put ((Map.erase p.moved new).map (fun e => if e.2 = o then (e.1, new) else e)) o new }

/-- A final refusal (R215, R222, R225): a member's goes into the mask; a request's pair is written with nothing granted; else the
issuing group takes the queue-refusal fault. A refused QVOID, or a refused record of hardware, has no one to tell;
a refused completion record is counted (R300). -/
def State.finalRefusal (s : State) (rid : Nat) (r : Retained) (ans : Nat) : State :=
  let fault := fun (s : State) => s.raiseAsync r.g
    { cls := .queueRefusal, sub := ans, aux := r.msg.qid + r.msg.key % 2 ^ 32 * 2 ^ 32, lanes := r.ins.lanes } r.ins
  let s := s.takeBack r
  match r.member, r.chim with
  | some m, _ =>
    let mk := r.g * 65536 + r.handle
    (s.modPort (portKey r.die r.port) (fun p => { p with masks := Map.put p.masks mk (Map.get p.masks 0 mk ||| (1#64 <<< m)) })).freeCopy rid none
  | none, some (chan, seq) =>
    (s.freeCopy rid none).respond chan 3 r.die r.msg.ctx 4 r.msg.qid seq (bytesOf 1 ans)
  | none, none =>
    if r.msg.kind = .request then fault ({ s with retained := Map.erase s.retained rid }.endQres r.handle 0 0)
    else if r.msg.kind = .void ∨ r.msg.hw then s.freeCopy rid none
    else if r.g = 0 then (s.freeCopy rid none).countRefusal r.die
    else fault (s.freeCopy rid none)

/-- The retained copy that an answer is for, and the rest of the state. -/
def State.takeAnswer (s : State) (msg : Nat) : Option (QMsg × Retained) × State :=
  match s.takeQ msg with
  | (some m, s) =>
    match Map.find s.retained m.id with
    | some r => (some (m, r), s.letGo r.msg)
    | none => (none, s)
  | (none, s) => (none, s)

/-- ANSWER_ACK: the source port frees its copy; an enqueue command's response gives the answer (R318). -/
def execAnswerAck (msg : Nat) (s : State) : Out :=
  match s.takeAnswer msg with
  | (some (m, r), s) =>
    let slot := match r.msg.kind with
      | .element => some (r.msg.key % 2 ^ 32)
      | .post => some m.crc.toNat
      | _ => none
    let s := s.freeCopy m.id slot
    match r.chim with
    | some (chan, seq) => .next (s.respond chan 3 r.die r.msg.ctx 4 r.msg.qid seq [0])
    | none => .next s
  | (none, s) => .next s

/-- ANSWER_RETRY: FULL or RETRY, resent later; FULL from a travel arrival queue is final: the arrival-spill fault, and the record
stays in retention (R215, R279). The wait of a hardware record on FULL is counted (R304). -/
def execAnswerRetry (msg : Nat) (s : State) : Out :=
  match s.takeAnswer msg with
  | (some (m, r), s) =>
    if m.ans = 1 ∧ r.msg.hw ∧ qidIndex r.msg.qid ≥ 4088 then
      .next ({ s with retained := Map.modify s.retained m.id (fun r => { r with waiting := true }) }.raiseAsync r.g
        { cls := .arrivalSpill, aux := r.handle, lanes := r.ins.lanes } r.ins)
    else
      let s := if m.ans = 1 ∧ r.msg.hw then s.tallyDie r.die (portUnit r.port) .retentionWaits 1 else s
      .next (if r.msg.kind = .post then
        { s with retained := Map.modify s.retained m.id (fun r => { r with again := true }) }.resendPosts r else s.sendCopy m.id)
  | (none, s) => .next s

/-- Where a copy's handle leads now. -/
def State.retarget (s : State) (r : Retained) : Nat :=
  let c := s.ctxAt (ctxKey r.die r.msg.ctx)
  let h := if r.msg.kind = .request then (match Map.find s.qops r.handle with
    | some o => o.handle
    | none => 0) else r.handle
  let e := Map.get c.trans 0 h
  match r.member with
  | some m => (Map.get (Map.get c.mcast {} (entGroup e)).members (BitVec.ofNat 32 r.msg.qid) m).toNat
  | none => if r.msg.hw ∨ r.chim ≠ none ∨ !e.getLsbD 32 ∨ entMulti e then r.msg.qid else entQid e

/-- Sends a copy to its queue's new QID: the number goes on where the old one stood and the code is folded anew; while the table
still holds the old QID the copy waits (R215, R217). A copy of hardware names its queue through no table: it is sent again at its timeout. -/
def State.redirect (s : State) (rid : Nat) (r : Retained) : State :=
  let q := s.retarget r
  if q = r.msg.qid then
    if r.msg.hw then s
    else if qidModule q = s.module ∧ (s.queueAt (qidKey q)).state ≠ 2 then s.sendCopy rid
    else { s with retained := Map.modify s.retained rid (fun r => { r with waiting := true, moved := true }) }
  else
    let k := fun qid => r.msg.ctx * 2 * 2 ^ 32 + qid
    let s := s.modPort (portKey r.die r.port) (fun p => p.carry (k r.msg.qid) (k q))
    { s with retained := Map.modify s.retained rid (fun (r : Retained) => { r with waiting := false, moved := false, msg := { r.msg with
        qid := q, crc := if r.msg.kind = QKind.element ∨ r.msg.kind = QKind.post then checkCode q r.msg.key r.msg.data else 0 } }) }.sendCopy rid

/-- ANSWER_MOVED: an enqueue command names its queue by QID, not through a table, so the answer is its response's (R318, R319). -/
def execAnswerMoved (msg : Nat) (s : State) : Out :=
  match s.takeAnswer msg with
  | (some (m, r), s) => .next (if r.chim.isSome then s.finalRefusal m.id r 3 else s.redirect m.id r)
  | (none, s) => .next s

/-- ANSWER_CHECK: resent; the answer to the third resend is final. -/
def execAnswerCheck (msg : Nat) (s : State) : Out :=
  match s.takeAnswer msg with
  | (some (m, r), s) =>
    if r.checks ≥ 3 then .next (s.finalRefusal m.id r 4)
    else .next ({ s with retained := Map.modify s.retained m.id (fun r => { r with checks := r.checks + 1 }) }.sendCopy m.id)
  | (none, s) => .next s

/-- ANSWER_REFUSED: RIGHTS or CLOSED. -/
def execAnswerRefused (msg : Nat) (s : State) : Out :=
  if s.requestSaved msg then .next (s.at_ (s.now + 1024) 4 (.answerRefused msg)) else
  match s.takeAnswer msg with
  | (some (m, r), s) => .next (s.finalRefusal m.id r m.ans)
  | (none, s) => .next s

/-- RETENTION_TIMEOUT: a copy without an answer for 16,384 clocks is resent. -/
def execRetentionTimeout (copy : Nat) (s : State) : Out :=
  match Map.find s.retained copy with
  | some r => if ¬ r.waiting ∧ ¬ r.again ∧ r.sent + 16384 ≤ s.now ∧ r.msg.kind ≠ .request then .next (s.sendCopy copy) else .next s
  | none => .next s

/-- FABRIC_PORT_LINK_CHANGE: a link comes up or goes down; what waited for one is sent, answers and grants for good (R243). -/
def execFabricPortLinkChange (port up : Nat) (s : State) : Out :=
  let s := s.modFabric port (fun p => { p with up := decide (up ≠ 0) })
  if up = 0 then .next s
  else
    .next ((s.retained.filter (fun e => e.2.waiting && !e.2.moved && decide ((if e.2.msg.back then e.2.msg.smod else qidModule e.2.msg.qid) ≠ s.module))).foldl
      (fun s e =>
        let s := s.sendCopy e.1
        if e.2.msg.back ∧ (match Map.find s.retained e.1 with
          | some r => !r.waiting
          | none => false) = true then { s with retained := Map.erase s.retained e.1 } else s) s)

/-! ### Operand checks that the forms share (R226 to R228) -/

/-- Main-file registers of a block for elements of e bytes: lane-wise or group-wise. -/
def elemRegs (form e : Nat) : Nat := if form = 0 then e / 4 else max 1 (e / 128)

/-- Whether a block code suits a form. -/
def queueBlock (form e code : Nat) : Bool :=
  (decide (form ≠ 0) || decide (e ≤ 64)) && decide (code % elemRegs form e = 0 ∧ code + elemRegs form e ≤ 96)

/-- The codes a register form reads or writes. -/
def elemCodes (form e code : Nat) : List Nat := if queueBlock form e code then block code (elemRegs form e) else [code]

/-- The checks of an .M form on its address. -/
def elemAddrFault (s : State) (g : Group) (a e : Nat) : Option FaultInfo :=
  failIf (s.localTeam g a e).isNone (teamFault a) <|> failIf (decide (a % min e 128 ≠ 0)) (alignFault a)

/-- Element bytes of a lane. -/
def laneElem (r : Regs) (code e l : Nat) : List Byte := (upto 0 (e / 4)).flatMap (fun i => bytesOf 4 (r.read (code + i) l).toNat)
/-- Element bytes of a group-wise form. -/
def groupElem (r : Regs) (code e : Nat) : List Byte := (upto 0 (e / 4)).flatMap (fun j => bytesOf 4 (r.main (code + j / 32) (j % 32)).toNat)

/-- The rank of a lane among the active ones. -/
def rankOf (m : Lanes) (l : Nat) : Nat := countLanes (m &&& (laneBit l - 1))

/-- The common head of QENQ and QPOST: sources, checks, stalls, and the elements formed (R226, R227). -/
structure Formed where
  opnds : Opnds
  fault : Option FaultInfo
  stall : Option Stall
  elems : List (List Byte)
  cells : Option Nat

def formElems (s : State) (c : Issue) (g : Group) (form code : Nat) (entry : Option (BitVec 64)) : Formed :=
  let r := c.view g
  match entry with
  | none => { opnds := if form = 2 then { scalars := [code % 64] } else { reads := [code] }, fault := none, stall := none, elems := [], cells := none }
  | some x =>
    let e := eszBytes (entEsz x)
    if form = 2 then
      let a := (r.scalar (code % 64)).toNat
      let key := (s.localTeam g a e).getD 0
      { opnds := { scalars := [code % 64] }, fault := elemAddrFault s g a e, stall := rangeStall s g .team key e false <|> s.turnStall g
        elems := [readBytes s.team key e], cells := some key }
    else
      let codes := elemCodes form e code
      let ok := queueBlock form e code
      { opnds := { reads := if form = 0 ∨ ¬ ok then codes else [], whole := if form = 1 ∧ ok then codes else [], first := if ok then codes else [], bases := baseOf codes }
        fault := failIf (!ok) illegalOperand, stall := none
        elems := if form = 0 then (lanesOf c.lanes).map (laneElem r code e) else [groupElem r code e], cells := none }

/-- The stall of a full retention buffer (R224). -/
def retentionStall (s : State) (g : Group) (n : Nat) : Option Stall :=
  let p := servingPort g.core
  if s.retainedBytes g.die p + n ≤ Config.retentionBytes then none else some (.retention (portKey g.die p) n)

def bytesIn (l : List (List Byte)) : Nat := l.foldl (fun n x => n + x.length) 0

/-- An odd pair field, or 62. -/
def badPair (d : Nat) : Bool := decide (d % 2 = 1 ∨ d = 62)

/-- Starts a queue operation: destinations owed, flag raised. -/
def State.startQop (s : State) (c : Issue) (owes : List (List Nat × Lanes)) (o : QOp) : Nat × State :=
  let (k, s) := s.newId
  (k, { s with qops := Map.put s.qops k o }.modGroup c.g (fun g =>
    let g := owes.foldl (fun (g : Group) (e : List Nat × Lanes) => g.owe k e.1 e.2) g
    match o.flag with
    | some n => g.raiseCf n
    | none => g))

/-! ### QRES, QENQ, QPOST (R225 to R227) -/

def resOp (all : Bool) (f t : BitVec 1) (cnt : Nat) (h d : BitVec 6) (s : State) : Out :=
  atIssue s fun c g =>
    let x := ((c.view g).scalar h.toNat).toNat
    let n := if all then countLanes c.lanes else cnt + 1
    let early := flagFault c g f <|> failIf (badPair d.toNat) illegalOperand
    issueIns s c g { scalars := [h.toNat] } early none (handleFault s g x .produce false) (flagStall c g f <|> handleStall s g x) fun s =>
      let e := (s.entry g (x % 65536)).getD 0
      let (op, s) := s.startQop c [([scalarNo d.toNat, scalarNo (d.toNat + 1)], c.lanes)] {
        kind := .qres, g := c.g, die := g.die, core := g.core, ctx := g.ctx, flag := slotFlag (c.head g) (f = 1), qid := entQid e
        handle := x % 65536, want := n, dst := d.toNat, ins := insInfo c g }
      s.submit (retainedOf c.g g op e (insInfo c g) { queueMsg s g .request e (entQid e) 0 [] with try_ := t = 1, cnt := n } none)

def execQres (f t : BitVec 1) (cn : BitVec 5) (h d : BitVec 6) (s : State) : Out := resOp false f t cn.toNat h d s
def execQresA (f t : BitVec 1) (h d : BitVec 6) (s : State) : Out := resOp true f t 0 h d s

/-- QENQ: fills slots base + k onward of the pair's grant (R226). -/
def enqOp (form : Nat) (k : BitVec 5) (code : Nat) (p : BitVec 6) (s : State) : Out :=
  atIssue s fun c g =>
    let r := c.view g
    let rp := p.toNat
    let hi := (r.scalar (rp + 1)).toNat
    let h := hi / 65536
    let base := hi % 256 * 2 ^ 32 + (r.scalar rp).toNat
    let m := if form = 0 then countLanes c.lanes else 1
    let x := formElems s c g form code (s.entry g h)
    let early := failIf (decide (form = 2) && s.inTravel g) illegal <|> failIf (badPair rp) illegalOperand
    let late := handleFault s g h .produce false <|> s.whenHeld g h (failIf (decide (k.toNat + m > hi / 256 % 64)) illegalOperand) <|> x.fault
    let st := handleStall s g h <|> x.stall <|> retentionStall s g (bytesIn x.elems)
    issueIns s c g { x.opnds with scalars := rp :: (rp + 1) :: x.opnds.scalars, bases := (scalarNo rp, 2) :: x.opnds.bases, sends := true } early none late st fun s =>
      let e := (s.entry g h).getD 0
      let i := insInfo c g
      let s := match x.cells with
        | some key => s.reportEcc c.g i .team key (eszBytes (entEsz e))
        | none => s
      ((upto 0 x.elems.length).zip x.elems).foldl (fun s d =>
        s.submit (retainedOf c.g g h e i (queueMsg s g .element e (entQid e) ((base + k.toNat + d.1) % 2 ^ 40) d.2) none)) s

def execQenqL (k : BitVec 5) (b : BitVec 7) (r : BitVec 6) (s : State) : Out := enqOp 0 k b.toNat r s
def execQenqG (k : BitVec 5) (b : BitVec 7) (r : BitVec 6) (s : State) : Out := enqOp 1 k b.toNat r s
def execQenqM (k : BitVec 5) (a r : BitVec 6) (s : State) : Out := enqOp 2 k a.toNat r s

/-- QPOST: reserves and sends in one step (R227); the element goes to every member of a multicast group. -/
def postOp (form code : Nat) (h : BitVec 6) (s : State) : Out :=
  atIssue s fun c g =>
    let v := ((c.view g).scalar h.toNat).toNat
    let x := formElems s c g form code (s.entry g (v % 65536))
    let copies := match s.entry g (v % 65536) with
      | some e => if entMulti e then (s.members g e).length else 1
      | none => 1
    let late := handleFault s g v .post (form ≠ 0) <|> x.fault
    let st := handleStall s g v <|> x.stall <|> retentionStall s g (copies * bytesIn x.elems)
    issueIns s c g { x.opnds with scalars := h.toNat :: x.opnds.scalars, sends := true } (failIf (decide (form = 2) && s.inTravel g) illegal) none late st fun s =>
      let e := (s.entry g (v % 65536)).getD 0
      let i := insInfo c g
      let s := match x.cells with
        | some key => s.reportEcc c.g i .team key (eszBytes (entEsz e))
        | none => s
      x.elems.foldl (fun s d => s.postElement c.g g (v % 65536) e i d) s

def execQpostL (b : BitVec 7) (h : BitVec 6) (s : State) : Out := postOp 0 b.toNat h s
def execQpostG (b : BitVec 7) (h : BitVec 6) (s : State) : Out := postOp 1 b.toNat h s
def execQpostM (a h : BitVec 6) (s : State) : Out := postOp 2 a.toNat h s

/-! ### QDEQ and QWAIT (R219, R220, R228, R229) -/

/-- Sleepers registered at, or on their way to, a port. -/
def State.sleeperCount (s : State) (pk : Nat) : Nat :=
  (s.qops.filter (fun e => decide (e.2.die * 4 + qidPort e.2.qid = pk) && !e.2.delivering &&
    (decide (e.2.kind = .qwait) || (decide (e.2.kind = .qdeq) && (e.2.sleepy || decide (e.2.token ≠ 0)))))).length

def sleeperStall (s : State) (g : Group) (qid : Nat) : Option Stall :=
  let pk := portKey g.die (qidPort qid)
  if s.sleeperCount pk < Config.sleeperEntries then none else some (.sleepers pk)

/-- The check of a QDEQ's token (R189, R228). -/
def deqToken (w : Wit) (qid : Nat) : Option FaultInfo :=
  failIf (decide (w ≠ 0) && (decide (witForm w ≠ 3) || decide (tokenQid w ≠ qid % 2 ^ 30))) { cls := .witnessOperand, aux := w.toNat }

/-- QDEQ: the claim goes to the home; the write of the memory form is listed from here (R201). The threads of a QDEQ.S, or of one that presents a token, wait from here until their claim
is made. -/
def deqOp (form : Nat) (f sl : BitVec 1) (p : BitVec 3) (code : Nat) (h : BitVec 6) (w : BitVec 4) (s : State) : Out :=
  atIssue s fun c g =>
    let r := c.view g
    let v := (r.scalar h.toNat).toNat
    let wt := w.toNat
    let tok : Wit := if wt = 15 then 0 else r.scalar (2 * wt + 1) ++ r.scalar (2 * wt)
    let ent := s.entry g (v % 65536)
    let e := ent.getD 0
    let n := eszBytes (entEsz e)
    let parks := decide (sl = 1) || decide (tok ≠ 0)
    let a := (r.scalar (code % 64)).toNat
    let key := (s.localTeam g a n).getD 0
    let codes := if form = 2 then [] else if ent.isSome then elemCodes form n code else [code]
    let early := flagFault c g f <|> failIf (decide (form = 2) && s.inTravel g) illegal
    let late := handleFault s g v .consume false <|>
      (if ent.isSome then
        (if form = 2 then elemAddrFault s g a n else failIf (!queueBlock form n code) illegalOperand) <|> deqToken tok (entQid e)
       else none) <|>
      (if parks then fallFault s c g else none)
    let st := flagStall c g f <|> handleStall s g v <|> (if parks then sleeperStall s g (entQid e) else none) <|>
      (if form = 2 then rangeStall s g .team key n true else none)
    let o : Opnds := {
      scalars := h.toNat :: (if form = 2 then [code % 64] else []) ++ (if wt = 15 then [] else [2 * wt, 2 * wt + 1])
      dests := codes, bases := if wt = 15 then [] else [(scalarNo (2 * wt), 2)] }
    issueIns s c g o early none late st (fun s =>
      let (w, s) := if form = 2 then s.addWrec (wrecOf c.g g c.lanes g.core (coreHome g.core) none) else (0, s)
      let (op, s) := s.startQop c [(codes.filterMap regNo, if form = 0 then c.lanes else 0xFFFFFFFF),
          (if p = 0 then [] else [predNo p.toNat], c.lanes)] {
        kind := .qdeq, g := c.g, die := g.die, core := g.core, ctx := g.ctx, flag := slotFlag (c.head g) (f = 1), qid := entQid e
        handle := v % 65536, esz := entEsz e, want := if form = 0 then countLanes c.lanes else 1, lanes := c.lanes, form := form
        sleepy := sl = 1, pd := p.toNat, dst := code, addr := key, token := tok, wrec := w, ins := insInfo c g }
      let s := if parks then s.parkPath c (s.groupAt c.g) (.queue op) else s
      s.send (5000000 + portKey g.die (qidPort (entQid e))) (claimPrio g.core g.die s.module) (.qdeqClaim op)) parks

def execQdeqL (f sl : BitVec 1) (p : BitVec 3) (d : BitVec 7) (h : BitVec 6) (w : BitVec 4) (s : State) : Out := deqOp 0 f sl p d.toNat h w s
def execQdeqG (f sl : BitVec 1) (p : BitVec 3) (d : BitVec 7) (h : BitVec 6) (w : BitVec 4) (s : State) : Out := deqOp 1 f sl p d.toNat h w s
def execQdeqM (f sl : BitVec 1) (p : BitVec 3) (a h : BitVec 6) (w : BitVec 4) (s : State) : Out := deqOp 2 f sl p a.toNat h w s

/-- QWAIT: registers a sleeper for n elements and parks; n = 0 completes at once. -/
def execQwait (a h : BitVec 6) (s : State) : Out :=
  atIssue s fun c g =>
    let r := c.view g
    let v := (r.scalar h.toNat).toNat
    let n := (r.scalar a.toNat).toNat
    let e := (s.entry g (v % 65536)).getD 0
    let late := handleFault s g v .consume false <|> fallFault s c g
    let st := handleStall s g v <|> (if n = 0 then none else sleeperStall s g (entQid e))
    issueIns s c g { scalars := [h.toNat, a.toNat] } none none late st (fun s =>
      if n = 0 then s.modGroup c.g (fun x => x.advance (s.gridAt g.grid) c)
      else
        let (op, s) := s.startQop c [] {
          kind := .qwait, g := c.g, die := g.die, core := g.core, ctx := g.ctx, qid := entQid e, handle := v % 65536, want := n
          lanes := c.lanes, ins := insInfo c g }
        (s.parkPath c (s.groupAt c.g) (.queue op)).send (5000000 + portKey g.die (qidPort (entQid e)))
          (claimPrio g.core g.die s.module) (.qdeqClaim op)) true

/-- A consumer request on a moved queue: retranslated and resent to the new QID; it waits while the table still holds the old one,
or holds one that is not at a home of this die (R336). -/
def State.retryConsumer (s : State) (op : Nat) (o : QOp) (ev : Ev) : State :=
  let e := Map.get (s.ctxAt (ctxKey o.die o.ctx)).trans 0 o.handle
  let q := entQid e
  if q = o.qid ∨ !e.getLsbD 32 ∨ entMulti e ∨ (o.kind ≠ .qstat ∧ (qidModule q ≠ s.module ∨ qidDie q ≠ o.die)) then
    { s with qops := Map.put s.qops op { o with moved := true, registered := false } }
  else
    { s with qops := Map.put s.qops op { o with moved := false, registered := false, qid := q } }.send
      (5000000 + portKey o.die (qidPort q)) (claimPrio o.core o.die s.module) ev

/-- Whether a token covers H (R223). -/
def coversHead (tok : Wit) (h : Nat) : Bool :=
  let d := (tokenCount tok + 2 ^ 32 - h % 2 ^ 32) % 2 ^ 32
  decide (tok ≠ 0 ∧ 0 < d ∧ d < 2 ^ 31)

/-- QDEQ_CLAIM: a QDEQ or a QWAIT reaches its home, or the turn of the sleepers among the claims of a clock has come
(R212, R219, R220, R336). What a claim skips is complete at once, so F may advance though nothing was claimed (R210, R211). -/
def execQdeqClaim (op : Nat) (s : State) : Out :=
  match Map.find s.qops op with
  | none => .next s
  | some o =>
    let qk := qidKey o.qid
    let q := s.queueAt qk
    if o.registered then (if q.state = 1 then .next (s.serveQueue qk) else .next s)
    else if q.state = 2 then .next (s.retryConsumer op o (.qdeqClaim op))
    else if q.state ≠ 1 ∨ q.kind ≥ 2 then .next ((s.endEmpty op o).refuseConsumer o (if q.state ≠ 1 then 6 else 5))
    else if o.kind = .qwait ∨ o.sleepy then
      .next (({ s with qops := Map.put s.qops op { o with registered := true } }.setQueue qk { q with sleepers := q.sleepers ++ [op] }).serveQueue qk)
    else
      let s := if q.sleepers = [] then s.claimFor op o qk else s
      match Map.find s.qops op with
      | some o' =>
        if o'.delivering then .next (s.queueTick qk)
        else if coversHead o.token (s.queueAt qk).h then
          .next (({ s with qops := Map.put s.qops op { o with registered := true } }.modQueue qk (fun q => { q with sleepers := q.sleepers ++ [op] })).queueTick qk)
        else .next ((s.endEmpty op o).queueTick qk)
      | none => .next s

/-- Whether the element of a memory form can be written now: its turn among the core's accesses has come (R98), and the home has room for
its counts (R190). -/
def State.deqFree (s : State) (op : Nat) (o : QOp) : Bool :=
  decide (o.form ≠ 2 ∨ o.got = []) ||
    (s.turnFree o.die o.core o.ctx (coreKey o.die o.core) op && !s.listAhead o.die o.core op o.addr (o.addr + eszBytes o.esz) &&
      s.homeRoom o.die (coreHome o.core) (eszBytes o.esz / 128 + 1))

/-- QDEQ_DELIVERY_COMPLETE: the elements are written and "got" with them; the slots are complete (R211, R228). The delivery of a
pre-empted group waits for its return (R220). The latch keeps its value; DESIGN CHOICE (log 120). -/
def execQdeqDeliveryComplete (op : Nat) (s : State) : Out :=
  match Map.find s.qops op with
  | none => .next s
  | some o =>
    if s.opSaved op then .next (s.at_ (s.now + 1024) 4 (.qdeqDeliveryComplete op))
    else if !s.deqFree op o then .next (s.at_ (s.now + 1) 4 (.qdeqDeliveryComplete op))
    else
      let n := eszBytes o.esz
      let k := o.got.length
      let data := o.got.map (·.2)
      let word := fun (d : List Byte) (i : Nat) => BitVec.ofNat 32 (ofBytes ((d.drop (4 * i)).take 4))
      let rank := rankOf o.lanes
      let s : State := if o.form = 2 ∧ k > 0 then
        (let (q, s) := s.teamWriteRun o.die o.core o.addr (data.headD [])
         { s with wrecs := Map.modify s.wrecs o.wrec (fun r => { r with count := some q }) })
        else { s with wrecs := Map.erase s.wrecs o.wrec }
      let s := s.endQop op o (fun g =>
        let g := if k = 0 ∨ o.form = 2 then g
          else if o.form = 0 then
            (upto 0 (n / 4)).foldl (fun g i => g.landAt op (o.dst + i) (maskOf (fun l => o.lanes.getLsbD l && decide (rank l < k)))
              (fun l => word (data.getD (rank l) []) i)) g
          else
            (upto 0 (max 1 (n / 128))).foldl (fun g i => g.landAt op (o.dst + i) 0xFFFFFFFF (fun l => word (data.headD []) (32 * i + l))) g
        if o.pd = 0 then g
        else g.landPred op o.pd (maskOf (fun l => o.lanes.getLsbD l && decide (if o.form = 0 then rank l < k else k = 1))))
      let qk := qidKey o.qid
      let s := if o.form = 2 then s.retryOps o.die o.core else s
      if k = 0 then .next s
      else
        .next ((s.modQueue qk (fun q => { q with slots := q.slots.map (fun e => match e.2 with
          | .claimed w x _ => if x = op then (e.1, .claimed w x true) else e
          | _ => e) })).queueTick qk)

/-! ### QFLUSH, QVOID, QSTAT (R222, R223, R229) -/

def execQflush (f : BitVec 1) (h d : BitVec 6) (s : State) : Out :=
  atIssue s fun c g =>
    let v := ((c.view g).scalar h.toNat).toNat
    let early := flagFault c g f <|> failIf (badPair d.toNat) illegalOperand
    issueIns s c g { scalars := [h.toNat] } early none (handleFault s g v .post true) (flagStall c g f <|> handleStall s g v) fun s =>
      let e := (s.entry g (v % 65536)).getD 0
      let mine := s.retained.filter (fun x => decide (x.2.g = c.g ∧ (x.2.msg.kind = QKind.element ∨ x.2.msg.kind = QKind.post)) && !x.2.msg.hw &&
        (if entMulti e then x.2.member.isSome && decide (x.2.handle = v % 65536) else x.2.member.isNone && decide (x.2.msg.qid = entQid e)))
      let (op, s) := s.startQop c [([scalarNo d.toNat, scalarNo (d.toNat + 1)], c.lanes)] {
        kind := .qflush, g := c.g, die := g.die, core := g.core, ctx := g.ctx, flag := slotFlag (c.head g) (f = 1), qid := entQid e
        handle := v % 65536, form := if entMulti e then 1 else 0, dst := d.toNat, waitFor := Map.keys mine
        high := Map.find s.sent (c.g * 2 ^ 32 + entQid e), ins := insInfo c g }
      if mine = [] then s.at_ (s.now + 1) 4 (.qflushComplete op) else s

/-- QFLUSH_COMPLETE: the token, or the refusal mask, which is cleared. -/
def execQflushComplete (op : Nat) (s : State) : Out :=
  match Map.find s.qops op with
  | none => .next s
  | some o =>
    if s.opSaved op then .next (s.at_ (s.now + 1024) 4 (.qflushComplete op)) else
    let pk := portKey o.die (servingPort o.core)
    let mk := o.g * 65536 + o.handle
    let w : Wit := if o.form = 1 then Map.get (s.portAt pk).masks 0 mk else
      match o.high with
      | some n => tokenWit (o.qid % 2 ^ 30) ((n + 1) % 2 ^ 32)
      | none => 0
    let s := if o.form = 1 then s.modPort pk (fun p => { p with masks := Map.erase p.masks mk }) else s
    .next (s.endQop op o (fun g => (g.landScalar op o.dst (w.extractLsb' 0 32)).landScalar op (o.dst + 1) (w.extractLsb' 32 32)))

/-- QVOID: a message that voids slots base + k to base + k + c - 1 at the home. -/
def execQvoid (a h : BitVec 6) (s : State) : Out :=
  atIssue s fun c g =>
    let r := c.view g
    let rp := h.toNat
    let hi := (r.scalar (rp + 1)).toNat
    let hd := hi / 65536
    let x := (r.scalar a.toNat).toNat
    let k := x % 32
    let n := x / 256 % 32 + 1
    let base := hi % 256 * 2 ^ 32 + (r.scalar rp).toNat
    let late := handleFault s g hd .produce false <|>
      s.whenHeld g hd (failIf (decide (x / 2 ^ 13 ≠ 0 ∨ x / 32 % 8 ≠ 0 ∨ k + n > hi / 256 % 64)) illegalOperand)
    issueIns s c g { scalars := [rp, rp + 1, a.toNat], bases := [(scalarNo rp, 2)] } (failIf (badPair rp) illegalOperand) none late (handleStall s g hd) fun s =>
      let e := (s.entry g hd).getD 0
      s.submit (retainedOf c.g g hd e (insInfo c g) { queueMsg s g .void e (entQid e) ((base + k) % 2 ^ 40) [] with cnt := n } none)

/-- Assigned QSTAT selectors. -/
def statSelector (x : Nat) : Bool := decide (x ≤ 1 ∨ (16 ≤ x ∧ x < 32))

def execQstat (f : BitVec 1) (a h d : BitVec 6) (s : State) : Out :=
  atIssue s fun c g =>
    let r := c.view g
    let v := (r.scalar h.toNat).toNat
    let x := (r.scalar a.toNat).toNat
    let early := flagFault c g f <|> failIf (badPair d.toNat) illegalOperand
    let late := handleFault s g v .any false <|> s.whenHeld g v (failIf (!statSelector x) illegalOperand)
    issueIns s c g { scalars := [h.toNat, a.toNat] } early none late (flagStall c g f <|> handleStall s g v) fun s =>
      let e := (s.entry g (v % 65536)).getD 0
      let (op, s) := s.startQop c [([scalarNo d.toNat, scalarNo (d.toNat + 1)], c.lanes)] {
        kind := .qstat, g := c.g, die := g.die, core := g.core, ctx := g.ctx, flag := slotFlag (c.head g) (f = 1), qid := entQid e
        handle := v % 65536, dst := d.toNat, sel := x, ins := insInfo c g }
      s.send 0 4 (.qstatComplete op)

/-- Saturation at 32 bits. -/
def sat32 (n : Nat) : Word := BitVec.ofNat 32 (min n 0xFFFFFFFF)

/-- What QSTAT reads (R229, R244). -/
def State.statPair (s : State) (o : QOp) : Word × Word :=
  let q := s.queueAt (qidKey o.qid)
  if o.sel ≥ 16 then
    if qidModule o.qid = s.module then (0, 0)
    else
      let e := (s.fabricAt (o.sel - 16)).entry (s.ctxAt (ctxKey o.die o.ctx)).domain (qidModule o.qid)
      (sat32 e.window, BitVec.ofNat 32 e.marks)
  else if qidModule o.qid ≠ s.module then
    ((Config.remoteStat s.draws).extractLsb' 0 32, (Config.remoteStat s.draws).extractLsb' 32 32)
  else if o.sel = 0 then (sat32 (q.waitingTo q.c), sat32 (q.capacity - (q.t - q.f)))
  else (BitVec.ofNat 32 q.voids, BitVec.ofNat 32 q.dups)

/-- QSTAT_COMPLETE: a snapshot taken at the home; on a closed queue zero, with the fault of R336. -/
def execQstatComplete (op : Nat) (s : State) : Out :=
  match Map.find s.qops op with
  | none => .next s
  | some o =>
    let q := s.queueAt (qidKey o.qid)
    if s.opSaved op then .next (s.at_ (s.now + 1024) 4 (.qstatComplete op)) else
    let here := decide (qidModule o.qid = s.module)
    let fin := fun (s : State) (p : Word × Word) => s.endQop op o (fun g => (g.landScalar op o.dst p.1).landScalar op (o.dst + 1) p.2)
    if here ∧ q.state = 2 then .next (s.retryConsumer op o (.qstatComplete op))
    else if here ∧ q.state ≠ 1 then .next ((fin s (0, 0)).refuseConsumer o 6)
    else .next (fin { s with draws := s.draws + 1 } (s.statPair o))

/-! ### What the device itself takes from a queue -/

/-- Takes the head element of a queue with its slot, if one is committed in the window: launch packets, fault records, travelling threads. DESIGN
CHOICE (log 121): a slot whose refill has failed its check is passed over and reported to no one, since no group claims it (R216). -/
def State.takeHead (s : State) (qk : Nat) : Option (Nat × List Byte × QMsg) × State :=
  let q := s.queueAt qk
  let owner := match q.slot q.h with
    | some (.filled o ..) => o
    | _ => 0
  match q.claim 0 1 with
  | (q', (i, d) :: _, _) =>
    let s := s.setQueue qk (q'.setSlot i (.claimed owner 0 true))
    let m : QMsg := {
      kind := .post, ctx := owner % 65536, sport := owner / 65536 % 8, sdie := owner / 65536 / 8 % 8
      smod := owner / 65536 / 64 % 8192, domain := owner / 65536 / 64 / 8192 }
    (some (i, d, m), s.queueTick qk)
  | (q', [], _) => (none, (s.setQueue qk q').queueTick qk)

end Sys2Proof.Machine
end

