-- ==== Sys2Proof/Machine/Control.lean ====
section
/-!
DEFINITION. Control flow (R16 to R20, R246 to R264): code lines and clause entry, branches, calls and the return stack, JOIN, exits,
regroup pools, and the illegal word.
-/
namespace Sys2Proof.Machine

/-! ### Code (R15, R16, R287, R290) -/

/-- The line of a core's instruction store that holds a code address. -/
def Core.codeLine (c : Core) (ctx va : Nat) : Option CodeLine :=
  c.istore.find? (fun l => decide (l.ctx = ctx ∧ l.addr ≤ va ∧ va < l.addr + l.data.length))

/-- The parcel at a code address in a core's instruction store. -/
def Core.parcel (c : Core) (ctx va : Nat) : Option Nat :=
  (c.codeLine ctx va).map (fun l => ofBytes ((l.data.drop (va - l.addr)).take 2))

/-- A 32-bit word of code in a core's instruction store. -/
def Core.codeWord (c : Core) (ctx va : Nat) : Option Nat :=
  match c.parcel ctx va, c.parcel ctx (va + 2) with
  | some a, some b => some (a + 65536 * b)
  | _, _ => none

/-- Word 0 of the clause header at an address, from the instruction store or main memory; none where it cannot be fetched. -/
def State.headerAt (s : State) (die core ctx va : Nat) : Option Word :=
  match (s.coreAt (coreKey die core)).codeWord ctx va with
  | some w => some (BitVec.ofNat 32 w)
  | none => (s.readVirtual die ctx va 4 .code).map (fun l => BitVec.ofNat 32 (ofBytes l))

/-- Word 0 as R19 checks it. -/
def headerBad (w : Word) : Bool :=
  decide (w.toNat % 256 ≠ 255) || decide (12 ≤ hdrFlagA w ∧ hdrFlagA w ≤ 14) || decide (12 ≤ hdrFlagB w ∧ hdrFlagB w ≤ 14) ||
  decide (hdrFlagA w = hdrFlagB w ∧ hdrFlagA w ≠ 15)

/-- Bytes of the instruction whose first parcel is p, shape words included (R15). -/
def parcelLen (p : Nat) : Nat :=
  if p % 2 = 0 then 2 else if 0x68 ≤ p / 2 % 128 ∧ p / 2 % 128 ≤ 0x6A then 20 else 4

/-- Whether a word encodes a clause-ending instruction (R20). A reserved word of their majors is none of them: R39 raises its fault at
the word. -/
def wordEnds (w : Nat) : Bool :=
  let m := w / 2 % 128
  let minor := w / 2 ^ 28 % 16
  let rest := w / 256 % 2 ^ 20
  decide (w % 2 = 1) &&
    (if m = 0x76 ∨ m = 0x78 then true
    else if m = 0x77 then decide (w / 256 % 4 ≠ 3)
    else if m = 0x79 then decide (minor < 2 ∧ rest % 2 ^ 13 = 0) || decide (minor = 2 ∧ rest = 0)
    else if m = 0x7A then decide (minor = 0) || decide ((minor = 1 ∨ minor = 3 ∨ minor = 4) ∧ rest = 0) || decide (minor = 2 ∧ rest % 128 = 0)
    else false)

/-- What a look through a clause finds: a code address whose line is not held, or its end and whether a clause-ending instruction
stands before the last. -/
inductive Scan where
  | missing (va : Nat)
  | done (end_ : Nat) (early : Bool)
  deriving DecidableEq, Repr

def scanIns (rd : Nat → Option Nat) : Nat → Nat → Bool → Scan
  | 0, a, bad => .done a bad
  | n + 1, a, bad =>
    match rd a with
    | none => .missing a
    | some p =>
      let last := (a + parcelLen p - 2) % 2 ^ 48
      if (rd last).isNone then .missing last
      else
        let w := p + 65536 * (rd ((a + 2) % 2 ^ 48)).getD 0
        scanIns rd n ((a + parcelLen p) % 2 ^ 48) (bad || (wordEnds w && decide (n ≠ 0)))

/-- Looks through the clause whose header stands at va. -/
def Core.scan (c : Core) (ctx va : Nat) : Scan :=
  match c.codeWord ctx va, c.codeWord ctx (va + 4) with
  | some h, some _ => scanIns (c.parcel ctx) (h / 2 ^ 28 % 16 + 1) ((va + 8) % 2 ^ 48) false
  | none, _ => .missing va
  | _, none => .missing (va + 4)

/-- Whether the wait mask of a header lets a group in (R22). -/
def Group.maskClear (g : Group) (h : Word) : Bool := (upto 0 12).all (fun n => !(hdrWait h).testBit n || decide (g.flagOf n = 0))

/-- The fault of entering a clause (R19). A clause of which a byte cannot be fetched raises none. -/
def clauseFault (s : State) (g : Group) (va : Nat) (h : Word) (scan : Scan) : Option FaultInfo :=
  match scan with
  | .done e early =>
    failIf (headerBad h || early) illegal <|>
    (if s.inTravel g then
      match (s.gridAt g.grid).segOf va with
      | some k =>
        let x := Map.get (s.gridAt g.grid).segs {} k
        failIf (decide (e > x.base + 8 * x.len)) illegal
      | none => none
    else none)
  | .missing _ => none

/-- CLAUSE_BEGIN: a group with pending asynchronous or fatal faults takes them in this clock, after what its paths issue in it; else the
header is checked, and the path enters the clause once every flag that the mask names reads zero (R19, R22, R305). A path that does not
enter was a candidate, and ages (R247). -/
def execClauseBegin (s : State) : Out :=
  atIssue s fun c g =>
    if g.pend ≠ [] then (s.passOver c).deliverNow c.g
    else
      let va := (c.head g).clause
      let x := s.coreAt (coreKey g.die g.core)
      match x.codeWord g.ctx va, x.codeWord g.ctx (va + 4), x.scan g.ctx va with
      | some h0, some h1, .done e early =>
        let h := BitVec.ofNat 32 h0
        if !g.maskClear h then s.passOver c
        else
          match clauseFault s g va h (.done e early) with
          | some f => s.takePrecise { c with word := h0 } g f true
          | none => s.modGroup c.g (fun g => g.mapThreads c.lanes (fun t => { t with
              entered := true, pc := (va + 8) % 2 ^ 48, cpos := 0, hdr0 := h, hdr1 := BitVec.ofNat 32 h1, stall := .none }))
      | _, _, _ => s.passOver c

/-- ILLEGAL_INSTRUCTION: a word that encodes no instruction (R39). A group outside the copy or the matrix role takes the
role-violation fault for a copy or an MMA word first (R71, R175). -/
def execIllegalInstruction (word : BitVec 32) (s : State) : Out :=
  atIssue s fun c g =>
    let m := word.toNat / 2 % 128
    let wide := decide (word.toNat % 2 = 1)
    let f :=
      if wide ∧ 0x68 ≤ m ∧ m ≤ 0x6B then roleFault g .copy <|> some illegal
      else if wide ∧ m = 0x4B then travelIllegal s g <|> roleFault g .matrix <|> some illegal
      else some illegal
    s.takePrecise c g (f.getD illegal)

/-! ### Transfers (R20, R29, R249 to R252) -/

/-- The target of a relative transfer: the parcel after the instruction plus twice the offset (R29). -/
def relTarget {n : Nat} (a : Nat) (o : BitVec n) : Nat := ((a + 4 : Int) + 2 * o.toInt).emod (2 ^ 48) |>.toNat

/-- The fault of R20 at a target. -/
def targetCheck (s : State) (g : Group) (a : Nat) : Option FaultInfo :=
  if a % 8 ≠ 0 then some { cls := .misalignedBranchTarget, addr := a }
  else
    match s.headerAt g.die g.core g.ctx a with
    | some h => failIf (headerBad h) { cls := .illegalInstruction, sub := 1, addr := a }
    | none => none

/-- The first failing lane's target of the lanes that transfer (R20, R252), then a target in no segment of a travel launch. -/
def targetFault (s : State) (g : Group) (m : Lanes) (pc : Nat → Nat) : Option FaultInfo :=
  laneFault m (fun l => (targetCheck s g (pc l)).isSome) (fun l => (targetCheck s g (pc l)).getD illegal)

def State.leave (s : State) (c : Issue) (g : Group) (pc : Nat → Nat) : State :=
  s.modGroup c.g (fun x => x.goto (s.gridAt g.grid) c.lanes pc (insInfo c g))

/-- The common form of a transfer: the lanes `m` leave for `pc`, the others fall through. -/
def transfer (s : State) (c : Issue) (g : Group) (o : Opnds) (early mid : Option FaultInfo) (m : Lanes) (pc : Nat → Nat)
    (eff : State → State := id) : State :=
  let h := nextHeader c (c.head g)
  let to_ := fun l => if m.getLsbD l then pc l else h
  issueIns s c g o early mid (targetFault s g m pc <|> strayFault s g c.lanes to_) none (fun s => (eff s).leave c g to_) true

def execBr (o : BitVec 19) (n : BitVec 1) (p : BitVec 3) (s : State) : Out :=
  atIssue s fun c g =>
    let r := c.view g
    let m := c.lanes &&& maskOf (fun l => r.predAt p.toNat l != decide (n = 1))
    transfer s c g { preds := [p.toNat] } none none m (fun _ => relTarget (c.head g).pc o)

/-- BRU: the whole path goes or falls through (R250). -/
def execBru (o : BitVec 19) (p : BitVec 3) (m : BitVec 2) (s : State) : Out :=
  atIssue s fun c g =>
    let r := c.view g
    let l := lanesOf c.lanes
    let cond := match m.toNat with
      | 0 => l.any (r.predAt p.toNat)
      | 1 => l.all (r.predAt p.toNat)
      | _ => !l.any (r.predAt p.toNat)
    transfer s c g { preds := [p.toNat] } (failIf (decide (m = 3)) illegal) none (if cond then c.lanes else 0) (fun _ => relTarget (c.head g).pc o)

def execJmp (o : BitVec 23) (s : State) : Out :=
  atIssue s fun c g => transfer s c g {} none none c.lanes (fun _ => relTarget (c.head g).pc o)

/-! ### The return stack (R253) -/

/-- Whether a push finds both the stack and the area full. -/
def pushFull (s : State) (g : Group) (l : Nat) : Bool :=
  let t := g.thread l
  decide (t.rstack.length ≥ 4 ∧ t.rsd ≥ (s.gridAt g.grid).depth)

/-- The call-depth fault of a call (R253). -/
def callFault (s : State) (c : Issue) (g : Group) : Option FaultInfo :=
  laneFault c.lanes (pushFull s g) (fun _ => faultOf .callDepth)

/-- Pushes an address for each lane of a path; a full stack's oldest entry goes to the thread's area. -/
def State.pushAll (s : State) (c : Issue) (g : Group) (h : Nat) : State :=
  (lanesOf c.lanes).foldl (fun s l =>
    let t := g.thread l
    if t.rstack.length < 4 then s.modGroup c.g (fun g => g.mapThreads (laneBit l) (fun t => { t with rstack := h :: t.rstack }))
    else
      (s.spillWrite g (s.returnEntry g l t.tid t.rsd) (bytesOf 8 (t.rstack.getD 3 0))).modGroup c.g (fun g =>
        g.mapThreads (laneBit l) (fun t => { t with rstack := h :: t.rstack.take 3, rsd := t.rsd + 1 }))) s

/-- The lanes of a path whose next push or pop moves an entry to or from the area. -/
def areaLanes (c : Issue) (g : Group) (push : Bool) : Lanes :=
  maskOf (fun l => c.lanes.getLsbD l && (if push then decide ((g.thread l).rstack.length ≥ 4) else decide ((g.thread l).rsd > 0)))

/-- Holds the path until its return-address transfers are complete (R253). -/
def State.holdRet (s : State) (c : Issue) (m : Lanes) : State :=
  if m = 0 then s
  else (s.modGroup c.g (fun g => g.mapThreads c.lanes (fun t => { t with stall := .retAddr }))).send 0 5
    (.returnAddressSpillComplete c.g c.lanes.toNat)

/-- RETURN_ADDRESS_SPILL_COMPLETE: the path is a candidate again. -/
def execReturnAddressSpillComplete (g lanes : Nat) (s : State) : Out :=
  .next (s.modGroup g (fun x => x.mapThreads (BitVec.ofNat 32 lanes) (fun t => if t.stall = .retAddr then { t with stall := .none } else t)))

def execCall (o : BitVec 23) (s : State) : Out :=
  atIssue s fun c g =>
    let h := nextHeader c (c.head g)
    let pc := fun _ => relTarget (c.head g).pc o
    issueIns s c g {} none none (targetFault s g c.lanes pc <|> strayFault s g c.lanes pc <|> callFault s c g) none
      (fun s => ((s.pushAll c g h).leave c g pc).holdRet c (areaLanes c g true)) true

/-- JMPI and CALLI: each lane goes to its offset from the image base (R252). -/
def indirect (call : Bool) (a : BitVec 7) (s : State) : Out :=
  atIssue s fun c g =>
    let r := c.view g
    let h := nextHeader c (c.head g)
    let pc := fun l => ((s.gridAt g.grid).image + (r.read a.toNat l).toNat) % 2 ^ 48
    let late := targetFault s g c.lanes pc <|> strayFault s g c.lanes pc <|> (if call then callFault s c g else none)
    issueIns s c g { reads := [a.toNat], first := relOf a.toNat } none none late none
      (fun s => ((if call then s.pushAll c g h else s).leave c g pc).holdRet c (if call then areaLanes c g true else 0)) true

def execJmpi (a : BitVec 7) (s : State) : Out := indirect false a s
def execCalli (a : BitVec 7) (s : State) : Out := indirect true a s

/-! ### Exits (R122, R257, R264) -/

/-- The top entry of a thread's join stack. -/
def Thread.joinTop (t : Thread) : Option (Lanes × Nat) := t.join.head?

/-- Whether a lane counts as present for the waiting threads of a top entry at an address (R257). -/
def lanePresent (g : Group) (addr : Nat) (top : Lanes × Nat) (l : Nat) : Bool :=
  let t := g.thread l
  !t.live || (match t.park with
    | .join a _ _ => decide (a = addr) && decide (t.joinTop = some top)
    | _ => false) || !t.join.any (fun e => decide (e.2 = top.2))

/-- Whether the threads that wait with a thread are all present. -/
def joinFull (g : Group) (t : Thread) : Bool :=
  match t.park, t.joinTop with
  | .join a _ _, some top => (lanesOf top.1).all (lanePresent g a top)
  | _, _ => false

/-- Whether the bound of the threads that wait with a thread has expired: counted from the first of them (R257). -/
def joinExpired (g : Group) (clock : Nat) (t : Thread) : Bool :=
  match t.park, t.joinTop with
  | .join a _ b, some top =>
    decide (b ≠ 0) && g.threads.any (fun x => match x.2.park with
      | .join a' since _ => decide (a' = a) && decide (x.2.joinTop = some top) && decide (since + b ≤ clock)
      | _ => false)
  | _, _ => false

/-- Releases the waiting threads that a test accepts: each pops its top entry and goes on at the next header. -/
def State.releaseJoins (s : State) (k : Nat) (p : Thread → Bool) : State :=
  let grid := s.gridAt (s.groupAt k).grid
  s.modGroup k (fun g => { g with threads := g.threads.map (fun e =>
    if p e.2 then (e.1, { freed grid g.core e.2 with join := e.2.join.drop 1 }) else e) })

/-- Full joins, again and again: a release can make another one full. The threads of a halted group count as neither arrived nor exited
(R305). -/
def State.settleJoins (k : Nat) : Nat → State → State
  | 0, s => s
  | n + 1, s =>
    let g := s.groupAt k
    if g.set ≠ .halted ∧ g.threads.any (fun t => joinFull g t.2) then settleJoins k n (s.releaseJoins k (joinFull g)) else s

/-- JOIN_BOUND_EXPIRY: full joins first, then the waiting threads whose bound has expired (R257). -/
def execJoinBoundExpiry (g : Nat) (s : State) : Out :=
  let s := s.settleJoins g 32
  let gr := s.groupAt g
  if gr.saved ∨ gr.set = .halted then .next s
  else .next ((s.releaseJoins g (joinExpired gr (s.die gr.die).clock)).settleJoins g 32)

/-- Ends threads of a group (R264): exits complete joins and barriers; a travelling thread counts down its launch. -/
def State.exitLanes (s : State) (k : Nat) (m : Lanes) : State :=
  if m = 0 then s
  else
    let g := s.groupAt k
    let s := s.modGroup k (fun g => g.mapThreads m (fun t => { t with live := false, park := .none, stall := .none, join := [], rstack := [], rsd := 0 }))
    let s := if s.inTravel g then s.modGrid g.grid (fun x => { x with threadsLeft := x.threadsLeft - countLanes m }) else s
    (s.settleJoins k 32).testBarriers g.team

def execExit (s : State) : Out :=
  atIssue s fun c g => issueIns s c g {} none none none none (fun s => s.exitLanes c.g c.lanes) true

/-- The address a RET takes a lane to; none where its stack is empty. -/
def retAddress (g : Group) (l : Nat) : Option Nat := (g.thread l).rstack.head?

/-- Pops one entry in each lane; the newest entry of the area is read back to the bottom. -/
def State.popAll (s : State) (c : Issue) (g : Group) (m : Lanes) : State :=
  (lanesOf m).foldl (fun s l =>
    let t := g.thread l
    if t.rsd = 0 then s.modGroup c.g (fun g => g.mapThreads (laneBit l) (fun t => { t with rstack := t.rstack.drop 1 }))
    else
      let (x, s) := s.spillRead g (s.returnEntry g l t.tid (t.rsd - 1)) 8
      s.modGroup c.g (fun g => g.mapThreads (laneBit l) (fun t => { t with rstack := t.rstack.drop 1 ++ [x % 2 ^ 48], rsd := t.rsd - 1 }))) s

/-- RET: pops and returns, or exits the thread whose stack is empty (R252). -/
def execRet (s : State) : Out :=
  atIssue s fun c g =>
    let m := maskOf (fun l => c.lanes.getLsbD l && (retAddress g l).isSome)
    let pc := fun l => (retAddress g l).getD 0
    issueIns s c g {} none none (targetFault s g m pc <|> strayFault s g m pc) none
      (fun s =>
        let s := s.popAll c g m
        let s := s.modGroup c.g (fun x => x.goto (s.gridAt g.grid) m pc (insInfo c g))
        (s.holdRet { c with lanes := m } (areaLanes { c with lanes := m } g false)).exitLanes c.g (c.lanes &&& ~~~ m)) true

/-! ### JOIN and YIELD (R255 to R257, R263) -/

/-- JOIN: a thread with an empty join stack passes; the others wait. -/
def execJoin (b : BitVec 20) (s : State) : Out :=
  atIssue s fun c g =>
    let t := c.head g
    let h := nextHeader c t
    issueIns s c g {} none none (strayFault s g c.lanes (fun _ => h)) none
      (fun s =>
        let since := (s.die g.die).clock
        (s.modGroup c.g (fun x =>
          let w := maskOf (fun l => c.lanes.getLsbD l && decide ((x.thread l).join ≠ []))
          (x.goto (s.gridAt g.grid) c.lanes (fun _ => h) (insInfo c g)).park w (.join t.pc since b.toNat) t.clause t.cpos)).settleJoins c.g 32) true

/-- JOIN.O: opens a join set over the path's active lanes. -/
def execJoinO (s : State) : Out :=
  atIssue s fun c g =>
    issueIns s c g {} none none (fallFault s c g) none
      (fun s => s.modGroup c.g (fun x =>
        let n := (x.openCount + 1) % 65536
        ({ x with openCount := n }.mapThreads c.lanes (fun t => { t with join := ((c.lanes, n) :: t.join).take 4 })).goto
          (s.gridAt g.grid) c.lanes (fun _ => nextHeader c (c.head g)) (insInfo c g))) true

/-- YIELD: an active group goes to the tail of its quarter's ready FIFO; one that the other path's fault has halted in this clock stays
halted (R297, R305). -/
def execYield (s : State) : Out :=
  atIssue s fun c g =>
    issueIns s c g {} none none (fallFault s c g) none
      (fun s =>
        let s := s.leave c g (fun _ => nextHeader c (c.head g))
        if g.set ≠ .active then s else s.toReady c.g) true

/-! ### Regroup pools (R258 to R261) -/

/-- The checks that both regroup instructions share: no travel launch, no held A latch (R179, R258). -/
def regroupEarly (s : State) (g : Group) : Option FaultInfo := travelIllegal s g <|> failIf g.latch.isSome illegal

/-- A marked BR: each thread keeps its direction and parks (R258). -/
def execBrRg (o : BitVec 19) (n : BitVec 1) (p : BitVec 3) (s : State) : Out :=
  atIssue s fun c g =>
    let r := c.view g
    let t := c.head g
    let cnt := (r.scalar 15).toNat
    let m := c.lanes &&& maskOf (fun l => r.predAt p.toNat l != decide (n = 1))
    let a := relTarget t.pc o
    let h := nextHeader c t
    let late := failIf (decide (cnt = 0)) illegalOperand <|> targetFault s g m (fun _ => a)
    issueIns s c g { preds := [p.toNat], scalars := [15] } (regroupEarly s g) none late none
      (fun s => s.modGroup c.g (fun x =>
        let x := (x.goto (s.gridAt g.grid) c.lanes (fun l => if m.getLsbD l then a else h) (insInfo c g)).park c.lanes (.regroup t.pc) t.clause t.cpos
        { x.mapThreads c.lanes (fun t => { t with taken := false }) with poolN := cnt, poolBr := true, poolRel := [] }.mapThreads m
          (fun t => { t with taken := true }))) true

/-- REGROUP: each thread keeps its key and parks (R261). DEDUCED (log 99): what its last-read bit releases goes when the pool has closed, for
the instruction may still take the fault of R260, precise and without effect. -/
def execRegroup (a : BitVec 7) (sl : BitVec 6) (s : State) : Out :=
  atIssue s fun c g =>
    let r := c.view g
    let t := c.head g
    let cnt := (r.scalar sl.toNat).toNat
    let h := nextHeader c t
    let rel := releaseList { first := relOf a.toNat } c g
    issueIns s c g { reads := [a.toNat], scalars := [sl.toNat] }
      (regroupEarly s g <|> failIf (decide (a = 104)) illegalOperand) none (failIf (decide (cnt = 0)) illegalOperand) none
      (fun s => s.modGroup c.g (fun x =>
        let x := (x.goto (s.gridAt g.grid) c.lanes (fun _ => h) (insInfo c g)).park c.lanes (.regroup t.pc) t.clause t.cpos
        let x := { x with poolN := cnt, poolBr := false, poolRel := rel }
        (lanesOf c.lanes).foldl (fun x l => x.mapThreads (laneBit l) (fun t => { t with key := (r.read a.toNat l).toNat })) x)) true

/-- The address at which every thread of a group that has not exited waits for a regroup, if there is one. -/
def Group.regroupAt (g : Group) : Option Nat :=
  match g.threads.find? (fun t => t.2.live) with
  | some (_, t) =>
    match t.park with
    | .regroup a => if g.threads.all (fun x => !x.2.live || decide (x.2.park = .regroup a)) then some a else none
    | _ => none
  | none => none

def Pool.holds (p : Pool) (g : Group) (a : Nat) : Bool :=
  decide (p.die = g.die ∧ p.core = g.core ∧ p.quarter = g.quarter ∧ p.team = g.team ∧ p.addr = a) && !p.closed

/-- Whether a group can arrive at a pool now: all its threads wait, its flags are zero, nothing is spilled, and its pool is open or one
more may open (R258). -/
def State.poolDue (s : State) (g : Group) : Bool :=
  match g.regroupAt with
  | none => false
  | some a =>
    !g.pooled && decide (g.set ≠ .halted ∧ g.set ≠ .ended) && s.ctxRuns g.die g.ctx && decide (g.cf = []) && decide (g.regs.spilled = 0) &&
    (s.pools.any (fun p => p.2.holds g a) ||
      decide ((s.pools.filter (fun p => decide (p.2.die = g.die ∧ p.2.core = g.core ∧ p.2.quarter = g.quarter) && !p.2.closed)).length < 8))

/-- The arrivals that count: those of groups that are not halted (R305). -/
def State.arrived (s : State) (p : Pool) : List Nat := p.arrivals.filter (fun k => decide ((s.groupAt k).set ≠ .halted))

/-- Whether a pool closes: its count is reached, or every group of the team in the quarter has arrived or exited. A halted group has done
neither (R305). -/
def State.poolCloses (s : State) (p : Pool) : Bool :=
  !p.closed && decide (s.arrived p ≠ []) && (decide (p.n ≤ (s.arrived p).length) ||
    s.groups.all (fun e => decide (e.2.die ≠ p.die ∨ e.2.core ≠ p.core ∨ e.2.quarter ≠ p.quarter ∨ e.2.team ≠ p.team) ||
      (s.arrived p).contains e.1 || (decide (e.2.set ≠ .halted) && decide (e.2.liveLanes = 0))))

/-- Where a thread of a closed pool goes: from arrival and lane to output group and lane. -/
structure ThreadMove where
  src : Nat
  lane : Nat
  out : Nat
  to_ : Nat
  deriving DecidableEq, Repr

/-- The threads of the arrivals, arrival by arrival. -/
def poolThreads (gs : List Group) : List (Nat × Nat × Thread) :=
  (((upto 0 gs.length).zip gs).map (fun e => (lanesOf e.2.liveLanes).map (fun l => (e.1, l, e.2.thread l)))).flatten

/-- The moves of a marked BR's pool (R259). -/
def brMoves (gs : List Group) : List ThreadMove :=
  let ts := poolThreads gs
  let m := gs.length
  ((upto 0 32).map (fun l =>
    let tk := ts.filter (fun e => decide (e.2.1 = l) && e.2.2.taken)
    let nt := ts.filter (fun e => decide (e.2.1 = l) && !e.2.2.taken)
    ((upto 0 tk.length).zip tk).map (fun e => ({ src := e.2.1, lane := l, out := e.1, to_ := l } : ThreadMove)) ++
      ((upto 0 nt.length).zip nt).map (fun e => ({ src := e.2.1, lane := l, out := m - 1 - e.1, to_ := l } : ThreadMove)))).flatten

/-- The moves of a REGROUP's pool: sorted by key, arrival and home lane, packed 32 to a group (R261). -/
def keyMoves (gs : List Group) : List ThreadMove :=
  let ts := sortBy (fun (e : Nat × Nat × Thread) => e.2.2.key) (poolThreads gs)
  ((upto 0 ts.length).zip ts).map (fun e => { src := e.2.1, lane := e.2.2.1, out := e.1 / 32, to_ := e.1 % 32 })

/-- The registers an output group maps: those mapped in an arrival that supplies a thread (R260). -/
def outMap (gs : List Group) (mv : List ThreadMove) (j : Nat) : BitVec 96 :=
  ((upto 0 gs.length).zip gs).foldl (fun m e => if mv.any (fun x => decide (x.out = j ∧ x.src = e.1)) then m ||| e.2.regs.vmap else m) 0

/-- Output group j: the slot of arrival j with the threads that move there (R260). -/
def outGroup (gs : List Group) (mv : List ThreadMove) (j : Nat) (params : Nat → Word) (own : Group) : Group :=
  let here := mv.filter (fun x => decide (x.out = j))
  let src := fun i => gs.getD i {}
  let first := src 0
  let vmap := outMap gs mv j
  { own with
    regs := {
      v := here.foldl (fun v x => (upto 0 96).foldl (fun v n =>
        if vmap.getLsbD n then Map.set v 0 (n * 32 + x.to_) ((src x.src).regs.main n x.lane) else v) v) []
      vmap := vmap, o := first.regs.o, written := first.regs.written
      s := (upto 32 32).foldl (fun m n => Map.set m 0 n (params (n - 32))) first.regs.s
      p := (upto 1 7).foldl (fun p n => Map.set p 0 n
        (here.foldl (fun m x => if (src x.src).regs.predAt n x.lane then m ||| laneBit x.to_ else m) 0)) []
      poison := here.foldl (fun l x => l ++ ((src x.src).regs.poison.filter (fun k => decide (k % 32 = x.lane ∧ (k / 32 < 96 ∨ 0xC0 ≤ k / 32)))).map
        (fun k => k / 32 * 32 + x.to_)) (first.regs.poison.filter (fun k => decide ((96 ≤ k / 32 ∧ k / 32 < 104) ∨ (0x80 ≤ k / 32 ∧ k / 32 < 0xA0))))
      upset := here.foldl (fun l x => (((src x.src).regs.upset.filter (fun k => decide (k.1 % 32 = x.lane ∧ k.1 / 32 < 96))).foldl
        (fun l k => Map.put l (k.1 / 32 * 32 + x.to_) k.2) l)) (first.regs.upset.filter (fun k => decide (96 ≤ k.1 / 32 ∧ k.1 / 32 < 104))) }
    threads := here.foldl (fun m x =>
      let t := (src x.src).thread x.lane
      Map.put m x.to_ { t with park := .none, stall := .none, held := true, join := [], age := 0 }) []
    cf := [], fflags := gs.foldl (fun f g => f ||| g.flagsNow) 0, late := [], rmode := first.rmode, owed := [], latch := none
    spillWritten := first.spillWritten, grants := [], poolRel := [] }

/-- Physical registers beyond those of the arrivals that the output groups take (R260). -/
def poolExtra (gs : List Group) (mv : List ThreadMove) : Nat :=
  ((upto 0 gs.length).foldl (fun n j =>
    let own := gs.getD j {}
    if mv.any (fun x => decide (x.out = j)) then n + max own.floor (popcount 96 (outMap gs mv j).toNat) else n) 0) -
  gs.foldl (fun n g => n + max g.floor g.held + g.granted) 0

/-- The arrivals of a pool as they enter it: what their REGROUP released is gone (R128, R261). -/
def Pool.groups (s : State) (p : Pool) : List Group := p.arrivals.map (fun k => let g := s.groupAt k; g.poolRel.foldl (fun g r => g.release r) g)
def Pool.moves (s : State) (p : Pool) : List ThreadMove := if p.isBr then brMoves (p.groups s) else keyMoves (p.groups s)

/-- Copies the return-address areas and the first arrival's explicit slots into the output groups' stacks (R118): everything is read
before anything is written. -/
def State.moveStacks (s : State) (gs : List Group) (mv : List ThreadMove) : State :=
  let src := fun i => gs.getD i {}
  let (areas, s) := mv.foldl (fun (acc : List (Nat × List Byte) × State) x =>
    let g := src x.src
    let t := g.thread x.lane
    (upto 0 t.rsd).foldl (fun acc i =>
      let (v, s) := acc.2.spillRead g (acc.2.returnEntry g x.lane t.tid i) 8
      (acc.1 ++ [(s.returnEntry (src x.out) x.to_ t.tid i, bytesOf 8 v)], s)) acc) ([], s)
  let first := src 0
  let (slots, s) := first.spillWritten.foldl (fun (acc : List (Nat × List Byte) × State) n =>
    let (v, s) := acc.2.spillRead first (acc.2.spillBase first + 128 * n) 128
    (acc.1 ++ [(n, bytesOf 128 v)], s)) ([], s)
  let s := areas.foldl (fun s e => s.spillWrite first e.1 e.2) s
  (upto 1 (gs.length - 1)).foldl (fun s j =>
    if mv.any (fun x => decide (x.out = j)) then
      slots.foldl (fun s e => s.spillWrite first (s.spillBase (src j) + 128 * e.1) e.2) s
    else s) s

/-- The residues of the elements that have been moved into an output group are checked (R135): where one does not match, the element
holds 11 from then on, and a machine check waits for delivery (R136); no instruction of the output group made that read, so the record
names none (R304). -/
def State.checkMoved (s : State) (k : Nat) : State :=
  let g := s.groupAt k
  let bad := g.regs.poison.filter (fun e => decide (e / 32 < 104)) ++ Map.keys g.regs.upset
  match bad with
  | [] => s
  | e :: _ =>
    (s.modGroup k (fun g => { g with regs := { g.regs with poison := g.regs.poison ++ Map.keys g.regs.upset, upset := [] } })).raiseAsync k
      { cls := .datapath, aux := e / 32 } {}

/-- Moves a closed pool's threads into its output groups; a slot that receives none exits. -/
def State.formPool (s : State) (pid : Nat) (p : Pool) : State :=
  let gs := p.groups s
  let mv := p.moves s
  let s := s.moveStacks gs mv
  let ids := (upto 0 p.arrivals.length).zip p.arrivals
  let outs := (ids.filter (fun e => mv.any (fun x => decide (x.out = e.1)))).map (·.2)
  let params := (s.gridAt (gs.getD 0 {}).grid).param
  let s := ids.foldl (fun s e => s.modGroup e.2 (outGroup gs mv e.1 params)) s
  let s := (p.arrivals.filter (fun k => !outs.contains k)).foldl (fun s k => s.modGroup k (fun g => { g with pooled := false })) s
  let s : State := { s with
    pools := Map.put s.pools pid { p with closed := true, formed := true, outputs := outs }
    wrecs := s.wrecs.map (fun e => if e.2.groups.any p.arrivals.contains then
      (e.1, { e.2 with groups := e.2.groups.filter (fun k => !p.arrivals.contains k) ++ outs }) else e) }
  (outs.foldl (fun s k => s.checkMoved k) s).send 0 5 (.regroupRelease pid)

/-- The record's view of the instruction at which a group waits for a regroup. -/
def State.waitIns (s : State) (g : Group) (a : Nat) : InsInfo :=
  let t := g.thread (lowLane g.liveLanes)
  { pc := a, clause := t.wpc, cpos := t.wcpos, lanes := g.liveLanes
    word := ((s.coreAt (coreKey g.die g.core)).codeWord g.ctx a).getD 0 }

/-- No thread moves: every arrival takes the illegal-operand fault at its instruction, a marked BR or REGROUP of 4 bytes (R260). -/
def State.failPool (s : State) (pid : Nat) (p : Pool) : State :=
  let s : State := { s with pools := Map.erase s.pools pid }
  p.arrivals.foldl (fun s k =>
    let g := s.groupAt k
    let i := s.waitIns g p.addr
    (s.modGroup k (fun g => { g.mapThreads g.liveLanes (fun t => { t with
        park := .none, pc := p.addr, clause := t.wpc, cpos := t.wcpos, entered := true, len := 4 }) with pooled := false, poolRel := [] })).deliver k
      { illegalOperand with lanes := i.lanes } i) s

/-- Closes a pool: it faults, moves its threads, or waits its turn for the registers it must draw (R130, R260). A halted group that had
arrived leaves it, to arrive again once it has resumed (R305). -/
def State.closePool (s : State) (pid : Nat) : State :=
  match Map.find s.pools pid with
  | none => s
  | some p =>
    let out := p.arrivals.filter (fun k => !(s.arrived p).contains k)
    let s := out.foldl (fun s k => s.modGroup k (fun g => { g with pooled := false })) s
    let p := { p with arrivals := s.arrived p }
    let gs := p.groups s
    let mv := p.moves s
    if (upto 0 gs.length).any (fun j => decide (popcount 96 (outMap gs mv j).toNat > (gs.getD j {}).ceil)) then s.failPool pid p
    else
      let n := poolExtra gs mv
      if n ≤ s.poolFree p.die p.core then s.formPool pid p
      else
        let s : State := { s with pools := Map.put s.pools pid { p with closed := true } }
        let r : RegReq := { g := p.arrivals.headD 0, refill := false, n := n }
        s.modCore (coreKey p.die p.core) (fun c => { c with regReqs := c.regReqs ++ [r] })

/-- Closes every pool of a team that is due: after an arrival or an exit (R258). -/
def State.testPools (s : State) : State :=
  ((s.pools.filter (fun e => s.poolCloses e.2)).map (·.1)).foldl (fun s pid => s.closePool pid) s

/-- POOL_ARRIVAL: the group joins its pool, or opens it (R258). -/
def execPoolArrival (g : Nat) (s : State) : Out :=
  let gr := s.groupAt g
  if !s.poolDue gr then .next s
  else
    let a := gr.regroupAt.getD 0
    let s := (s.unlist g).modGroup g (fun x => { x with pooled := true, set := .fallow, fallowSince := s.now })
    match s.pools.find? (fun p => p.2.holds gr a) with
    | some (pid, p) => .next ({ s with pools := Map.put s.pools pid { p with arrivals := p.arrivals ++ [g] } }.testPools)
    | none =>
      let (pid, s) := s.newId
      .next ({ s with pools := Map.put s.pools pid {
        die := gr.die, core := gr.core, quarter := gr.quarter, team := gr.team, addr := a, isBr := gr.poolBr, n := gr.poolN
        arrivals := [g] } }.testPools)

/-- REGROUP_RELEASE: the next output group, its moves done, joins the ready FIFO (R260), with those that leave the fallow set in this clock
(R297); one that a fault has halted meanwhile stays halted. -/
def execRegroupRelease (pool : Nat) (s : State) : Out :=
  match Map.find s.pools pool with
  | none => .next s
  | some p =>
    match p.outputs with
    | [] => .next { s with pools := Map.erase s.pools pool }
    | k :: rest =>
      if !s.ctxRuns p.die (s.groupAt k).ctx then .next s
      else
      let s := (s.modGroup k (fun g => { g with pooled := false })).at_ s.now (100 + (s.groupAt k).gidx) (.fallowReturn k)
      if rest = [] then .next { s with pools := Map.erase s.pools pool }
      else .next ({ s with pools := Map.put s.pools pool { p with outputs := rest } }.send 0 5 (.regroupRelease pool))

end Sys2Proof.Machine
end

