-- ==== Sys2Proof/Machine/Travel.lean ====
section
/-!
DEFINITION. Travelling threads (R265 to R283): departure records, arrival queues, the packer, eviction, the loading of standby
cores, and the TRAVEL instructions.
-/
namespace Sys2Proof.Machine

/-! ### Records (R272) -/

/-- The 512 bytes of a record's element: the header, 4 bytes for each live register, zeros (R272, R274). -/
def TRecord.bytes (r : TRecord) : List Byte :=
  let live := r.live.foldl (fun m e => m ||| 2 ^ e.1) 0
  let stack := ((upto 0 r.rstack.length).zip r.rstack.reverse).foldl (fun n e => n + e.2 % 2 ^ 48 * 2 ^ (48 * e.1)) 0
  let l := bytesOf 64 (r.cpos % 16 * 2 ^ 460 + r.hint % 4 * 2 ^ 458 + r.rsd % 65536 * 2 ^ 442 + r.rstack.length % 8 * 2 ^ 439 +
    r.pred % 128 * 2 ^ 432 + stack * 2 ^ 240 + live * 2 ^ 144 + r.wit.toNat * 2 ^ 80 + r.tid % 2 ^ 32 * 2 ^ 48 + r.pc % 2 ^ 48) ++
    r.live.flatMap (fun e => bytesOf 4 e.2.toNat)
  l ++ List.replicate (512 - l.length) 0

/-- The record an element holds, with the slot it was taken from. -/
def TRecord.read (slot : Nat) (l : List Byte) : TRecord :=
  let h := ofBytes (l.take 64)
  let f := fun lo n => h / 2 ^ lo % 2 ^ n
  let regs := (upto 0 96).filter (fun n => (f 144 96).testBit n)
  { slot := slot, pc := f 0 48, cpos := f 460 4, tid := f 48 32, hint := f 458 2, rsd := f 442 16, pred := f 432 7
    wit := BitVec.ofNat 64 (f 80 64), rstack := ((upto 0 (f 439 3)).map (fun i => f (240 + 48 * i) 48)).reverse
    live := ((upto 0 regs.length).zip regs).map (fun e => (e.2, BitVec.ofNat 32 (ofBytes ((l.drop (64 + 4 * e.1)).take 4)))) }

/-- The record of the thread in a lane, for a PC and an index (R272). -/
def recordOf (g : Group) (l pc cpos : Nat) (w : Wit) : TRecord :=
  let t := g.thread l
  { pc := pc, cpos := cpos, tid := t.tid, hint := t.hint, rsd := t.rsd, rstack := t.rstack, wit := w
    pred := (upto 1 7).foldl (fun n p => if g.regs.predAt p l then n + 2 ^ (p - 1) else n) 0
    live := ((upto 0 96).filter (fun n => g.regs.vmap.getLsbD n)).map (fun n => (n, g.regs.main n l)) }

/-- A poisoned element that a record of a lane would carry (R136). -/
def poisonedLane (g : Group) (l : Nat) : Option Nat :=
  ((g.regs.poison ++ Map.keys g.regs.upset).find? (fun k => decide (k % 32 = l ∧ (k / 32 < 96 ∨ 0xC0 ≤ k / 32)))).map (· / 32)

/-! ### Depths and the group's end (R264, R274) -/

/-- The travel arrival depth of a core: committed records not yet taken out, and those staged (R274). -/
def State.depthOf (s : State) (die core : Nat) : Nat :=
  let q := s.queueAt (arrivalKey die core)
  (if q.kind = 3 ∧ q.state = 1 then q.waitingTo q.c else 0) + (s.coreAt (coreKey die core)).packer.staged.length

/-- Ends a group (R264): its flags join its grid's summary, its registers and its slot are free. DESIGN CHOICE (log 104): the summary stands with
the grid and in no byte of a context area, where R311 and R312 give it no place. -/
def State.endGroup (s : State) (k : Nat) : State :=
  let g := s.groupAt k
  let s := s.modGrid g.grid (fun x => { x with flags := x.flags ||| g.flagsNow })
  (s.unlist k).modGroup k (fun g => { g with set := .ended, regs := {}, owed := [], latch := none, grants := [], pooled := false })

/-! ### Departure (R269 to R273) -/

/-- Whether an operation that a lane's path issued is still outstanding (R270). -/
def State.ownOps (s : State) (k l : Nat) : Bool :=
  s.memOps.any (fun e => decide (e.2.g = k) && e.2.ins.lanes.getLsbD l) ||
  s.cmds.any (fun e => decide (e.2.g = k) && e.2.ins.lanes.getLsbD l) ||
  s.qops.any (fun e => decide (e.2.g = k) && e.2.ins.lanes.getLsbD l)

/-- The threads that can leave now but for their tickets. -/
def State.departing (s : State) (k : Nat) (g : Group) : Lanes :=
  if g.set = .halted ∨ g.saved then 0
  else maskOf (fun l => (g.thread l).live && decide ((g.thread l).park = .depart) && !s.ownOps k l)

/-- The replica a record goes to: the one of least announced depth, the lowest at a tie (R273). -/
def State.replicaFor (s : State) (g : Group) (pc : Nat) : Option (Nat × Nat) :=
  let x := s.gridAt g.grid
  match x.segOf pc with
  | none => none
  | some n =>
    let rep := (Map.get x.segs {} n).rep
    (minBy (fun c => (s.die g.die).tableOf (depthEntry c)) ((upto 0 24).filter (fun c => rep.getLsbD c))).map (fun c => (n, c))

/-- Posts a record from a core to the arrival queue of another, as its serving port numbers them (R214, R273). -/
def State.postRecordTo (s : State) (k : Nat) (g : Group) (seg target : Nat) (ins : InsInfo) (r : TRecord) : State :=
  let qk := arrivalKey g.die target
  let qid := qidOf s.module g.die (qk / 4096 % 4) (qk % 4096)
  let pk := portKey g.die (servingPort g.core)
  let (n, s) := s.nextPost pk ((g.ctx * 2 + 1) * 2 ^ 32 + qid)
  let data := r.bytes
  let key := 2 ^ 63 + n
  s.submit {
    msg := { kind := .post, esz := 5, domain := (s.ctxAt (ctxKey g.die g.ctx)).domain, qid := qid, key := key, smod := s.module, sdie := g.die
             sport := servingPort g.core, ctx := g.ctx, core := g.core, data := data, crc := checkCode qid key data, hw := true }
    die := g.die, port := servingPort g.core, g := k, handle := target + 256 * seg, ins := ins }

/-- Sends the records of lanes of a group, with one ticket for the path and the carried witnesses merged (R271); none where the
tickets are not free. `where_` gives each lane's target and position. -/
def State.sendRecords (s : State) (k : Nat) (g : Group) (m : Lanes) (target : Nat → Nat × Nat) (pos : Nat → Nat × Nat) : Option State :=
  let ck := coreKey g.die g.core
  let inc := (s.die g.die).inc
  if s.freeTickets ck = 0 then none
  else
    let drain := (s.wrecs.filter (fun e => e.2.groups.contains k && decide (e.2.lanes &&& m ≠ 0))).map (·.1)
    let (t, s) := s.takeTicket ck { drain := drain, ctx := g.ctx }
    let w := frontierWit g.die inc g.core t
    let merges := (lanesOf m).map (fun l => (l, mergeSet g.die g.core inc [(g.thread l).carry, w]))
    if merges.foldl (fun n e => n + e.2.need) 0 > s.freeTickets ck then none
    else
      some (merges.foldl (fun s e =>
        let (kw, s) := s.finishMerge ck g.ctx e.2
        let l := e.1
        let th := g.thread l
        (s.postRecordTo k g (target l).1 (target l).2 (if th.park = .depart then th.sent else { pc := th.pc, clause := th.wpc, cpos := th.wcpos, lanes := m }) (recordOf g l (pos l).1 (pos l).2 kw)).modGroup k
          (fun g => g.mapThreads (laneBit l) (fun t => { t with live := false, park := .none, stall := .none, join := [], rstack := [], rsd := 0 }))) s)

/-- Ends a group once no thread of it is left. -/
def State.endIfEmpty (s : State) (k : Nat) : State :=
  if (s.groupAt k).liveLanes = 0 ∧ (s.groupAt k).cf = [] then s.endGroup k else s

/-- THREAD_DEPART: the threads of one departing path that can leave do (R270 to R273), once no register of the group is spilled; an element
that fails its residue test is a machine check, and nothing leaves. -/
def execThreadDepart (g : Nat) (s : State) : Out :=
  let gr := s.groupAt g
  let all := s.departing g gr
  if all = 0 then .next s
  else
    let pc := (gr.thread (lowLane all)).pc
    let m := maskOf (fun l => all.getLsbD l && decide ((gr.thread l).pc = pc))
    match (lanesOf m).find? (fun l => (poisonedLane gr l).isSome) with
    | some l =>
      let r := (poisonedLane gr l).getD 0
      .next (if gr.pend ≠ [] then s else
        s.raiseAsync g { cls := .datapath, sub := if r < 0xC0 then 0 else 2, aux := r, lanes := (gr.thread l).sent.lanes } (gr.thread l).sent)
    | none =>
      match s.replicaFor gr pc with
      | none => .next s
      | some tgt =>
        if gr.regs.spilled ≠ 0 then .next s
        else if s.retainedBytes gr.die (servingPort gr.core) + 512 * countLanes m > Config.retentionBytes then .next s
        else
          match s.sendRecords g gr m (fun _ => tgt) (fun _ => (pc, 0)) with
          | none => .next s
          | some s =>
            let ck := coreKey gr.die gr.core
            let s := s.modCore ck (fun c => { c with packer := { c.packer with sent := c.packer.sent + countLanes m } })
            .next (((s.tallyCore ck .departures (countLanes m)).settleJoins g 32).endIfEmpty g)

/-! ### The packer (R275 to R277) -/

/-- The launch that holds a core: the running travel grid with the core in some rep or stby. -/
def State.travelGrid (s : State) (die core : Nat) : Option (Nat × Grid) :=
  s.grids.find? (fun e => decide (e.2.die = die ∧ e.2.stage = .running) && e.2.travel &&
    e.2.segs.any (fun x => x.2.valid && (x.2.rep.getLsbD core || x.2.stby.getLsbD core)))

/-- Groups that take a slot of a core. -/
def State.coreGroups (s : State) (die core : Nat) : Map Group :=
  s.groups.filter (fun e => decide (e.2.die = die ∧ e.2.core = core ∧ e.2.set ≠ .ended) && !e.2.saved)

/-- How many groups a quarter of a core holds. -/
def State.quarterCount (s : State) (die core q : Nat) : Nat := ((s.coreGroups die core).filter (fun e => decide (e.2.quarter = q))).length

/-- The quarter that holds the fewest groups, the lowest at a tie (R276, R289). -/
def State.leastQuarter (s : State) (die core : Nat) : Nat := (minBy (fun q => s.quarterCount die core q) (upto 0 4)).getD 0

/-- The lowest free slot of a core in a quarter: slot k is of quarter k mod 4. -/
def State.freeSlot (s : State) (die core q : Nat) : Option Nat :=
  let used := (s.coreGroups die core).map (fun e => e.2.slot)
  if s.quarterCount die core q ≥ Config.quarterGroups then none
  else (upto 0 1024).find? (fun k => decide (k % 4 = q) && !used.contains k)

/-- The launch parameters as s32 to s63 (R295). -/
def Grid.paramScalars (g : Grid) : Map Word := (upto 0 32).foldl (fun m i => Map.set m 0 (32 + i) (g.param i)) []

/-- The byte address of the instruction of an index in the clause at va. -/
def Core.insAddress (c : Core) (ctx : Nat) : Nat → Nat → Nat
  | 0, a => a
  | n + 1, a => insAddress c ctx n ((a + parcelLen ((c.parcel ctx a).getD 0)) % 2 ^ 48)

/-- A packed thread (R276): it starts at its instruction, and parks on a pending carried witness (R277). -/
def State.packThread (s : State) (die core ctx set : Nat) (r : TRecord) : Thread :=
  let c := s.coreAt (coreKey die core)
  let t : Thread := {
    tid := r.tid, live := true, pc := r.pc, clause := r.pc, rstack := r.rstack, rsd := r.rsd, hint := r.hint, carry := r.wit
    park := if s.satisfied die core r.wit then .none else .witness r.wit set, wpc := r.pc, wcpos := r.cpos }
  if r.cpos = 0 then t
  else { t with
    entered := true, cpos := r.cpos, pc := c.insAddress ctx r.cpos ((r.pc + 8) % 2 ^ 48)
    hdr0 := BitVec.ofNat 32 ((c.codeWord ctx r.pc).getD 0), hdr1 := BitVec.ofNat 32 ((c.codeWord ctx (r.pc + 4)).getD 0) }

/-- The registers that the records of a bin map. -/
def liveUnion (l : List TRecord) : BitVec 96 := l.foldl (fun m r => r.live.foldl (fun m e => m ||| (1#96 <<< e.1)) m) 0

/-- The group of a bin (R276). -/
def State.packGroup (s : State) (gid : Nat) (x : Grid) (die core slot q : Nat) (l : List TRecord) : Group × State :=
  let recs := (upto 0 l.length).zip l
  let (sets, s) := recs.foldl (fun (acc : List Nat × State) _ =>
    let (n, s) := acc.2.newId
    (acc.1 ++ [n], s)) ([], s)
  ({ die := die, core := core, slot := slot, quarter := q, ctx := x.ctx, grid := gid, team := 0, gidx := slot, role := .unified
     floor := x.field 356 7, ceil := x.field 363 7, set := .ready
     regs := {
       v := recs.foldl (fun v e => e.2.live.foldl (fun v y => Map.set v 0 (y.1 * 32 + e.1) y.2) v) []
       vmap := liveUnion l, s := x.paramScalars
       p := (upto 1 7).foldl (fun p n => Map.set p 0 n (maskOf (fun i => match l[i]? with
         | some r => r.pred.testBit (n - 1)
         | none => false))) [] }
     threads := recs.foldl (fun m e => Map.put m e.1 (s.packThread die core x.ctx (sets.getD e.1 0) e.2)) [] }, s)

/-- The staged records of a bin, in slot order. -/
def Packer.bin (p : Packer) (pc cpos : Nat) : List (TRecord × Nat) := p.staged.filter (fun e => decide (e.1.pc = pc ∧ e.1.cpos = cpos))

/-- Whether a bin falls due at the first clock of window w (R275). -/
def binDue (w : Nat) (l : List (TRecord × Nat)) : Bool :=
  let last := l.foldl (fun n e => max n e.2) 0
  if l.any (fun e => decide (e.1.hint = 1)) then l.any (fun e => decide (e.1.hint = 1 ∧ e.2 < w))
  else if l.all (fun e => decide (e.1.hint = 2)) then decide (last + 5 ≤ w)
  else decide (last + 1 < w)

/-- Emits one ready bin, 32 records at a time, while a slot and the registers are free; what is left of it stays ready where it still holds
32 records or is due. -/
def State.emitBin (die core : Nat) (b : Nat × Nat × Nat) : Nat → State → State
  | 0, s => s
  | n + 1, s =>
    let ck := coreKey die core
    let p := (s.coreAt ck).packer
    let recs := ((p.bin b.1 b.2.1).map (·.1)).take 32
    let q := s.leastQuarter die core
    match s.travelGrid die core, s.freeSlot die core q with
    | some (gid, x), some slot =>
      if recs = [] then s.modCore ck (fun c => { c with packer := { c.packer with ready := c.packer.ready.filter (· ≠ b) } })
      else if max (x.field 356 7) (popcount 96 (liveUnion recs).toNat) > s.poolFree die core then s
      else
        let (g, s) := s.packGroup gid x die core slot q recs
        let (k, s) := s.newId
        let qk := ck * 4 + q
        let s : State := { s with groups := Map.put s.groups k g }
        let s := s.setQuarter qk { s.quarterAt qk with ready := (s.quarterAt qk).ready ++ [k] }
        let staged := p.staged.filter (fun e => !recs.any (fun r => decide (r.slot = e.1.slot)))
        let rest := ({ p with staged := staged } : Packer).bin b.1 b.2.1
        let more := decide (rest.length ≥ 32) || (decide (rest ≠ []) && binDue ((s.die die).clock / 32) rest)
        let s := s.modCore ck (fun c => { c with packer := { c.packer with
          staged := staged, partials := c.packer.partials + (if recs.length < 32 then 1 else 0)
          ready := if more then c.packer.ready else c.packer.ready.filter (· ≠ b) } })
        if more then emitBin die core b n s else s
    | _, _ => s

/-- Whether the packer of a core works: its launch's context runs (R281, R309), and no arrival-spill fault has halted the kernel (R279). -/
def State.packs (s : State) (die core : Nat) : Bool :=
  match s.travelGrid die core with
  | some (_, x) => s.ctxRuns die x.ctx && !x.overflowed
  | none => false

/-- Emits the ready bins of a core in the order of their oldest records. -/
def State.emitReady (s : State) (die core : Nat) : State :=
  if !s.packs die core then s else
  let p := (s.coreAt (coreKey die core)).packer
  let oldest := fun (b : Nat × Nat × Nat) => match p.bin b.1 b.2.1 with
    | e :: _ => e.1.slot
    | [] => 0
  (sortBy oldest p.ready).foldl (fun s b => State.emitBin die core b 5 s) s

/-- Marks a bin ready, if it is not yet. -/
def Packer.mark (p : Packer) (pc cpos now : Nat) : Packer :=
  if p.ready.any (fun b => decide (b.1 = pc ∧ b.2.1 = cpos)) then p else { p with ready := p.ready ++ [(pc, cpos, now)] }

/-- PACKER_STAGE: the packer takes the record at its queue's head; a bin that then holds 32 is emitted at once (R275). -/
def execPackerStage (core : Nat) (s : State) : Out :=
  let die := core / 24
  let c := core % 24
  if (s.coreAt core).packer.staged.length ≥ 128 ∨ !s.packs die c then .next s
  else
    match s.takeHead (arrivalKey die c) with
    | (none, s) => .next s
    | (some (slot, data, _), s) =>
      let r := TRecord.read slot data
      let clock := (s.die die).clock
      let s := s.modCore core (fun x =>
        let p := { x.packer with staged := x.packer.staged ++ [(r, clock / 32)] }
        { x with packer := if (p.bin r.pc r.cpos).length ≥ 32 then p.mark r.pc r.cpos clock else p })
      .next (s.emitReady die c)

/-- PACKER_WINDOW_EMIT: at a window's first clock the bins that are due become ready; ready bins are emitted (R275). -/
def execPackerWindowEmit (core : Nat) (s : State) : Out :=
  let die := core / 24
  let clock := (s.die die).clock
  if !s.packs die (core % 24) then .next s else
  let s := if clock % 32 = 0 then
      s.modCore core (fun x => { x with packer := x.packer.staged.foldl (fun p e =>
        if binDue (clock / 32) (p.bin e.1.pc e.1.cpos) then p.mark e.1.pc e.1.cpos clock else p) x.packer })
    else s
  .next (s.emitReady die (core % 24))

/-! ### Eviction (R279) -/

/-- Whether a thread waits so that its group may be evicted: at WWAIT, QDEQ.S, QWAIT or JOIN. A thread that waits on its carried
witness has not reached an instruction. -/
def State.evictable (s : State) (t : Thread) : Bool :=
  match t.park with
  | .witness _ _ => decide (t.clause ≠ t.wpc ∨ t.cpos ≠ t.wcpos)
  | .join .. => true
  | .queue op => match Map.find s.qops op with
    | some o => !o.delivering && (o.sleepy || decide (o.kind = .qwait))
    | none => false
  | _ => false

/-- Whether a group can be evicted: every thread left waits so, with no other operation outstanding. -/
def State.groupEvictable (s : State) (k : Nat) (g : Group) : Bool :=
  decide (g.set = .fallow) && !g.saved && decide (g.liveLanes ≠ 0) && decide (g.pend = []) &&
  g.threads.all (fun t => !t.2.live || s.evictable t.2) &&
  !s.memOps.any (fun e => decide (e.2.g = k)) && !s.cmds.any (fun e => decide (e.2.g = k)) &&
  s.qops.all (fun e => decide (e.2.g ≠ k) || g.threads.any (fun t => t.2.live && decide (t.2.park = .queue e.1)))

/-- Whether a core's packer has held a bin ready through the whole window just ended. -/
def Packer.starved (p : Packer) (clock : Nat) : Bool := p.ready.any (fun b => decide (b.2.2 + 32 ≤ clock))

/-- The group a core evicts: of its launch, the one fallow longest, the lower slot at a tie. -/
def State.victim (s : State) (die core : Nat) : Option Nat :=
  (minBy (fun (e : Nat × Group) => e.2.fallowSince * 1024 + e.2.slot)
    (s.groups.filter (fun e => decide (e.2.die = die ∧ e.2.core = core) && s.inTravel e.2 && s.groupEvictable e.1 e.2))).map (·.1)

/-- GROUP_EVICT: at a window boundary, the waiting threads of one group go to the tail of their own core's queue as records that
name the instruction at which they wait (R279), where the port has room for them (R224). The values of spilled registers go into the records
straight from their slots: the group takes no physical register for them, since it never issues again (R131). DEDUCED (log 115). An element that
fails its residue test is a machine check, and nothing leaves (R136, R272). -/
def execGroupEvict (core : Nat) (s : State) : Out :=
  let die := core / 24
  let c := core % 24
  let clock := (s.die die).clock
  if clock % 32 ≠ 0 ∨ !(s.coreAt core).packer.starved clock ∨ !s.packs die c then .next s
  else
    match s.victim die c with
    | none => .next s
    | some k =>
      let g := s.groupAt k
      let m := g.liveLanes
      let seg := ((s.gridAt g.grid).segAt c).getD 0
      match (lanesOf m).find? (fun l => (poisonedLane g l).isSome) with
      | some l =>
        let r := (poisonedLane g l).getD 0
        .next (s.raiseAsync k { cls := .datapath, sub := if r < 0xC0 then 0 else 2, aux := r, lanes := m } {})
      | none =>
      if s.retainedBytes die (servingPort c) + 512 * countLanes m > Config.retentionBytes then .next s
      else
      let full := s.refillRegs k
      match full.sendRecords k (full.groupAt k) m (fun _ => (seg, c)) (fun l => ((g.thread l).wpc, (g.thread l).wcpos)) with
      | none => .next s
      | some s =>
        let mine := (s.qops.filter (fun e => decide (e.2.g = k))).map (·.1)
        let s : State := { s with
          qops := s.qops.filter (fun e => decide (e.2.g ≠ k))
          queues := s.queues.map (fun e => (e.1, { e.2 with sleepers := e.2.sleepers.filter (fun op => !mine.contains op) })) }
        let s := s.modCore core (fun x => { x with packer := { x.packer with evictions := x.packer.evictions + 1, sent := x.packer.sent + countLanes m } })
        .next ((s.tallyCore core .evictions 1).endGroup k)

/-! ### Segments (R268, R278) -/

/-- Puts a line into a core's instruction store of 256 KiB (R1); the oldest line not pinned leaves when it is full (R290), the
oldest of all where every line is pinned, so that the store never holds more than its 2,048 lines. -/
def Core.addLine (c : Core) (l : CodeLine) : Core :=
  let st := c.istore.filter (fun x => decide (x.ctx ≠ l.ctx ∨ x.addr ≠ l.addr)) ++ [l]
  if st.length ≤ Config.istoreLines then { c with istore := st }
  else
    match st.find? (fun x => !x.pinned) with
    | some v => { c with istore := st.erase v }
    | none => { c with istore := st.drop 1 }

/-- Loads a segment's code into a core's instruction store, pinned there (R268): lines of 128 bytes from the segment's base on, so
that the longest segment, of 256 KiB, fills the store whatever its base (R1, R266). -/
def State.loadSegment (s : State) (x : Grid) (core : Nat) (g : Segment) : State :=
  (upto 0 ((8 * g.len + 127) / 128)).foldl (fun s i =>
    let a := g.base + 128 * i
    match s.readVirtual x.die x.ctx a (min 128 (8 * g.len - 128 * i)) .code with
    | some d => s.modCore (coreKey x.die core) (fun c => c.addLine { ctx := x.ctx, addr := a, data := d, pinned := true })
    | none => s) s

def roundUp4K (n : Nat) : Nat := (n + 4095) / 4096 * 4096
/-- Threads of a travel launch (R286). -/
def Grid.threadCount (x : Grid) : Nat := if x.field 160 24 = 0 then 2 ^ 24 else x.field 160 24

/-- The descriptor of a core's arrival queue in a launch (R274). -/
def arrivalDesc (x : Grid) (core : Nat) : BitVec 128 :=
  let arrspill := x.field 832 32
  let base := x.spillBase + 4096 * x.stride * 24576 + roundUp4K (8 * x.depth * x.threadCount) + core * roundUp4K arrspill
  BitVec.ofNat 128 (base % 2 ^ 48 * 2 ^ 80 + arrspill / 512 * 2 ^ 47 + 511 * 2 ^ 31 + (0x68000 + 0x4000 * servedIndex core) * 2 ^ 12 +
    5 * 2 ^ 8 + 1 * 2 ^ 6 + 3 * 2 ^ 4)

/-- Opens a core's arrival queue, empty; its producers' sequences go on (R214). -/
def State.openArrival (s : State) (x : Grid) (core : Nat) : State :=
  s.modQueue (arrivalKey x.die core) (fun q => { desc := arrivalDesc x core, e := 512, owner := x.ctx, prods := q.prods })

/-- SEGMENT_LOAD_COMPLETE: a standby core has its segment's code and opens its queue; the replica tables add it at the next
application (R278). A load that the launch's end has overtaken comes to nothing. -/
def execSegmentLoadComplete (grid seg : Nat) (s : State) : Out :=
  let x := s.gridAt grid
  let g := Map.get x.segs {} seg
  match g.loading with
  | [] => .next s
  | c :: rest =>
    if x.stage ≠ .running then .next s
    else
      let s := (s.loadSegment x c g).openArrival x c
      .next (s.modGrid grid (fun x => { x with segs := Map.modify x.segs seg (fun g => { g with loading := rest, loaded := g.loaded ++ [c] }) }))

/-- The standby cores of a segment that are not yet loaded, for it or for another segment (R283). -/
def Grid.notLoaded (x : Grid) (g : Segment) : BitVec 24 :=
  (upto 0 24).foldl (fun m c =>
    if g.stby.getLsbD c && !x.segs.any (fun e => e.2.valid && (e.2.rep.getLsbD c || e.2.loaded.contains c)) then m ||| (1#24 <<< c) else m) 0
/-- Those of them that a load may still take (R278). -/
def Grid.unloaded (x : Grid) (g : Segment) : BitVec 24 :=
  (upto 0 24).foldl (fun m c => if (x.notLoaded g).getLsbD c && !x.segs.any (fun e => e.2.valid && e.2.loading.contains c) then m ||| (1#24 <<< c) else m) 0

/-! ### TRAVEL (R282, R283) -/

/-- Illegal outside a travel launch (R265). -/
def notTravel (s : State) (g : Group) : Option FaultInfo := failIf (!s.inTravel g) illegal

def execTseg (d : BitVec 6) (s : State) : Out :=
  atIssue s fun c g =>
    let n := ((s.gridAt g.grid).segAt g.core).getD 0
    issueIns s c g {} (notTravel s g) none none none fun s => s.modGroup c.g (fun y => y.writeScalar d.toNat (BitVec.ofNat 32 n))

def execTsegAddr (a d : BitVec 6) (s : State) : Out :=
  atIssue s fun c g =>
    let x := s.gridAt g.grid
    let va := (x.image + ((c.view g).scalar a.toNat).toNat) % 2 ^ 48
    let v : Word := match x.segOf va with
      | some n => BitVec.ofNat 32 n
      | none => 0xFFFFFFFF
    issueIns s c g { scalars := [a.toNat] } (notTravel s g) none none none fun s => s.modGroup c.g (fun y => y.writeScalar d.toNat v)

/-- What TSTAT reads (R283). -/
def State.travelStat (s : State) (g : Group) (sel seg : Nat) : Word × Word :=
  let p := (s.coreAt (coreKey g.die g.core)).packer
  let x := s.gridAt g.grid
  let e := Map.get x.segs {} seg
  match sel with
  | 0 => (BitVec.ofNat 32 (s.depthOf g.die g.core),
      BitVec.ofNat 32 ((s.coreGroups g.die g.core).filter (fun k => decide (k.2.grid = g.grid))).length)
  | 1 => (BitVec.ofNat 32 (popcount 24 e.rep.toNat * 2 ^ 24 + e.rep.toNat), BitVec.ofNat 32 (e.replications % 256 * 2 ^ 24 + (x.notLoaded e).toNat))
  | 2 => (BitVec.ofNat 32 p.partials, BitVec.ofNat 32 p.evictions)
  | _ => (BitVec.ofNat 32 p.sent, BitVec.ofNat 32 p.refilled)

/-- TSTAT: sa is read by selector 1 only, and must be 0 for the others (R282). -/
def execTstat (sl : BitVec 4) (a d : BitVec 6) (s : State) : Out :=
  atIssue s fun c g =>
    let seg := ((c.view g).scalar a.toNat).toNat
    let one := decide (sl = 1)
    let bad := one && (decide (seg ≥ 64) || !(Map.get (s.gridAt g.grid).segs {} seg).valid)
    let early := notTravel s g <|> failIf (decide (sl.toNat > 3) || (!one && decide (a ≠ 0))) illegal <|> failIf (badPair d.toNat) illegalOperand
    issueIns s c g { scalars := if one then [a.toNat] else [] } early none (failIf bad illegalOperand) none fun s =>
      let v := s.travelStat g sl.toNat seg
      s.modGroup c.g (fun y => (y.writeScalar d.toNat v.1).writeScalar (d.toNat + 1) v.2)

def execThint (h : BitVec 4) (s : State) : Out :=
  atIssue s fun c g =>
    issueIns s c g {} (notTravel s g <|> failIf (decide (h.toNat > 2)) illegal) none none none fun s =>
      s.modGroup c.g (fun y => y.mapThreads c.lanes (fun t => { t with hint := h.toNat }))

end Sys2Proof.Machine
end

