-- ==== Sys2Proof/Machine/Flue.lean ====
section
/-!
DEFINITION. The flue network (R102): the snapshot of a window, its application to the die's home table two windows later, what
waits for a table, and the travel scheduler that runs at each application (R278).
-/
namespace Sys2Proof.Machine

/-- What the announcers of a die announce now: visible counts, settled tickets, travel arrival depths. -/
def State.announce (s : State) (die : Nat) : Map Nat :=
  let d := s.die die
  (upto 0 24).foldl (fun m c =>
      Map.set (Map.set m 0 (settledEntry c) (s.coreAt (coreKey die c)).settled) 0 (depthEntry c) (s.depthOf die c))
    ((upto 0 50).foldl (fun m h => Map.set m 0 h (d.visibleOf h)) [])

/-- FLUE_SNAPSHOT: at the end of a window's first clock. -/
def execFlueSnapshot (die : Nat) (s : State) : Out :=
  let d := s.die die
  let m := s.announce die
  .next (s.setDie die { d with snaps := (d.snaps.filter (fun e => decide (e.1 + 3 > d.clock / 32))) ++ [(d.clock / 32, m)] })

/-- Whether every replica of a segment is announced at or above a threshold. -/
def State.hotNow (s : State) (die thresh : Nat) (g : Segment) : Bool :=
  (upto 0 24).all (fun c => !g.rep.getLsbD c || decide (thresh ≤ (s.die die).tableOf (depthEntry c)))

/-- One segment at an application (R278): a loaded core joins the replica table; a hot segment has its next standby core loaded.
DEDUCED (log 103): a core whose load is in progress counts towards the 8 replicas. -/
def State.scheduleSegment (s : State) (gid n : Nat) : State :=
  let x := s.gridAt gid
  let g := Map.get x.segs {} n
  let put := fun (s : State) (g : Segment) => s.modGrid gid (fun x => { x with segs := Map.put x.segs n g })
  if g.loaded ≠ [] then
    put s { g with rep := g.loaded.foldl (fun m c => m ||| (1#24 <<< c)) g.rep, replications := g.replications + g.loaded.length, loaded := [], hot := 0 }
  else
    let hot := if x.field 816 16 ≠ 0 ∧ s.hotNow x.die (x.field 816 16) g then g.hot + 1 else 0
    if hot < 4 then put s { g with hot := hot }
    else
      match (upto 0 24).find? (fun c => (x.unloaded g).getLsbD c) with
      | some c =>
        if popcount 24 g.rep.toNat + g.loading.length ≥ 8 then
          (put s { g with hot := hot }).modGrid gid (fun x => { x with standbyWant := x.standbyWant + 1 })
        else
          let (l, s) := s.drawLatency
          (put s { g with loading := g.loading ++ [c], hot := 0 }).at_ (s.now + 1 + l % 2048 + (8 * g.len + 127) / 128) 5 (.segmentLoadComplete gid n)
      | none => (put s { g with hot := hot }).modGrid gid (fun x => { x with standbyWant := x.standbyWant + 1 })

/-- FLUE_APPLY: the announcements of window w - 2 become the home table of every core of the die; then the scheduler looks at every
segment, loads that waited for a witness try again, and writes that every table covers need no record. -/
def execFlueApply (die : Nat) (s : State) : Out :=
  let d := s.die die
  let w := d.clock / 32
  match d.snaps.find? (fun e => decide (e.1 + 2 = w)) with
  | none => .next s
  | some (_, m) =>
    let s := (s.setDie die { d with table := m }).giveWaiting die
    let travel := s.grids.filter (fun e => decide (e.2.die = die ∧ e.2.stage = .running) && e.2.travel)
    let s := travel.foldl (fun s e => (Map.keys (e.2.segs.filter (fun x => x.2.valid))).foldl (fun s n => s.scheduleSegment e.1 n) s) s
    let s : State := { s with wrecs := s.wrecs.filter (fun e => decide (e.2.die ≠ die) || (match e.2.count with
      | some q => serialPending q ((s.die die).tableOf e.2.home)
      | none => true)) }
    .next ((upto 0 24).foldl (fun s c => s.retryOps die c) s)

end Sys2Proof.Machine
end

