-- ==== Sys2Proof/Machine/Sys.lean ====
section
/-!
DEFINITION. The SYS family (R315, R316): traps, counters, instruction-store synchronisation.
-/
namespace Sys2Proof.Machine

/-- A trap: the instruction is complete, the path stands after it, and then the trap is delivered (R302, R305); where the group's second
path has still to issue in this clock, after a precise fault that it may raise. -/
def trapOp (cls : FaultClass) (imm : Nat) (s : State) : Out :=
  atIssue s fun c g =>
    issueIns s c g {} none none (fallFault s c g) none
      (fun s =>
        let s := s.modGroup c.g (fun x => x.advance (s.gridAt g.grid) c)
        let f : FaultInfo := { cls := cls, imm := imm, lanes := c.lanes }
        if s.issue.any (fun x => decide (x.g = c.g)) then
          (s.modGroup c.g (fun x => { x with pend := { info := f, ins := insInfo c g, since := 0 } :: x.pend })).deliverNow c.g
        else s.deliver c.g f (insInfo c g)) true

def execTrap (i : BitVec 20) (s : State) : Out := trapOp .trap i.toNat s
def execBkpt (s : State) : Out := trapOp .bkpt 0 s

/-- CNTR: a counter of the issuing core; one not opened to the context reads zero. -/
def execCntr (k : BitVec 3) (d : BitVec 6) (s : State) : Out :=
  atIssue s fun c g =>
    issueIns s c g {} (failIf (decide (d.toNat % 2 = 1)) illegalOperand) none none none fun s =>
      let x := Map.get (s.coreAt (coreKey g.die g.core)).counters {} k.toNat
      let v : BitVec 48 := if x.reader = g.ctx then x.value else 0
      s.modGroup c.g (fun y => (y.writeScalar d.toNat (v.extractLsb' 0 32)).writeScalar (d.toNat + 1) ((v.extractLsb' 32 16).zeroExtend 32))

/-- ISYNC: the core holds no code line any more, so every later clause is fetched from HBM. -/
def execIsync (s : State) : Out :=
  atIssue s fun c g =>
    issueIns s c g {} (travelIllegal s g) none none none fun s =>
      s.modCore (coreKey g.die g.core) (fun x => { x with istore := x.istore.filter (fun l => l.pinned) })

def execNop32 (s : State) : Out := atIssue s fun c g => issueIns s c g {} none none none none id

end Sys2Proof.Machine
end

