-- ==== Sys2Proof/Machine/Sched.lean ====
section
/-!
DEFINITION. Launch and scheduling (R284 to R300): what a thread waits for, the quarter's sets, register requests, code lines, launch
packets, plots, travel launches, and the ends of groups, teams and grids.
-/
namespace Sys2Proof.Machine

/-! ### What a thread waits for (R246, R297, R298) -/

/-- The first code address that a thread needs next and whose line its core does not hold. -/
def Core.missingCode (c : Core) (ctx : Nat) (t : Thread) : Option Nat :=
  if t.entered then
    match c.parcel ctx t.pc with
    | none => some t.pc
    | some p =>
      let last := (t.pc + parcelLen p - 2) % 2 ^ 48
      if (c.parcel ctx last).isNone then some last else none
  else
    match c.scan ctx t.clause with
    | .missing va => some va
    | .done _ _ => none

/-- Whether a thread stands before a clause whose wait mask holds it (R22). -/
def State.maskHolds (s : State) (g : Group) (t : Thread) : Bool :=
  !t.entered && (match (s.coreAt (coreKey g.die g.core)).codeWord g.ctx t.clause with
    | some h => !g.maskClear (BitVec.ofNat 32 h)
    | none => false)

/-- Whether the cause that stopped an instruction has cleared. -/
def State.stallClear (s : State) (g : Group) : Stall → Bool
  | .none => true
  | .flagFull n => decide (g.flagOf n < 63)
  | .copyEngine entry => (copyStall s g entry).isNone
  | .rangeEntry lo hi sp wr => !s.rangeHit g.die g.core sp lo hi wr
  | .rcfg _ _ _ => false
  | .sleepers port => decide (s.sleeperCount port < Config.sleeperEntries)
  | .retention port n => decide (s.retainedBytes (port / 4) (port % 4) + n ≤ Config.retentionBytes)
  | .lineRequests n => decide ((s.coreAt (coreKey g.die g.core)).lineUsed + n ≤ Config.lineRequests)
  | .superseded => decide (g.superseded < 31)
  | .register _ => false
  | .tickets n => decide (n ≤ s.freeTickets (coreKey g.die g.core))
  | .array => decide ((s.coreAt (coreKey g.die g.core)).arrayFree ≤ (s.die g.die).clock)
  | .follower => decide ((s.coreAt (coreKey g.die g.core)).yokeFree ≤ (s.die g.die).clock)
  | .followerRange lo hi => !s.rangeHit g.die (g.core + 1) .team lo hi true
  | .retAddr => false
  | .handle h => (Map.find (s.coreAt (coreKey g.die g.core)).handles h).isSome
  | .homeLead => true
  | .teamOrder => (s.turnStall g).isNone

/-- Whether a cause is one of R298; the others keep the group active (R297). -/
def Stall.fallow : Stall → Bool
  | .none | .array | .follower | .retAddr | .handle _ | .homeLead | .teamOrder => false
  | _ => true

/-- Whether a thread is a candidate (R246). -/
def State.candidate (s : State) (g : Group) (t : Thread) : Bool :=
  t.live && decide (t.park = .none ∧ t.stall = .none) && ((s.coreAt (coreKey g.die g.core)).missingCode g.ctx t).isNone && !s.maskHolds g t

def Group.joinOnly (g : Group) : Bool := g.threads.all (fun t => !t.2.live || decide (t.2.park ≠ .none))

/-- Whether a thread is held by a fallow cause (R298): a wait at a JOIN counts when every other thread waits or is parked too, a wait mask
where nothing else holds the thread. -/
def State.held (s : State) (g : Group) (t : Thread) : Bool :=
  t.live && ((match t.park with
    | .none => false
    | .join .. => g.joinOnly
    | _ => true) || t.stall.fallow || (decide (t.park = .none ∧ t.stall = .none) && s.maskHolds g t))

/-- Clears the stalls of a group whose causes have cleared. -/
def State.clearStalls (s : State) (k : Nat) (g : Group) : State :=
  if g.threads.any (fun t => decide (t.2.stall ≠ .none) && s.stallClear g t.2.stall) then
    s.modGroup k (fun x => { x with threads := x.threads.map (fun t =>
      if s.stallClear g t.2.stall then (t.1, { t.2 with stall := .none }) else t) })
  else s

/-- An active group of which every thread that has not exited is held by a fallow cause passes to the fallow set; what it had pending is
delivered there (R297, R305). DEDUCED (log 98): a thread that only an interlock, a busy unit, a return-address transfer or a missing code line
stops keeps its group active, whatever holds the others, as R253 says of the transfer. -/
def State.settleActive (s : State) (k : Nat) (g : Group) : State :=
  if g.set = .active ∧ g.liveLanes ≠ 0 ∧ g.threads.all (fun t => !t.2.live || s.held g t.2) then
    let s := (s.unlist k).modGroup k (fun x => { x with
      set := .fallow, fallowSince := s.now, threads := x.threads.map (fun t => (t.1, { t.2 with held := s.held g t.2 })) })
    (s.tallyCore (coreKey g.die g.core) .fallowEntries 1).deliverPending k
  else s

/-- ACTIVE_ENTRY: at most two groups at the head of the ready FIFO take active slots that were free at the start of the clock (R297). -/
def execActiveEntry (quarter : Nat) (s : State) : Out :=
  let q := s.quarterAt quarter
  let n := min 2 q.room
  let now := q.ready.take n
  let s := s.setQuarter quarter { q with active := q.active ++ now, ready := q.ready.drop n, room := q.room - now.length }
  .next (now.foldl (fun s k => s.modGroup k (fun g => { g with set := .active, issues := 0 })) s)

/-- TIME_SLICE_EXPIRY: after 1,024 issues the group goes to the tail of a ready FIFO that is not empty (R297). -/
def execTimeSliceExpiry (g : Nat) (s : State) : Out :=
  let x := s.groupAt g
  let qk := coreKey x.die x.core * 4 + x.quarter
  if x.set = .active ∧ x.issues ≥ 1024 ∧ (s.quarterAt qk).ready ≠ [] then .next (s.toReady g) else .next s

/-- Whether the cause that held some thread of a fallow group has cleared (R297). -/
def State.causeCleared (s : State) (g : Group) : Bool := g.threads.any (fun t => t.2.live && t.2.held && !s.held g t.2)

/-- Whether the threads of a group wait only for its spilled registers to be read back: all of them to enter a regroup pool (R258), or some
to depart (R270, R272). -/
def State.refillFirst (s : State) (k : Nat) (g : Group) : Bool :=
  (g.regroupAt.isSome && decide (g.cf = [])) || decide (s.departing k g ≠ 0)

/-- Whether a fallow group can leave the fallow set, or must ask for its spilled registers first (R131, R297). -/
def State.fallowDue (s : State) (k : Nat) (g : Group) : Bool :=
  decide (g.set = .fallow) && !g.pooled && !g.saved && s.ctxRuns g.die g.ctx &&
  (if g.regs.spilled = 0 then s.causeCleared g
   else (s.causeCleared g || s.refillFirst k g) &&
    !(s.coreAt (coreKey g.die g.core)).regReqs.any (fun r => decide (r.g = k) && r.refill))

/-- FALLOW_RETURN: to the tail of the ready FIFO, or a refill request for every spilled register. -/
def execFallowReturn (g : Nat) (s : State) : Out :=
  let x := s.groupAt g
  if !s.fallowDue g x then .next s
  else if x.regs.spilled = 0 then .next (s.resumeGroup g)
  else
    let r : RegReq := { g := g, refill := true, n := 0 }
    .next (s.modCore (coreKey x.die x.core) (fun c => { c with regReqs := c.regReqs ++ [r] }))

/-! ### Register requests (R130, R131) -/

/-- The closed pool that waits for registers under its first arrival (R260). -/
def State.waitingPool (s : State) (k : Nat) : Option (Nat × Pool) :=
  s.pools.find? (fun p => p.2.closed && !p.2.formed && decide (p.2.arrivals.head? = some k))

/-- Whether a request still stands. One that a halted group has made stands, and keeps its place (R132). -/
def State.requestStands (s : State) (r : RegReq) : Bool :=
  let g := s.groupAt r.g
  decide (g.set ≠ .ended) && !g.saved &&
  (if r.refill then decide (g.regs.spilled ≠ 0)
   else (s.waitingPool r.g).isSome || g.threads.any (fun t => t.2.live && decide (t.2.pc = r.pc) && (match t.2.stall with
    | .register _ => true
    | _ => false)))

/-- Whether a request waits for a halted group to resume (R305), or for a restore: nothing of a context that is halting for a pre-emption
begins (R309). -/
def State.requestRests (s : State) (r : RegReq) : Bool :=
  s.ctxHeld (s.groupAt r.g).die (s.groupAt r.g).ctx || match (if r.refill then none else s.waitingPool r.g) with
  | some (_, p) => p.arrivals.any (fun k => decide ((s.groupAt k).set = .halted))
  | none => decide ((s.groupAt r.g).set = .halted)

/-- The pool registers a request needs. -/
def State.requestNeed (s : State) (r : RegReq) : Nat :=
  let g := s.groupAt r.g
  if r.refill then g.fromPool (popcount 96 g.regs.spilled.toNat)
  else
    match s.waitingPool r.g with
    | some (_, p) => poolExtra (p.groups s) (p.moves s)
    | none => r.n - Map.get g.grants 0 r.pc

/-- Registers of a group that a spill may take: mapped and not owed. -/
def Group.spillable (g : Group) : List Nat := (upto 0 96).filter (fun n => g.regs.vmap.getLsbD n && decide (g.owedLanes n = 0))

/-- The victim of a spill: the group fallow longest that holds registers above its floor which are not owed, in no pool;
the first listed at a tie, DESIGN CHOICE (log 94). -/
def State.spillVictim (s : State) (die core asker : Nat) : Option Nat :=
  (minBy (fun (e : Nat × Group) => e.2.fallowSince) (s.groups.filter (fun e =>
    decide (e.1 ≠ asker ∧ e.2.die = die ∧ e.2.core = core ∧ e.2.set = .fallow ∧ e.2.held > e.2.floor) && !e.2.pooled &&
    !e.2.saved &&
    decide (e.2.spillable ≠ [])))).map (·.1)

/-- The 128 bytes of a main-file register. -/
def Regs.rowBytes (r : Regs) (n : Nat) : List Byte := (upto 0 32).flatMap (fun l => bytesOf 4 (r.main n l).toNat)

/-- Spills the highest register that the victim may lose; one whose residues do not match is a machine check, and stays (R136). -/
def State.spillOne (s : State) (k : Nat) : State :=
  let g := s.groupAt k
  let n := g.spillable.getLastD 0
  if g.regs.poisoned n 0xFFFFFFFF || g.regs.isUpset n 0xFFFFFFFF then
    s.raiseAsync k { cls := .datapath, aux := n } {}
  else
    let s := (s.spillWrite g (s.registerArea g + 128 * n) (g.regs.rowBytes n)).tallyCore (coreKey g.die g.core) .spills 1
    s.modGroup k (fun x => { x with regs := { x.regs with
      v := keepKeys x.regs.v n, vmap := x.regs.vmap &&& ~~~ (1#96 <<< n), spilled := x.regs.spilled ||| (1#96 <<< n) } })

/-- Spills until n registers are free or nothing is left to spill; a spill waits while its home cannot give a count (R190). -/
def State.spillUntil (die core asker n : Nat) : Nat → State → State
  | 0, s => s
  | fuel + 1, s =>
    if n ≤ s.poolFree die core ∨ !s.spillRoom die 1 then s
    else
      match s.spillVictim die core asker with
      | some k => spillUntil die core asker n fuel (s.spillOne k)
      | none => s

/-- Grants a request whose registers are free. The group then leaves the fallow set with the others of this clock (R297). -/
def State.grantRegs (s : State) (r : RegReq) : State :=
  let back := fun (s : State) => s.at_ s.now (100 + (s.groupAt r.g).gidx) (.fallowReturn r.g)
  if r.refill then back (s.refillRegs r.g)
  else
    match s.waitingPool r.g with
    | some (pid, p) => s.formPool pid p
    | none =>
      let free := fun (t : Thread) => match t.stall with
        | .register _ => if t.pc = r.pc then { t with stall := .none } else t
        | _ => t
      back (s.modGroup r.g (fun g => { g with
        grants := Map.put g.grants r.pc (max (Map.get g.grants 0 r.pc) r.n), threads := g.threads.map (fun t => (t.1, free t.2)) }))

/-- The request of a core that is served: the oldest, past those of halted groups. -/
def State.firstRequest (s : State) (core : Nat) : Option RegReq := (s.coreAt core).regReqs.find? (fun r => !(s.requestStands r && s.requestRests r))

/-- Serves the oldest request of a core: spills for it, and grants it when it is met. -/
def State.serveRegs (s : State) (core : Nat) : State :=
  match s.firstRequest core with
  | none => s
  | some r =>
    let drop := fun (s : State) => s.modCore core (fun c => { c with regReqs := c.regReqs.erase r })
    if !s.requestStands r then drop s
    else
      let n := s.requestNeed r
      let s := State.spillUntil (core / 24) (core % 24) r.g n (n + 1) s
      if n ≤ s.poolFree (core / 24) (core % 24) then (drop s).grantRegs r else s

/-- Whether the oldest request of a core can be served now, at least in part. -/
def State.regsDue (s : State) (core : Nat) : Bool :=
  match s.firstRequest core with
  | none => false
  | some r => !s.requestStands r || decide (s.requestNeed r ≤ s.poolFree (core / 24) (core % 24)) ||
    (s.spillRoom (core / 24) 1 && (s.spillVictim (core / 24) (core % 24) r.g).isSome)

/-- REGISTER_GRANT: the core serves a request to allocate. -/
def execRegisterGrant (core : Nat) (s : State) : Out := .next (s.serveRegs core)
/-- REGISTER_REFILL: the core serves a request to refill. -/
def execRegisterRefill (core : Nat) (s : State) : Out := .next (s.serveRegs core)

/-! ### Code lines (R287, R290) -/

/-- The threads of a group that need a line. -/
def State.linesWanted (s : State) (g : Group) (addr : Nat) : Lanes :=
  let c := s.coreAt (coreKey g.die g.core)
  maskOf (fun l => let t := g.thread l
    t.live && decide (t.park = .none) && (match c.missingCode g.ctx t with
      | some va => decide (va / 128 = addr / 128)
      | none => false))

/-- CODE_LINE_FILL: the line arrives in the instruction store; where its page gives no code, every group that needs it takes the
asynchronous fault. -/
def execCodeLineFill (core ctx addr : Nat) (s : State) : Out :=
  let die := core / 24
  let line := addr / 128 * 128
  match s.translate core die ctx line .code with
  | (.ok pa, s) =>
    .next (s.modCore core (fun c => c.addLine { ctx := ctx, addr := line, data := readBytes s.hbm (hbmKey die pa) 128 }))
  | (r, s) =>
    let cls := if r = .missing then FaultClass.codeTranslation else .codeProtection
    let gs := s.groups.filter (fun e => decide (e.2.die = die ∧ e.2.core = core % 24 ∧ e.2.ctx = ctx ∧ e.2.set ≠ .ended ∧ e.2.set ≠ .halted) &&
      decide (e.2.pend = []) && decide (s.linesWanted e.2 line ≠ 0))
    .next (gs.foldl (fun s e =>
      let m := s.linesWanted e.2 line
      let t := e.2.thread (lowLane m)
      let va := ((s.coreAt core).missingCode ctx t).getD line
      let path := maskOf (fun l => m.getLsbD l && decide ((e.2.thread l).clause = t.clause))
      s.raiseAsync e.1 { cls := cls, addr := va, lanes := path } { pc := t.clause, clause := t.clause, lanes := path }) s)

/-! ### Launch packets (R286, R287) -/

/-- The reserved fields of a launch packet, as low bit and width. -/
def packetReserved : List (Nat × Nat) :=
  [(1008, 16), (913, 47), (864, 32), (672, 96), (660, 4), (620, 4), (580, 4), (545, 7), (459, 53), (370, 14), (309, 11), (184, 8), (112, 16)]

def Grid.extX (x : Grid) : Nat := x.field 256 16 + 1
def Grid.extY (x : Grid) : Nat := x.field 272 16 + 1
def Grid.extZ (x : Grid) : Nat := x.field 288 16 + 1
def Grid.plotW (x : Grid) : Nat := x.field 304 3 + 1
def Grid.plotH (x : Grid) : Nat := x.field 307 2 + 1
def Grid.tilesPer (x : Grid) : Nat := x.field 330 7
def Grid.memPer (x : Grid) : Nat := 128 * x.field 337 15
def Grid.ringsPer (x : Grid) : Nat := x.field 352 4
def Grid.fmtab (x : Grid) : Nat := x.field 960 48
def Grid.segmap (x : Grid) : Nat := x.field 768 48
def Grid.arrspill (x : Grid) : Nat := x.field 832 32
def Grid.chandle (x : Grid) : Nat := x.field 896 16
def Grid.posts (x : Grid) : Bool := decide (x.field 912 1 = 1)
def Grid.teamCount (x : Grid) : Nat := x.extX * x.extY * x.extZ
def Grid.plotCount (x : Grid) : Nat := x.teamCount / (x.plotW * x.plotH)
def Grid.started (x : Grid) : Bool := decide (x.stage = .waiting ∨ x.stage = .running)

/-- The present roles: role, group count, floor, ceiling. Without any the launch is unified. -/
def Grid.roles (x : Grid) : List (Role × Nat × Nat × Nat) :=
  ([(Role.copy, 384), (Role.matrix, 409), (Role.vector, 434)].map (fun e => (e.1, x.field e.2 11, x.field (e.2 + 11) 7, x.field (e.2 + 18) 7))).filter
    (fun r => decide (r.2.1 ≠ 0))

/-- Role, floor and ceiling of each group of a team, by group number (R288). -/
def Grid.groupRoles (x : Grid) : List (Role × Nat × Nat) :=
  match x.roles with
  | [] => List.replicate x.teamGroups (.unified, x.field 356 7, x.field 363 7)
  | l => l.flatMap (fun r => List.replicate r.2.1 (r.1, r.2.2.1, r.2.2.2))
def Grid.floorSum (x : Grid) : Nat := x.groupRoles.foldl (fun n r => n + r.2.1) 0
/-- Whether some ceiling exceeds its floor, so that the hardware register area is present (R131). -/
def Grid.spills (x : Grid) : Bool :=
  match x.roles with
  | [] => decide (x.field 363 7 > x.field 356 7)
  | l => l.any (fun r => decide (r.2.2.2 > r.2.2.1))

/-- The translation entry of the completion handle, where it may carry the record (R287, R300). DESIGN CHOICE (log 122): an entry that the first
three checks of R206 turn away, a remote module with spray 0 among them, is not valid. -/
def State.completionEntry (s : State) (die ctx h : Nat) : Option (BitVec 64) :=
  let c := s.ctxAt (ctxKey die ctx)
  let e := Map.get c.trans 0 h
  if h < c.tableSize ∧ e.getLsbD 32 ∧ !entMulti e ∧ entQid e / 2 ^ 30 = 0 ∧ (qidModule (entQid e) = s.module ∨ entSpray e ≠ 0) ∧
    (e.getLsbD 40 ∨ e.getLsbD 42) ∧ entEsz e = 2 then some e else none

/-- Whether every page of a range may be used so. -/
def State.rangeOk (s : State) (die ctx va n : Nat) (need : Need) : Bool :=
  let ok := fun a => match s.walkCtx die ctx a with
    | .inl (some (p, _)) => pteAllows need p
    | _ => false
  ok va && (upto 1 ((va % 65536 + n - 1) / 65536)).all (fun i => ok (va / 65536 * 65536 + 65536 * i))

/-- The 64 entries of a segment map, those with V = 1, by segment number (R266). -/
def readSegments (l : List Byte) : Map Segment :=
  (upto 0 64).filterMap (fun n =>
    let e : BitVec 128 := BitVec.ofNat 128 (ofBytes ((l.drop (16 * n)).take 16))
    if e.getLsbD 15 then
      some (n, { valid := true, base := (e.extractLsb' 80 48).toNat, len := (e.extractLsb' 64 16).toNat
                 rep := e.extractLsb' 40 24, first := e.extractLsb' 40 24, stby := e.extractLsb' 16 24 })
    else none)

/-- Every core that a launch's segment map names. -/
def Grid.launchCores (x : Grid) : BitVec 24 := x.segs.foldl (fun m e => m ||| e.2.rep ||| e.2.stby) 0

/-- R267, for the map as read. -/
def mapBad (s : State) (x : Grid) (raw : List Byte) : Bool :=
  let segs := x.segs
  raw.length ≠ 1024 ||
  (upto 0 64).any (fun n => decide (ofBytes ((raw.drop (16 * n)).take 2) % 2 ^ 15 ≠ 0)) ||
  segs.any (fun e => decide (e.2.rep = 0 ∨ popcount 24 e.2.rep.toNat > 8 ∨ e.2.len = 0 ∨ e.2.len > 32768 ∨ e.2.base % 8 ≠ 0)) ||
  segs.any (fun e => segs.any (fun f => decide (e.1 ≠ f.1) &&
    (decide (e.2.base < f.2.base + 8 * f.2.len ∧ f.2.base < e.2.base + 8 * e.2.len) || decide (e.2.rep &&& f.2.rep ≠ 0)))) ||
  segs.any (fun e => segs.any (fun f => decide (e.2.rep &&& f.2.stby ≠ 0))) ||
  segs.any (fun e => !s.rangeOk x.die x.ctx e.2.base (8 * e.2.len) .code) ||
  (x.segOf ((x.image + x.entry) % 2 ^ 48)).isNone

/-- Reasons 1 and 2 of R287 but for the completion handle. -/
def Grid.reservedBad (x : Grid) : Bool :=
  packetReserved.any (fun f => decide (x.field f.1 f.2 ≠ 0)) || decide (x.field 30 2 > 1) || decide (x.policy = 3) ||
  (if x.travel then decide (x.fmtab ≠ 0) else decide (x.arrspill ≠ 0 ∨ x.field 816 16 ≠ 0 ∨ x.segmap ≠ 0 ∨ x.field 160 24 ≠ 0))

def Grid.limitsBad (x : Grid) : Bool :=
  decide (x.field 352 4 > 8 ∨ x.field 337 15 > 16384 ∨ x.tilesPer > 64 ∨ x.slots > 4096 ∨ x.spillBase % 4096 ≠ 0 ∨ x.entry % 8 ≠ 0 ∨
    x.image % 4096 ≠ 0 ∨ x.stride = 0 ∨ x.fmtab % 32 ≠ 0) ||
  decide (x.teamCount > 65536 ∨ x.plotW > 6 ∨ x.plotW * x.plotH > 12) ||
  (match x.roles with
    | [] => !decide (1 ≤ x.field 356 7 ∧ x.field 356 7 ≤ x.field 363 7 ∧ x.field 363 7 ≤ 96)
    | l => x.travel || decide (x.field 356 7 ≠ 0 ∨ x.field 363 7 ≠ 0) || decide (l.foldl (fun n r => n + r.2.1) 0 ≠ x.teamGroups) ||
      l.any (fun r => !decide (1 ≤ r.2.2.1 ∧ r.2.2.1 ≤ r.2.2.2 ∧ r.2.2.2 ≤ 96))) ||
  (if x.travel then decide (x.arrspill < 512 ∨ x.segmap % 16 ≠ 0)
   else decide (x.extX % x.plotW ≠ 0 ∨ x.extY % x.plotH ≠ 0))

/-- The virtual base of a core's arrival spill region (R274). -/
def Grid.arrivalBase (x : Grid) (core : Nat) : Nat :=
  x.spillBase + 4096 * x.stride * 24576 + roundUp4K (8 * x.depth * x.threadCount) + core * roundUp4K x.arrspill

/-- The reason for which the launch unit refuses a packet, 0 where it passes (R287); reason 6 is tested before. -/
def State.launchReason (s : State) (x : Grid) (raw : List Byte) : Nat :=
  let ok := fun va n need => s.rangeOk x.die x.ctx va n need
  if x.reservedBad then 1
  else if x.limitsBad || (x.posts && (s.completionEntry x.die x.ctx x.chandle).isNone) then 2
  else if !x.travel && (decide (x.floorSum > Config.physRegs) || decide (x.memPer > Config.teamBytes)) then 3
  else if x.stride * 4096 < 128 * x.slots + 256 * x.depth + (if x.spills then 12288 else 0) then 4
  else if !ok ((x.image + x.entry) % 2 ^ 48) 1 .code || !ok x.spillBase 1 .system ||
      (decide (x.fmtab ≠ 0) && !ok x.fmtab 32 .read) ||
      (x.travel && (upto 0 24).any (fun c => x.launchCores.getLsbD c && !ok (x.arrivalBase c) x.arrspill .system)) then 5
  else if x.travel && mapBad s x raw then 7
  else 0

/-- Posts a grid's completion record (R300); one that its entry no longer lets through is counted. -/
def State.postCompletion (s : State) (x : Grid) (status flags : Nat) (w : Wit) : State :=
  match s.completionEntry x.die x.ctx x.chandle with
  | none => s.countRefusal x.die
  | some e =>
    let g : Group := { die := x.die, core := 0, ctx := x.ctx }
    s.submitPost 0 g x.chandle e {} (entQid e) none (bytesOf 64 (w.toNat * 2 ^ 128 + flags % 64 * 2 ^ 64 + status * 2 ^ 32 + x.tag))

/-- Refuses a packet (R287). -/
def State.refuseLaunch (s : State) (x : Grid) (reason : Nat) : State :=
  let (gid, s) := s.newId
  let s : State := { s with grids := Map.put s.grids gid x }
  let s := s.postRecord { cls := .launchRefused, sub := reason } {} 0 0 0x3FF 0 0 x.die x.ctx gid
  let s : State := { s with grids := Map.erase s.grids gid }
  if reason = 6 ∨ (reason = 2 ∧ !x.limitsBad) then s.countRefusal x.die
  else if x.posts then s.postCompletion x 2 0 0
  else s

/-- The non-empty launch queue of highest priority of a die (R285). -/
def State.nextLaunch (s : State) (die : Nat) : Option Nat :=
  ((upto 0 16).reverse.find? (fun i => decide (((s.queueAt (queueKey die 0 i)).claim 0 1).2.1 ≠ []))).map (fun i => queueKey die 0 i)

/-- A die's grid slots in use. -/
def State.slotGrids (s : State) (die : Nat) : Map Grid := s.grids.filter (fun e => decide (e.2.die = die ∧ e.2.stage ≠ .freed))

/-- The context of a process domain on a die (R284). -/
def State.domainCtx (s : State) (die domain : Nat) : Option Nat :=
  (s.contexts.find? (fun e => decide (e.1 / 65536 = die ∧ e.2.domain = domain))).map (fun e => e.1 % 65536)

def State.launchDue (s : State) (die : Nat) : Bool :=
  decide ((s.die die).mode = .running) && decide ((s.slotGrids die).length < 16) && (s.nextLaunch die).isSome

/-- LAUNCH_START: the launch unit takes the head packet of the highest-priority queue, checks it, and starts its grid (R285). -/
def execLaunchStart (die : Nat) (s : State) : Out :=
  if !s.launchDue die then .next s
  else
    match s.nextLaunch die with
    | none => .next s
    | some qk =>
      match s.takeHead qk with
      | (none, s) => .next s
      | (some (_, data, m), s) =>
        let slot := ((upto 0 16).find? (fun i => !(s.slotGrids die).any (fun e => decide (e.2.slot = i)))).getD 0
        let (order, s) := s.newId
        let x : Grid := { die := die, slot := slot, prio := qk % 4096, order := order, packet := BitVec.ofNat 2048 (ofBytes data) }
        match s.domainCtx die m.domain with
        | none => .next (s.refuseLaunch { x with ctx := 0xFFFF } 6)
        | some ctx =>
          let x := { x with ctx := ctx }
          let raw := if x.travel then (s.readVirtual die ctx x.segmap 1024 .any).getD [] else []
          let x := if x.travel then { x with segs := readSegments raw, stage := .waiting } else x
          let reason := s.launchReason x raw
          if reason ≠ 0 then .next (s.refuseLaunch x reason)
          else
            let fds := if x.fmtab = 0 then [] else (s.readVirtual die ctx x.fmtab 32 .read).getD []
            let x := { x with fds := (upto 0 8).foldl (fun m i => Map.set m 0 i (BitVec.ofNat 32 (ofBytes ((fds.drop (4 * i)).take 4)))) [] }
            let (gid, s) := s.newId
            .next { s with grids := Map.put s.grids gid x }

/-! ### Placement (R288 to R290, R294) -/

/-- Whether a team's tiles, region and records are kept: until every team of its plot has ended (R180). -/
def State.teamKept (s : State) (t : Team) : Bool := (s.plotAt t.plot).teams.any (fun i => !(s.teamAt i).ended)
/-- Whether a team still holds its tiles, region and records on its core: unless it is saved. -/
def State.teamHeld (s : State) (t : Team) : Bool := !t.saved && s.teamKept t
def State.coreTeams (s : State) (die core : Nat) : Map Team := s.teams.filter (fun e => decide (e.2.die = die ∧ e.2.core = core) && s.teamHeld e.2)

/-- The cores that a die's travel launches hold (R291). -/
def State.travelCores (s : State) (die : Nat) : BitVec 24 :=
  s.grids.foldl (fun m e => if e.2.die = die ∧ e.2.travel ∧ e.2.started then m ||| e.2.launchCores else m) 0

/-- Those of them that launches of other contexts hold. -/
def State.foreignTravel (s : State) (die ctx : Nat) : BitVec 24 :=
  s.grids.foldl (fun m e => if e.2.die = die ∧ e.2.ctx ≠ ctx ∧ e.2.travel ∧ e.2.started then m ||| e.2.launchCores else m) 0

/-- Whether an access to the team memory of a core is still on its way to a region: a team that is over, or whose context has been torn down,
may have left one (R314). -/
def State.regionBusy (s : State) (die core base size : Nat) : Bool :=
  let lo := teamKey (coreKey die core) base
  let hits := fun (a : LaneAcc) => decide (a.addr < lo + size ∧ lo < a.addr + 16)
  s.mesh.any (fun e => match e.2 with
    | .window d _ c _ _ l _ _ => decide (d = die ∧ c = core) && l.any hits
    | _ => false) ||
  s.memOps.any (fun e => decide (e.2.space = .team ∧ e.2.die = die) && e.2.lanes.any (fun a => decide (a.st ≠ .done) && hits a))

/-- The lowest offset at which n bytes of team memory are free, with the regions in use in increasing order. -/
def lowestGap (n : Nat) : Nat → List (Nat × Nat) → Nat
  | at_, [] => at_
  | at_, (lo, sz) :: l => if lo ≥ at_ + n then at_ else lowestGap n (max at_ (lo + sz)) l

/-- How many groups of a team quarter q takes, from the first quarter q0. -/
def quarterShare (n q0 q : Nat) : Nat := (n + 3 - (q + 4 - q0) % 4) / 4

/-- Whether a core can take one more team of a launch (R289): the first quarter and the team-memory base. A region that an access of its last
owner has still to reach is not given on (R314). -/
def State.teamFit (s : State) (x : Grid) (core : Nat) (lead : Bool) : Option (Nat × Nat) :=
  let ts := s.coreTeams x.die core
  let q0 := s.leastQuarter x.die core
  let base := lowestGap x.memPer 0 (sortBy (·.1) (ts.map (fun e => (e.2.base, e.2.size))))
  let sum := fun (f : Team → Nat) => ts.foldl (fun n e => n + f e.2) 0
  if (upto 0 4).any (fun q => decide (s.quarterCount x.die core q + quarterShare x.teamGroups q0 q > Config.quarterGroups)) ||
      decide (x.floorSum > s.poolFree x.die core) || decide (sum (·.tiles) + x.tilesPer > Config.coreTiles) ||
      decide (base + x.memPer > Config.teamBytes) || decide (sum (·.nrings) + x.ringsPer > 1024) || decide (ts.length ≥ 256) ||
      (lead && decide ((ts.filter (fun e => decide (e.2.member = 0))).length ≥ 64)) || s.regionBusy x.die core base x.memPer then none
  else some (q0, base)

/-- The core of member m of a plot at a position. -/
def plotCore (x : Grid) (pos m : Nat) : Nat := pos + m / x.plotW * 6 + m % x.plotW

/-- The lowest top-left core on which a plot of a launch fits. -/
def State.position (s : State) (x : Grid) : Option Nat :=
  let held := s.travelCores x.die
  (upto 0 24).find? (fun pos => decide (pos / 6 + x.plotH ≤ 4 ∧ pos % 6 + x.plotW ≤ 6) &&
    (upto 0 (x.plotW * x.plotH)).all (fun m =>
      !held.getLsbD (plotCore x pos m) && (s.teamFit x (plotCore x pos m) (decide (m = 0))).isSome))

/-- Coordinates of member m of a plot, and a team's linear index (R288). -/
def Grid.teamAt (x : Grid) (plot m : Nat) : Nat × Nat × Nat :=
  let px := x.extX / x.plotW
  let py := x.extY / x.plotH
  (plot % px * x.plotW + m % x.plotW, plot / px % py * x.plotH + m / x.plotW, plot / (px * py))
def Grid.linear (x : Grid) (c : Nat × Nat × Nat) : Nat := c.1 + x.extX * (c.2.1 + x.extY * c.2.2)

/-- One dimension of a dependence box (R294): 32-bit signed arithmetic, clamped to the producer's extent. -/
def boxBounds (dep c extent : Nat) : Nat × Nat :=
  let a : BitVec 32 := (BitVec.ofNat 8 (dep / 2 ^ 16)).signExtend 32
  let b : BitVec 32 := (BitVec.ofNat 16 dep).signExtend 32
  let lo := (a * BitVec.ofNat 32 c + b).sshiftRight (dep / 2 ^ 24 % 16)
  let hi := lo + BitVec.ofNat 32 (dep / 2 ^ 32 % 256)
  let clamp := fun (x : BitVec 32) => (max 0 (min x.toInt (extent - 1))).toNat
  (clamp lo, clamp hi)

/-- The grid on which a grid depends: the one most recently started of those that are resident with the tag. -/
def State.producer (s : State) (gid : Nat) (x : Grid) : Option Grid :=
  (maxBy (fun (e : Nat × Grid) => e.2.order) (s.grids.filter (fun e =>
    decide (e.1 ≠ gid ∧ e.2.die = x.die ∧ e.2.ctx = x.ctx ∧ e.2.stage ≠ .freed ∧ e.2.tag = x.field 512 32)))).map (·.2)

def Grid.bitSet (p : Grid) (i : Nat) : Bool := if p.travel then decide (p.stage = .ended) else p.done.contains i

/-- Whether the dependence box of one team is complete. -/
def boxDone (x p : Grid) (c : Nat × Nat × Nat) : Bool :=
  let d := fun lo k e => boxBounds (x.field lo 40) k e
  let bx := d 552 c.1 p.extX
  let by_ := d 592 c.2.1 p.extY
  let bz := d 632 c.2.2 p.extZ
  (upto bz.1 (bz.2 + 1 - bz.1)).all (fun z => (upto by_.1 (by_.2 + 1 - by_.1)).all (fun y =>
    (upto bx.1 (bx.2 + 1 - bx.1)).all (fun w => p.bitSet (p.linear (w, y, z)))))

/-- Whether the boxes of all teams of a grid's next plot are complete. -/
def State.boxesDone (s : State) (gid : Nat) (x : Grid) : Bool :=
  if x.field 544 1 = 0 then true
  else
    match s.producer gid x with
    | none => true
    | some p => (upto 0 (x.plotW * x.plotH)).all (fun m => boxDone x p (x.teamAt x.nextPlot m))

/-- Whether a team grid's next plot may be dispatched as far as its context and its dependence go. -/
def State.plotOpen (s : State) (gid : Nat) (x : Grid) : Bool :=
  decide (x.stage = .running) && !x.travel && decide (x.nextPlot < x.plotCount) && s.ctxRuns x.die x.ctx && s.boxesDone gid x

/-- The plot that the launch unit dispatches now: by priority, then start order (R290). -/
def State.nextPlot (s : State) (die : Nat) : Option (Nat × Grid × Nat) :=
  ((sortBy (fun (e : Nat × Grid) => (15 - e.2.prio) * 2 ^ 64 + e.2.order) (s.grids.filter (fun e => decide (e.2.die = die)))).filterMap (fun e =>
    if s.plotOpen e.1 e.2 then (s.position e.2).map (fun p => (e.1, e.2, p)) else none)).head?

/-- Removes [lo, hi) from the regions whose last owner is known. -/
def cutRegion (lo hi : Nat) (l : List (Nat × Nat × Nat)) : List (Nat × Nat × Nat) :=
  l.flatMap (fun (a, n, d) =>
    if a + n ≤ lo ∨ hi ≤ a then [(a, n, d)]
    else (if a < lo then [(a, lo - a, d)] else []) ++ (if hi < a + n then [(hi, a + n - hi, d)] else []))

/-- Gives a region of team memory to a domain: zeroed where another domain owned some of it last (R314). -/
def State.ownRegion (s : State) (ck base size domain : Nat) : State :=
  let l := (s.coreAt ck).owners
  let s : State := if l.any (fun (a, n, d) => decide (a < base + size ∧ base < a + n ∧ d ≠ domain)) then
      { s with team := s.team.filter (fun e => !decide (teamKey ck base ≤ e.1 ∧ e.1 < teamKey ck base + size)) }.clearBad .team (teamKey ck base) size
    else s
  s.modCore ck (fun c => { c with owners := if size = 0 then c.owners else (base, size, domain) :: cutRegion base (base + size) c.owners })

/-- The group g of a team at dispatch (R126, R295). -/
def Grid.newGroup (x : Grid) (gid team core slot g : Nat) (r : Role × Nat × Nat) : Group :=
  let entry := (x.image + x.entry) % 2 ^ 48
  { die := x.die, core := core, slot := slot, quarter := slot % 4, ctx := x.ctx, grid := gid, team := team, gidx := g, role := r.1
    floor := r.2.1, ceil := r.2.2, set := .ready, regs := { s := x.paramScalars }
    threads := (upto 0 32).map (fun l => (l, { tid := 32 * g + l, live := true, pc := entry, clause := entry })) }

/-- Places one group of a team in a quarter and at the tail of its ready FIFO. -/
def State.placeGroup (s : State) (x : Grid) (gid team core q0 g : Nat) (r : Role × Nat × Nat) : State :=
  let q := (q0 + g) % 4
  let slot := (s.freeSlot x.die core q).getD 0
  let (k, s) := s.newId
  let s : State := { s with groups := Map.put s.groups k (x.newGroup gid team core slot g r) }
  let qk := coreKey x.die core * 4 + q
  s.setQuarter qk { s.quarterAt qk with ready := (s.quarterAt qk).ready ++ [k] }

/-- Places one team of a plot: its region, tiles, rings and barriers start afresh. -/
def State.placeTeam (s : State) (x : Grid) (gid plot pid pos m : Nat) : State :=
  let core := plotCore x pos m
  let (q0, base) := (s.teamFit x core (decide (m = 0))).getD (0, 0)
  let (tid, s) := s.newId
  let t : Team := {
    die := x.die, core := core, ctx := x.ctx, grid := gid, plot := pid, member := m, index := x.linear (x.teamAt plot m), base := base
    size := x.memPer, tiles := x.tilesPer, nrings := x.ringsPer, groups := x.teamGroups, fds := x.fds }
  let s : State := { s with
    teams := Map.put s.teams tid t
    plots := Map.modify s.plots pid (fun p => { p with teams := p.teams ++ [tid] }) }
  let s := s.ownRegion (coreKey x.die core) base x.memPer (s.ctxAt (ctxKey x.die x.ctx)).domain
  ((upto 0 x.teamGroups).zip x.groupRoles).foldl (fun s e => s.placeGroup x gid tid core q0 e.1 e.2) s

/-- Frees the slots of ended grids that no undispatched plot still looks at (R294). -/
def State.freeGrids (s : State) (die : Nat) : State :=
  { s with grids := s.grids.map (fun e =>
      if e.2.die = die ∧ e.2.stage = .ended ∧ !s.grids.any (fun c => decide (c.2.die = die ∧ c.2.ctx = e.2.ctx) && c.2.started &&
          decide (c.2.field 544 1 = 1 ∧ c.2.field 512 32 = e.2.tag ∧ c.2.nextPlot < c.2.plotCount)) then
        (e.1, { e.2 with stage := .freed }) else e) }

/-- PLOT_DISPATCH: the launch unit places one plot and dispatches all its teams (R290). -/
def execPlotDispatch (die : Nat) (s : State) : Out :=
  match s.nextPlot die with
  | none => .next s
  | some (gid, x, pos) =>
    let (pid, s) := s.newId
    let s : State := { s with plots := Map.put s.plots pid {
      die := die, grid := gid, index := x.nextPlot, top := pos, w := x.plotW, h := x.plotH } }
    let s := (upto 0 (x.plotW * x.plotH)).foldl (fun s m => s.placeTeam x gid x.nextPlot pid pos m) s
    .next ((s.modGrid gid (fun g => { g with nextPlot := g.nextPlot + 1, blocked := 0 })).freeGrids die)

/-! ### Travel launches (R268, R274, R291) -/

/-- Whether an open queue's window lies over the arrival window of a core. -/
def State.windowTaken (s : State) (die core : Nat) : Bool :=
  let pk := portKey die (servingPort core)
  let lo := 0x680000 + 0x40000 * servedIndex core
  s.queues.any (fun e => decide (e.1 / 4096 = pk ∧ e.2.state = 1 ∧ e.1 ≠ arrivalKey die core ∧
    e.2.winbase < lo + 0x40000 ∧ lo < e.2.winbase + e.2.win * eszBytes e.2.esz))

/-- Whether a waiting travel launch may start: its cores are free, of earlier launches too. -/
def State.travelReady (s : State) (gid : Nat) (x : Grid) : Bool :=
  decide (x.stage = .waiting) && s.ctxRuns x.die x.ctx &&
  (upto 0 24).all (fun c => !x.launchCores.getLsbD c || (decide (s.coreTeams x.die c = []) && !s.windowTaken x.die c)) &&
  !s.grids.any (fun e => decide (e.1 ≠ gid ∧ e.2.die = x.die ∧ e.2.order < x.order) && e.2.travel && e.2.started &&
    decide (e.2.launchCores &&& x.launchCores ≠ 0))

/-- The core to whose arrival queue thread i goes. -/
def Grid.threadCore (x : Grid) (i : Nat) : Nat :=
  let seg := Map.get x.segs {} ((x.segOf ((x.image + x.entry) % 2 ^ 48)).getD 0)
  let l := (upto 0 24).filter (fun c => seg.first.getLsbD c)
  l.getD (i % l.length) 0

/-- Whether the record of the next thread has room. -/
def State.threadRoom (s : State) (x : Grid) : Bool :=
  decide (x.nextThread < x.threadCount) && (s.queueAt (arrivalKey x.die (x.threadCore x.nextThread))).fits 1

/-- Delivers the record of a launch's next thread. -/
def State.createThread (s : State) (gid : Nat) : State :=
  let x := s.gridAt gid
  let i := x.nextThread
  let qk := arrivalKey x.die (x.threadCore i)
  let qid := qidOf s.module x.die (qk / 4096 % 4) (qk % 4096)
  let data := ({ pc := (x.image + x.entry) % 2 ^ 48, tid := i } : TRecord).bytes
  let key := 2 ^ 63 + i
  let m : QMsg := { kind := .post, esz := 5, domain := (s.ctxAt (ctxKey x.die x.ctx)).domain, qid := qid, key := key, smod := s.module
                    sdie := x.die, sport := 4, ctx := x.ctx, data := data, crc := checkCode qid key data, hw := true }
  let t := (s.queueAt qk).t
  (((s.place qk t m).modQueue qk (fun q => { q with t := t + 1 })).settleQueue qk s.now).modGrid gid (fun x => { x with nextThread := i + 1 })

/-- Delivers records while there is room, at most n. -/
def State.createThreads (gid : Nat) : Nat → State → State
  | 0, s => s
  | n + 1, s => if s.threadRoom (s.gridAt gid) then createThreads gid n (s.createThread gid) else s

/-- Starts a travel launch: its replicas load their segments and open their arrival queues (R268, R274). -/
def State.startTravel (s : State) (gid : Nat) (x : Grid) : State :=
  let s := x.segs.foldl (fun s e => ((upto 0 24).filter (fun c => e.2.rep.getLsbD c)).foldl (fun s c =>
    ((s.loadSegment x c e.2).openArrival x c).modCore (coreKey x.die c) (fun y => { y with packer := {} })) s) s
  s.modGrid gid (fun g => { g with stage := .running, threadsLeft := x.threadCount })

/-- TRAVEL_LAUNCH_START: the launch takes its cores, and its threads' records are delivered as the queues have room. -/
def execTravelLaunchStart (grid : Nat) (s : State) : Out :=
  let x := s.gridAt grid
  if s.travelReady grid x then .next (State.createThreads grid 4096 (s.startTravel grid x))
  else if x.stage = .running ∧ x.travel ∧ s.ctxRuns x.die x.ctx then .next (State.createThreads grid 4096 s)
  else .next s

/-! ### Ends (R264, R293, R300) -/

/-- Whether a group has ended but for the last step of R264. -/
def State.groupDone (s : State) (g : Group) : Bool :=
  decide (g.set ≠ .ended ∧ g.set ≠ .halted ∧ g.liveLanes = 0 ∧ g.cf = []) && !g.saved && !g.pooled && s.ctxRuns g.die g.ctx

/-- GROUP_END: registers, reserve and slot are free; what the group still holds pending is delivered for a group that has ended (R305), and
pools that waited for it may close. -/
def execGroupEnd (g : Nat) (s : State) : Out := if s.groupDone (s.groupAt g) then .next ((s.endGroup g).deliverPending g).testPools else .next s

/-- The core of member 0 of a team's plot. -/
def State.leadCore (s : State) (t : Team) : Nat := (s.teamAt ((s.plotAt t.plot).teams.headD 0)).core

/-- The writes that a test of their records names. -/
def State.writesOf (s : State) (p : WRec → Bool) : List Nat := (s.wrecs.filter (fun e => p e.2)).map (·.1)

/-- Whether every group of a team has ended. -/
def State.teamOver (s : State) (team : Nat) : Bool := s.groups.all (fun e => decide (e.2.team ≠ team ∨ e.2.set = .ended))

/-- Whether a core's settled tickets reach n in the home tables of its die. -/
def State.settledTo (s : State) (die core n : Nat) : Bool := !serialPending n ((s.die die).tableOf (settledEntry core))

/-- Whether a team's completion can move on. -/
def State.teamDue (s : State) (team : Nat) (t : Team) : Bool :=
  !t.saved && decide (team ≠ 0) && (if !t.ended then s.teamOver team
    else match t.ticket with
      | none => !(s.gridAt t.grid).done.contains t.index && decide (s.freeTickets (coreKey t.die (s.leadCore t)) > 0)
      | some n => !(s.gridAt t.grid).done.contains t.index && s.settledTo t.die (s.leadCore t) n)

/-- TEAM_COMPLETION: the team ends, its drain ticket is taken, and its bit is set once that ticket is settled (R293). -/
def execTeamCompletion (team : Nat) (s : State) : Out :=
  let t := s.teamAt team
  if !s.teamDue team t then .next s
  else if !t.ended then .next (s.modTeam team (fun t => { t with ended := true }))
  else
    match t.ticket with
    | none =>
      let (n, s) := s.takeTicket (coreKey t.die (s.leadCore t)) { drain := s.writesOf (fun w => decide (w.team = team)), ctx := t.ctx }
      .next (s.modTeam team (fun t => { t with ticket := some n }))
    | some _ => .next (s.modGrid t.grid (fun g => { g with done := t.index :: g.done }))

/-- The cores of a travel launch, in increasing order. -/
def Grid.coreList (x : Grid) : List Nat := (upto 0 24).filter (fun c => x.launchCores.getLsbD c)

/-- Whether every thread of a travel launch has exited and nothing of it is left anywhere (R281). Its writes have landed too, since R334 reads
them at the launch's end; DEDUCED (log 118). -/
def State.travelOver (s : State) (gid : Nat) (x : Grid) : Bool :=
  decide (x.threadsLeft = 0 ∧ x.nextThread = x.threadCount) && s.groups.all (fun e => decide (e.2.grid ≠ gid ∨ e.2.set = .ended)) &&
  x.coreList.all (fun c => decide (s.depthOf x.die c = 0)) && s.wrecs.all (fun e => decide (e.2.grid ≠ gid ∨ e.2.count ≠ none))

/-- The core on which the completion record's frontier is taken: that of team 0, or the launch's lowest. -/
def State.gridCore (s : State) (gid : Nat) (x : Grid) : Nat :=
  if x.travel then x.coreList.headD 0
  else ((s.teams.find? (fun e => decide (e.2.grid = gid ∧ e.2.index = 0))).map (fun e => e.2.core)).getD 0

/-- Whether the cores have the tickets that the frontier takes. -/
def State.gridTickets (s : State) (gid : Nat) (x : Grid) : Bool :=
  if !x.posts then true
  else if x.travel then
    x.coreList.all (fun c => decide (s.freeTickets (coreKey x.die c) ≥
      if c = s.gridCore gid x then 1 + max 1 ((x.coreList.length + 2) / 4) else 1))
  else decide (s.freeTickets (coreKey x.die (s.gridCore gid x)) > 0)

def State.gridDue (s : State) (gid : Nat) (x : Grid) : Bool :=
  decide (x.stage = .running) && s.ctxRuns x.die x.ctx && s.gridTickets gid x &&
  (if x.travel then s.travelOver gid x else decide (x.nextPlot = x.plotCount ∧ x.done.length = x.teamCount))

/-- Takes the frontier that covers every write of a grid (R300). -/
def State.gridFrontier (s : State) (gid : Nat) (x : Grid) : Wit × State :=
  let lead := s.gridCore gid x
  let drain := fun (s : State) (c : Nat) => s.takeTicket (coreKey x.die c)
    { drain := s.writesOf (fun w => decide (w.grid = gid ∧ (¬ x.travel ∨ w.core = c))), ctx := x.ctx }
  let (n, s) := drain s lead
  let inc := (s.die x.die).inc
  if !x.travel ∨ x.coreList.length ≤ 1 then (frontierWit x.die inc lead n, s)
  else
    let (reqs, s) := (x.coreList.filter (· ≠ lead)).foldl (fun (acc : List Req × State) c =>
      let (n, s) := drain acc.2 c
      (acc.1 ++ [Req.ticket c n], s)) ([], s)
    let (n, s) := s.takeChain (coreKey x.die lead) x.ctx (reqs.length + 1) reqs
    (frontierWit x.die inc lead n, s)

/-- Closes a launch's arrival queues and lets its code go (R274); a record that found its queue full leaves retention (R279). -/
def State.endTravel (s : State) (x : Grid) : State :=
  let here := fun (qid : Nat) => qidModule qid = s.module ∧ x.coreList.any (fun c => decide (qidKey qid = arrivalKey x.die c))
  let s : State := { s with retained := s.retained.filter (fun e => !decide (e.2.msg.kind = .post ∧ here e.2.msg.qid)) }
  let s := s.skipPosts x.die (fun k => decide (here (k % 2 ^ 32)))
  x.coreList.foldl (fun s c =>
    (s.modQueue (arrivalKey x.die c) (fun q => { prods := q.prods })).modCore (coreKey x.die c) (fun y => { y with
      packer := {}, istore := y.istore.map (fun l => { l with pinned := false }) })) s

/-- GRID_END: the grid ends; with CN = 1 its completion record is posted (R300). -/
def execGridEnd (grid : Nat) (s : State) : Out :=
  let x := s.gridAt grid
  if !s.gridDue grid x then .next s
  else
    let s := if x.posts then
        let (w, s) := s.gridFrontier grid x
        s.postCompletion x (if x.faulted then 1 else 0) x.flags.toNat w
      else s
    let s := if x.travel then s.endTravel x else s
    .next ((s.modGrid grid (fun g => { g with stage := .ended })).freeGrids x.die)

end Sys2Proof.Machine
end

