-- ==== Sys2Proof/Machine/Area.lean ====
section
/-!
DEFINITION. The context area (R311 to R313): what microcode writes for each core of a pre-empted context, and what a restore reads back.
DESIGN CHOICE (log 104): the manual gives the records' contents and sizes, and for many of them no bit places; the places are the model's.
-/
namespace Sys2Proof.Machine

/-- The groups of a context that have not ended. -/
def State.ctxGroups (s : State) (die ctx : Nat) : Map Group := s.groups.filter (fun e => decide (e.2.die = die ∧ e.2.ctx = ctx ∧ e.2.set ≠ .ended))
/-- The saved groups of a context on a core, in the order of their records. -/
def State.areaGroups (s : State) (die ctx core : Nat) : List (Nat × Group) := (s.ctxGroups die ctx).filter (fun e => decide (e.2.core = core))
/-- The mapped registers of groups, in the order of their physical numbers in the area. -/
def areaRegs (gs : List (Nat × Group)) : List (Nat × Nat) :=
  gs.flatMap (fun e => ((upto 0 96).filter (fun n => e.2.regs.vmap.getLsbD n)).map (fun n => (e.1, n)))
/-- The operand-file entries of a group written since dispatch. -/
def Regs.opEntries (r : Regs) : List Nat := (upto 0 8).filter (fun n => r.written.getLsbD n)
/-- The teams of a context on a core, with the first of the tiles that each takes: an ended one stays until every team of its plot has
(R180). -/
def State.areaTeams (s : State) (die ctx core : Nat) : List (Nat × Team × Nat) :=
  ((s.teams.filter (fun e => decide (e.2.die = die ∧ e.2.ctx = ctx ∧ e.2.core = core) && s.teamKept e.2)).foldl
    (fun (acc : List (Nat × Team × Nat) × Nat) e => (acc.1 ++ [(e.1, e.2, acc.2)], acc.2 + e.2.tiles)) ([], 0)).1
/-- The commands that a context has in flight on a core. -/
def State.areaCmds (s : State) (die ctx core : Nat) : Map Cmd := s.cmds.filter (fun e => decide (e.2.die = die ∧ e.2.ctx = ctx ∧ e.2.core = core))
/-- Whether a context's travel launch holds a core. -/
def State.areaPacker (s : State) (die ctx core : Nat) : Bool :=
  match s.travelGrid die core with
  | some (_, x) => decide (x.ctx = ctx)
  | none => false

/-- The cores on which a context holds something. -/
def State.ctxCores (s : State) (die ctx : Nat) : List Nat :=
  (upto 0 24).filter (fun c => decide (s.areaGroups die ctx c ≠ [] ∨ s.areaTeams die ctx c ≠ []) || s.areaPacker die ctx c)

/-! ### Access to the area -/

/-- Writes bytes of the context area from a virtual address up, in runs that stay inside 128-byte blocks. -/
def State.areaWrite (g : Group) : Nat → State → Nat → List Byte → State
  | 0, s, _, _ => s
  | n + 1, s, va, l =>
    if l = [] then s
    else
      let k := 128 - va % 128
      areaWrite g n (s.spillWrite g va (l.take k)) (va + k) (l.drop k)
def State.writeArea (s : State) (g : Group) (va : Nat) (l : List Byte) : State := s.areaWrite g (l.length / 128 + 2) va l

/-- Reads bytes of the context area. -/
def State.areaRead (g : Group) : Nat → State → Nat → Nat → List Byte → List Byte × State
  | 0, s, _, _, acc => (acc, s)
  | n + 1, s, va, len, acc =>
    if len = 0 then (acc, s)
    else
      let k := min len (128 - va % 128)
      let (x, s) := s.spillRead g va k
      areaRead g n s (va + k) (len - k) (acc ++ bytesOf k x)
def State.readArea (s : State) (g : Group) (va len : Nat) : List Byte × State := s.areaRead g (len / 128 + 2) va len []

/-- Bytes filled up with zeros to n. -/
def padTo (n : Nat) (l : List Byte) : List Byte := l.take n ++ List.replicate (n - l.length) 0
/-- A field of n bytes from one on. -/
def fieldOf (b : List Byte) (lo n : Nat) : Nat := ofBytes ((b.drop lo).take n)
/-- A word for each lane, in lane order. -/
def laneBytes (f : Nat → Word) : List Byte := (upto 0 32).flatMap (fun l => bytesOf 4 (f l).toNat)
/-- Four bits for each lane, in lane order. -/
def laneNibbles (f : Nat → Nat) : List Byte := bytesOf 16 ((upto 0 32).foldl (fun n l => n + f l % 16 * 16 ^ l) 0)

def coreRecord : Nat := 0
def areaPhys : Nat := 0x4000
def areaTiles : Nat := 0x404000
def areaTeamMem : Nat := 0x604000
def areaTeamRecs : Nat := 0x804000
def areaRings : Nat := 0x814000
def areaGroupRecs : Nat := 0x81C000

/-! ### Group records (R312) -/

/-- The classes of pending asynchronous and fatal faults, whose codes are 32 to 39 (R303), as bits. -/
def pendClasses (l : List PendingFault) : Nat := l.foldl (fun n p => n ||| 2 ^ (p.info.cls.code - 32)) 0

/-- The 64-byte head: slot (bytes 0 and 1); quarter [1:0], set [4:2] and role [6:5] (2); floor (3); ceiling (4); %rmode [2:0], halt state
[4:3] and A latch held [5] (5); the flag image of %fflags (6); the operand-file entries that follow (7); cf0 to cf11 (8 to 19); the open
count (20, 21); how many deliveries are pending (22) and the classes they have, by class less 32 (23); the failing lanes of a halt (24 to 27); each thread's
clause position (28 to 43) and park reason (44 to 59), four bits each; the threads that have entered their clauses (60 to 63). -/
def Group.head (g : Group) : List Byte :=
  bytesOf 2 g.slot ++ bytesOf 1 (g.quarter % 4 + g.set.ctorIdx * 4 + g.role.ctorIdx * 32) ++ bytesOf 1 g.floor ++ bytesOf 1 g.ceil ++
  bytesOf 1 (g.rmode % 8 + g.halt.ctorIdx * 8 + (if g.latch.isSome then 32 else 0)) ++ bytesOf 1 g.flagsNow.toNat ++
  bytesOf 1 (g.regs.opEntries.foldl (fun n e => n + 2 ^ e) 0) ++ (upto 0 12).flatMap (fun n => bytesOf 1 (g.flagOf n)) ++ bytesOf 2 g.openCount ++
  bytesOf 1 g.pend.length ++ bytesOf 1 (pendClasses g.pend) ++ bytesOf 4 g.haltLanes.toNat ++ laneNibbles (fun l => (g.thread l).cpos) ++ laneNibbles (fun l => (g.thread l).park.ctorIdx) ++
  bytesOf 4 (maskOf (fun l => (g.thread l).entered)).toNat

/-- The rename map of a group record: physical number, 0xFFFF unmapped, 0xFFFE spilled. -/
def renameBytes (k : Nat) (g : Group) (phys : List (Nat × Nat)) : List Byte :=
  (upto 0 96).flatMap (fun n => bytesOf 2 (if g.regs.spilled.getLsbD n then 0xFFFE
    else if g.regs.vmap.getLsbD n then (phys.takeWhile (fun e => decide (e ≠ (k, n)))).length else 0xFFFF))
def scalarBytes (g : Group) : List Byte := (upto 0 64).flatMap (fun n => bytesOf 4 (g.regs.scalar n).toNat)
def stackBytes (l : List Nat) : List Byte := ((upto 0 4).map (fun i => l.reverse.getD i 0)).flatMap (bytesOf 6)
/-- A join stack, the oldest entry first: mask and tag. -/
def joinBytes (l : List (Lanes × Nat)) : List Byte :=
  padTo 24 (l.reverse.flatMap (fun e => bytesOf 4 e.1.toNat ++ bytesOf 2 e.2))

/-- The status of a thread: exited [0], parked [1], join wait [2], its path by the path's lowest lane [7:3], %lr valid [8], and the depth of
its join stack [11:9]. -/
def threadStatus (g : Group) (l : Nat) : Nat :=
  let t := g.thread l
  let path := maskOf (fun k => (g.thread k).live && decide ((g.thread k).pc = t.pc ∧ (g.thread k).clause = t.clause ∧ (g.thread k).cpos = t.cpos ∧
    (g.thread k).entered = t.entered))
  (if t.live then 0 else 1) + (if t.park = .none then 0 else 2) + (match t.park with
    | .join .. => 4
    | _ => 0) + 8 * lowLane path + (if g.regs.lrValid.getLsbD l then 256 else 0) + 512 * (t.join.length % 8)

/-- A thread entry of a group record. -/
def threadBytes (g : Group) (l : Nat) : List Byte :=
  let t := g.thread l
  let pred := (upto 1 7).foldl (fun n p => if g.regs.predAt p l then n + 2 ^ (p - 1) else n) 0
  bytesOf 6 t.pc ++ bytesOf 2 (threadStatus g l) ++ bytesOf 1 pred ++ bytesOf 1 t.rstack.length ++ bytesOf 2 t.rsd ++ stackBytes t.rstack ++
    joinBytes t.join ++ bytesOf 4 (g.regs.latch l).toNat

/-- A group record. -/
def groupBytes (k : Nat) (g : Group) (phys : List (Nat × Nat)) : List Byte :=
  g.head ++ renameBytes k g phys ++ scalarBytes g ++ (upto 0 32).flatMap (threadBytes g)

/-- A thread with the fields of its entry and of the head; one whose PC the control node has changed stands at a clause header, and one
whose park reason it has cleared goes on. -/
def Thread.load (t : Thread) (cpos park : Nat) (entered : Bool) (b : List Byte) : Thread :=
  let f := fieldOf b
  let st := f 6 2
  let t := { t with
    live := !st.testBit 0, rsd := f 10 2, rstack := ((upto 0 (min 4 (f 9 1))).map (fun i => f (12 + 6 * i) 6)).reverse
    join := ((upto 0 (min 4 (st / 512 % 8))).map (fun i => (BitVec.ofNat 32 (f (36 + 6 * i) 4), f (40 + 6 * i) 2))).reverse
    park := if park = 0 then .none else t.park }
  if f 0 6 = t.pc then { t with cpos := cpos, entered := t.entered && entered }
  else { t with pc := f 0 6, clause := f 0 6, cpos := 0, entered := false }

/-- The flag numbers as the head holds them. -/
def headFlags (b : List Byte) : Map Nat := (upto 0 12).foldl (fun m n => Map.set m 0 n (fieldOf b (8 + n) 1)) []

/-- A group as its record has it, with its registers' elements: flags raised and faults detected while it was saved have been joined in the
image (R308, R309), a delivery that the control node has taken out of it is gone, and residues are those of the data (R311). -/
def Group.load (g : Group) (b : List Byte) (v : Map Word) : Group :=
  let f := fieldOf b
  let mask := fun (p : Nat → Bool) => (upto 0 96).foldl (fun (m : BitVec 96) n => if p (f (64 + 2 * n) 2) then m ||| (1#96 <<< n) else m) 0
  let entry := fun l => (b.drop (512 + 64 * l)).take 64
  { g with
    regs := { g.regs with
      v := v, vmap := mask (fun x => decide (x < 0xFFFE)), spilled := mask (fun x => decide (x = 0xFFFE))
      s := (upto 0 64).foldl (fun m n => Map.set m 0 n (BitVec.ofNat 32 (f (256 + 4 * n) 4))) []
      p := (upto 1 7).foldl (fun m p => Map.set m 0 p (maskOf (fun l => (fieldOf (entry l) 8 1).testBit (p - 1)))) []
      lr := (upto 0 32).foldl (fun m l => Map.set m 0 l (BitVec.ofNat 32 (fieldOf (entry l) 60 4))) []
      lrValid := maskOf (fun l => (fieldOf (entry l) 6 2).testBit 8), poison := [], upset := [] }
    rmode := f 5 1 % 8, pend := ((g.pend.filter (fun p => (f 23 1).testBit (p.info.cls.code - 32))).take (f 22 1)).map (fun p => { p with inArea := false })
    fflags := BitVec.ofNat 6 (f 6 1) ||| g.flagsNow, late := [], cf := headFlags b, openCount := f 20 2
    haltLanes := BitVec.ofNat 32 (f 24 4)
    threads := g.threads.map (fun t => (t.1, t.2.load (f 28 16 / 16 ^ t.1 % 16) (f 44 16 / 16 ^ t.1 % 16) ((f 60 4).testBit t.1) (entry t.1))) }

/-! ### The core, team and ring records (R311) -/

/-- A copy checkpoint of 48 bytes: slot, group slot, flag, kind, stage, witness operand, space; the checkpoint; the addresses and the fault
address; the source witness. -/
def Cmd.checkpoint (c : Cmd) (slot : Nat) : List Byte :=
  padTo 48 (bytesOf 2 c.slot ++ bytesOf 2 slot ++ bytesOf 1 c.flag ++ bytesOf 1 c.kind.ctorIdx ++ bytesOf 1 c.stage.ctorIdx ++ bytesOf 1 c.wp ++
    bytesOf 8 c.pos ++ bytesOf 6 c.va ++ bytesOf 4 c.base ++ bytesOf 6 (c.faulted.getD 0) ++ bytesOf 1 (if c.faulted.isSome then 1 else 0) ++
    bytesOf 1 c.space.ctorIdx ++ bytesOf 8 c.wit.toNat)

/-- A range-scoreboard entry of 16 bytes: the command's slot, space, kind and bounds. -/
def rangeBytes (slot : Nat) (e : Space × Nat × Nat × Bool) : List Byte :=
  padTo 16 (bytesOf 2 slot ++ bytesOf 1 e.1.ctorIdx ++ bytesOf 1 (if e.2.2.2 then 1 else 0) ++ bytesOf 6 e.2.1 ++ bytesOf 6 e.2.2.1)

/-- The core record: checkpoints from byte 0, range entries from 12,288, the context's unsettled tickets from 14,336, and from 15,360 the
sizes of the sections that follow: commands, range entries, tickets, registers, tiles, teams, groups, operand-file entries, latches,
staged records and bins. -/
def State.coreBytes (s : State) (die ctx core : Nat) : List Byte :=
  let gs := s.areaGroups die ctx core
  let ts := s.areaTeams die ctx core
  let cs := s.areaCmds die ctx core
  let c := s.coreAt (coreKey die core)
  let ranges := cs.flatMap (fun e => e.2.range.map (rangeBytes e.2.slot))
  let tickets := (c.tickets.filter (fun e => decide (e.2.ctx = ctx))).map (·.1)
  let sizes := [cs.length, ranges.length, tickets.length, (areaRegs gs).length, ts.foldl (fun n e => n + e.2.1.tiles) 0, ts.length, gs.length,
    gs.foldl (fun n e => n + e.2.regs.opEntries.length) 0, (gs.filter (fun e => e.2.latch.isSome)).length, c.packer.staged.length, c.packer.ready.length]
  padTo 12288 (cs.flatMap (fun e => e.2.checkpoint (s.groupAt e.2.g).slot)) ++ padTo 2048 ranges.flatten ++
    padTo 1024 (tickets.flatMap (bytesOf 8)) ++ padTo 1024 (sizes.flatMap (bytesOf 4))

/-- A team record of 64 bytes: region base and size, first tile and count, ring records, index, member, and from byte 32 fd0 to fd7. -/
def teamBytes (t : Team) (tile ring : Nat) : List Byte :=
  padTo 32 (bytesOf 4 t.base ++ bytesOf 4 t.size ++ bytesOf 2 tile ++ bytesOf 2 t.tiles ++ bytesOf 2 ring ++ bytesOf 2 t.nrings ++ bytesOf 2 t.index ++
    bytesOf 1 t.member ++ bytesOf 1 (if t.ended then 1 else 0)) ++ (upto 0 8).flatMap (fun i => bytesOf 4 (Map.get t.fds 0 i).toNat)

/-- A ring record of 16 bytes: base [16:0] and stage size [33:17] in units of 16 bytes, stages [37:34] and arrivals [41:38] less 1, configured
[42], the phases [58:43], the FULL bits [74:59], and four bits for the arrivals of each of stages 0 to 12. -/
def ringBytes (r : Ring) : List Byte :=
  let bits := fun (p : Stage → Bool) => (upto 0 16).foldl (fun n i => if p (Map.get r.stages {} i) then n + 2 ^ i else n) 0
  bytesOf 16 (r.base / 16 % 2 ^ 17 + r.size / 16 % 2 ^ 17 * 2 ^ 17 + (r.n - 1) % 16 * 2 ^ 34 + (r.need - 1) % 16 * 2 ^ 38 + (if r.conf then 2 ^ 42 else 0) +
    bits (·.phase) * 2 ^ 43 + bits (·.full) * 2 ^ 59 + (upto 0 13).foldl (fun n i => n + (Map.get r.stages {} i).count % 16 * 16 ^ i) 0 * 2 ^ 75)

/-- The phases of a team's barriers, 16 bytes: its own in the low 16 bits, then those of its plot, and from byte 4 the arrivals of stages 13 to
15 of its rings. -/
def State.phaseBytes (s : State) (t : Team) : List Byte :=
  let p := s.plotAt t.plot
  bytesOf 4 ((upto 0 16).foldl (fun n i => if (Map.get t.bars {} i).phase then n + 2 ^ i else n) 0 +
    (upto 0 4).foldl (fun n i => if (Map.get p.bars {} i).phase then n + 2 ^ (16 + i) else n) 0) ++
  bytesOf 12 ((upto 0 8).foldl (fun n k => n + (upto 0 3).foldl (fun n i =>
    n + (Map.get (Map.get t.rings {} k).stages {} (13 + i)).count % 16 * 16 ^ i) 0 * 4096 ^ k) 0)

/-- The arrival bitmaps of a team's barriers in use, and of its threads in those of its plot: those of the current phase, and behind them
those of the next where it has any (R122). -/
def State.arrivalBytes (s : State) (k : Nat) (t : Team) : List Byte :=
  let used := (t.bars ++ (s.plotAt t.plot).bars).filter (fun b => decide (b.2.cur ≠ [] ∨ b.2.nxt ≠ []))
  let map := fun (l : List (Nat × Nat)) => bytesOf (4 * t.groups) ((l.filter (fun a => decide (a.1 = k))).foldl (fun n a => n + 2 ^ a.2) 0)
  used.flatMap (fun b => map b.2.cur ++ (if b.2.nxt = [] then [] else map b.2.nxt))

/-- A row of a tile, and a block of a team's region. -/
def State.tileRow (s : State) (team tile row : Nat) : List Byte := (upto 0 128).flatMap (fun c => bytesOf 4 (s.tile (tileKey team tile row c)).toNat)
def State.regionBytes (s : State) (t : Team) (off n : Nat) : List Byte := readBytes s.team (teamKey (coreKey t.die t.core) (t.base + off)) n

/-- A packer's staged records, 512 bytes each; from byte 0x1_0000 the slot and the window of each; from 0x1_1000 its bins; and from 0x1_3000
its counts. -/
def Packer.bytes (p : Packer) : List Byte :=
  padTo 0x10000 (p.staged.flatMap (fun e => e.1.bytes)) ++
  padTo 0x1000 (p.staged.flatMap (fun e => bytesOf 8 e.1.slot ++ bytesOf 8 e.2)) ++
  padTo 0x2000 (p.ready.flatMap (fun b => bytesOf 8 b.1 ++ bytesOf 8 b.2.1 ++ bytesOf 8 b.2.2 ++ bytesOf 8 0)) ++
  padTo 128 ([p.partials, p.evictions, p.sent, p.refilled].flatMap (bytesOf 4))
/-- The packer that bytes hold, as many records and bins as it had. -/
def Packer.load (p : Packer) (b : List Byte) : Packer :=
  let f := fieldOf b
  { staged := (upto 0 p.staged.length).map (fun i => (TRecord.read (f (0x10000 + 16 * i) 8) ((b.drop (512 * i)).take 512), f (0x10008 + 16 * i) 8))
    ready := (upto 0 p.ready.length).map (fun i => (f (0x11000 + 32 * i) 8, f (0x11008 + 32 * i) 8, f (0x11010 + 32 * i) 8))
    partials := f 0x13000 4, evictions := f 0x13004 4, sent := f 0x13008 4, refilled := f 0x1300C 4 }

/-- A held A latch, 2,304 bytes: base, A, scales, and as tag the group's slot and whether it holds scales. -/
def ALatch.bytes (a : ALatch) (slot : Nat) : List Byte :=
  padTo 64 (bytesOf 8 a.base) ++ padTo 2048 a.a ++ padTo 128 (a.scales.getD []) ++ padTo 64 (bytesOf 4 slot ++ bytesOf 1 (if a.scales.isSome then 1 else 0))
/-- The latch that bytes hold. -/
def ALatch.load (a : ALatch) (b : List Byte) : ALatch :=
  { base := fieldOf b 0 8, a := (b.drop 64).take a.a.length, scales := a.scales.map (fun l => (b.drop 2112).take l.length) }

/-! ### Save and load -/

/-- The registers of a group with an element that fails its test, each once. -/
def Regs.failing (r : Regs) : List Nat :=
  (r.poison ++ Map.keys r.upset).foldl (fun l e => if l.contains (e / 32) then l else l ++ [e / 32]) []

/-- The machine checks of the registers of a group that fail their test as the save reads them (R136, R311). They wait for the restore
(R309), and name no instruction (R304). -/
def State.saveCheck (s : State) (k : Nat) : State :=
  (s.groupAt k).regs.failing.foldl (fun s r =>
    s.raiseAsync k { cls := .datapath, sub := if r < 0x80 then 0 else if r < 0xC0 then 1 else 2, aux := r } {}) s

/-- Where a core's part of a context's area stands, and the frame through which it is accessed. -/
def State.areaBase (s : State) (die ctx core : Nat) : Nat :=
  let c := s.ctxAt (ctxKey die ctx)
  c.area + core * c.areaStride * 65536
def areaFrame (die ctx core : Nat) : Group := { die := die, core := core, ctx := ctx }

/-- The offset behind the group records and the barrier bitmaps, where the operand-file entries stand. -/
def State.areaTail (s : State) (die ctx core : Nat) : Nat :=
  areaGroupRecs + 2560 * (s.areaGroups die ctx core).length + (s.areaTeams die ctx core).foldl (fun n e => n + (s.arrivalBytes e.1 e.2.1).length) 0

/-- Writes one core's part of the area. -/
def State.saveCore (s : State) (die ctx core : Nat) : State :=
  let at_ := s.areaBase die ctx core
  let w := areaFrame die ctx core
  let gs := s.areaGroups die ctx core
  let ts := s.areaTeams die ctx core
  let phys := areaRegs gs
  let tail := s.areaTail die ctx core
  let s := gs.foldl (fun s e => s.saveCheck e.1) s
  let gs := s.areaGroups die ctx core
  let s := s.writeArea w (at_ + coreRecord) (s.coreBytes die ctx core)
  let s := ((upto 0 phys.length).zip phys).foldl (fun s e => s.writeArea w (at_ + areaPhys + 128 * e.1) ((s.groupAt e.2.1).regs.rowBytes e.2.2)) s
  let s := ts.foldl (fun s e => (upto 0 e.2.1.tiles).foldl (fun s t => (upto 0 64).foldl (fun s r =>
    s.writeArea w (at_ + areaTiles + (e.2.2 + t) * 32768 + r * 512) (s.tileRow e.1 t r)) s) s) s
  let s := ts.foldl (fun s e => s.writeArea w (at_ + areaTeamMem + e.2.1.base) (s.regionBytes e.2.1 0 e.2.1.size)) s
  let s := if s.areaPacker die ctx core then s.writeArea w (at_ + areaTeamMem) (s.coreAt (coreKey die core)).packer.bytes else s
  let rings := ts.foldl (fun n e => n + e.2.1.nrings) 0
  let s := ((upto 0 ts.length).zip ts).foldl (fun s e =>
    let first := (ts.take e.1).foldl (fun n x => n + x.2.1.nrings) 0
    let s := s.writeArea w (at_ + areaTeamRecs + 64 * e.1) (teamBytes e.2.2.1 e.2.2.2 first)
    let s := s.writeArea w (at_ + areaRings + 16 * first) ((upto 0 e.2.2.1.nrings).flatMap (fun i => ringBytes (Map.get e.2.2.1.rings {} i)))
    s.writeArea w (at_ + areaRings + 16 * rings + 16 * e.1) (s.phaseBytes e.2.2.1)) s
  let s := ((upto 0 gs.length).zip gs).foldl (fun s e => s.writeArea w (at_ + areaGroupRecs + 2560 * e.1) (groupBytes e.2.1 e.2.2 phys)) s
  let s := s.writeArea w (at_ + areaGroupRecs + 2560 * gs.length) (ts.flatMap (fun e => s.arrivalBytes e.1 e.2.1))
  let s := s.writeArea w (at_ + tail) (gs.flatMap (fun e => e.2.regs.opEntries.flatMap (fun n => laneBytes (e.2.regs.opfile n))))
  let ops := gs.foldl (fun n e => n + e.2.regs.opEntries.length) 0
  let s := s.writeArea w (at_ + tail + 128 * ops) (gs.flatMap (fun e => match e.2.latch with
    | some a => a.bytes e.2.slot
    | none => []))
  gs.foldl (fun s e => s.modGroup e.1 (fun g => { g with fflags := 0, late := [], pend := g.pend.map (fun p => { p with inArea := true }) })) s

/-- Where the record of a saved group stands in its area. -/
def State.recordAt (s : State) (k : Nat) (g : Group) : Nat :=
  s.areaBase g.die g.ctx g.core + areaGroupRecs + 2560 * ((s.areaGroups g.die g.ctx g.core).takeWhile (fun e => decide (e.1 ≠ k))).length

/-- Joins flags that are raised while a group is saved in its record's flag image (R308). -/
def State.joinFlags (s : State) (k : Nat) (g : Group) : State :=
  if g.flagsNow = 0 then s
  else
    let w := areaFrame g.die g.ctx g.core
    let va := s.recordAt k g + 6
    let (x, s) := s.spillRead w va 1
    (s.spillWrite w va (bytesOf 1 (x ||| g.flagsNow.toNat))).modGroup k (fun g => { g with fflags := 0, late := [] })

/-- Joins faults that are detected while a group is saved in its record's count and classes of pending deliveries (R309). -/
def State.joinFaults (s : State) (k : Nat) (g : Group) : State :=
  let new := g.pend.filter (fun p => !p.inArea)
  if new = [] then s
  else
    let w := areaFrame g.die g.ctx g.core
    let va := s.recordAt k g + 22
    let (x, s) := s.spillRead w va 2
    (s.spillWrite w va (bytesOf 1 (x % 256 + new.length) ++ bytesOf 1 (x / 256 ||| pendClasses new))).modGroup k (fun g => { g with
      pend := g.pend.map (fun p => { p with inArea := true }) })

/-- What happens to a saved group stands in its record. -/
def State.joinImage (s : State) (k : Nat) (g : Group) : State :=
  if !g.saved then s else (s.joinFlags k g).joinFaults k g

/-- Reads a group's record back, with the registers its rename map names, its operand-file entries and its latch, which stand at `ops` and
`latch`. -/
def State.loadGroup (s : State) (w : Group) (at_ k i ops latch : Nat) : State :=
  let (b, s) := s.readArea w (at_ + areaGroupRecs + 2560 * i) 2560
  let f := fieldOf b
  let (v, s) := ((upto 0 96).filter (fun n => decide (f (64 + 2 * n) 2 < 0xFFFE))).foldl (fun (acc : Map Word × State) n =>
    let (row, s) := acc.2.readArea w (at_ + areaPhys + 128 * f (64 + 2 * n) 2) 128
    ((upto 0 32).foldl (fun v l => Map.set v 0 (n * 32 + l) (BitVec.ofNat 32 (fieldOf row (4 * l) 4))) acc.1, s)) ([], s)
  let held := (upto 0 8).filter (fun n => (f 7 1).testBit n)
  let (o, s) := ((upto 0 held.length).zip held).foldl (fun (acc : Map Word × State) e =>
    let (row, s) := acc.2.readArea w (ops + 128 * e.1) 128
    ((upto 0 32).foldl (fun o l => Map.set o 0 (e.2 * 32 + l) (BitVec.ofNat 32 (fieldOf row (4 * l) 4))) acc.1, s)) ([], s)
  let (a, s) := s.readArea w latch (if (s.groupAt k).latch.isSome then 2304 else 0)
  s.modGroup k (fun g => { (g.load b v) with regs := { (g.load b v).regs with o := o }, latch := g.latch.map (fun x => x.load a) })

/-- Reads one core's part of the area back: tiles and team memory, which the teams own again (R314), fd0 to fd7, a travel launch's packer,
and the groups. -/
def State.loadCore (s : State) (die ctx core : Nat) : State :=
  let at_ := s.areaBase die ctx core
  let w := areaFrame die ctx core
  let ts := s.areaTeams die ctx core
  let gs := s.areaGroups die ctx core
  let tail := at_ + s.areaTail die ctx core
  let s := ts.foldl (fun s e => (upto 0 e.2.1.tiles).foldl (fun s t => (upto 0 64).foldl (fun s r =>
    let (row, s) := s.readArea w (at_ + areaTiles + (e.2.2 + t) * 32768 + r * 512) 512
    (upto 0 128).foldl (fun s c => s.setTile (tileKey e.1 t r c) (BitVec.ofNat 32 (fieldOf row (4 * c) 4))) s) s) s) s
  let domain := (s.ctxAt (ctxKey die ctx)).domain
  let s := ts.foldl (fun s e =>
    let s := s.ownRegion (coreKey die core) e.2.1.base e.2.1.size domain
    let (b, s) := s.readArea w (at_ + areaTeamMem + e.2.1.base) e.2.1.size
    s.store .team (teamKey (coreKey die core) e.2.1.base) b) s
  let s := ((upto 0 ts.length).zip ts).foldl (fun s e =>
    let (b, s) := s.readArea w (at_ + areaTeamRecs + 64 * e.1) 64
    s.modTeam e.2.1 (fun t => { t with fds := (upto 0 8).foldl (fun m i => Map.set m 0 i (BitVec.ofNat 32 (fieldOf b (32 + 4 * i) 4))) [] })) s
  let s := if s.areaPacker die ctx core then
      let (b, s) := s.readArea w (at_ + areaTeamMem) 0x13080
      s.modCore (coreKey die core) (fun c => { c with packer := c.packer.load b })
    else s
  let ops := gs.foldl (fun n e => n + e.2.regs.opEntries.length) 0
  ((upto 0 gs.length).zip gs).foldl (fun s e =>
    let before := gs.take e.1
    s.loadGroup w at_ e.2.1 e.1 (tail + 128 * before.foldl (fun n x => n + x.2.regs.opEntries.length) 0)
      (tail + 128 * ops + 2304 * (before.filter (fun x => x.2.latch.isSome)).length)) s

end Sys2Proof.Machine
end

