-- ==== Sys2Proof/Machine/Faults.lean ====
section
/-!
DEFINITION. Faults that no instruction takes, halt commands, pre-emption, restore and teardown (R301, R305 to R314, R218).
-/
namespace Sys2Proof.Machine

/-- FAULT_DELIVERY_TIMEOUT: what a group has held pending for 1,024 clocks of its die is delivered, and what it takes at a clause entry of
this clock; what it came to hold later waits for its own timeout (R305). -/
def execFaultDeliveryTimeout (g : Nat) (s : State) : Out :=
  let x := s.groupAt g
  if s.ctxHeld x.die x.ctx then .next s
  else .next (s.deliverDue g (fun p => p.due || decide (p.since + 1024 ≤ (s.die x.die).clock)))

/-! ### Scrubbing (R136, R305) -/

/-- The space a sub code of R303 names. -/
def spaceOfSub : Nat → Space
  | 0 => .tile
  | 1 => .team
  | 2 => .scratch
  | _ => .slot

/-- The queue whose window covers a cell of queue SRAM. -/
def State.cellQueue (s : State) (key : Nat) : Option (Nat × Queue) :=
  s.queues.find? (fun e => decide (e.1 / 4096 = key / 2 ^ 23 ∧ e.2.state ≠ 0 ∧ e.2.winbase ≤ key % 2 ^ 23 ∧
    key % 2 ^ 23 < e.2.winbase + e.2.win * eszBytes e.2.esz))

/-- The context that owns a cell on a die, with the core and the QID of its record; none owns the control node's fault queue. -/
def State.cellOwner (s : State) (die : Nat) (sp : Space) (key : Nat) : Option (Nat × Nat × Nat) :=
  match sp with
  | .tile => (Map.find s.teams (key / 2 ^ 19)).map (fun t => (t.ctx, t.core, 0))
  | .team =>
    (s.teams.find? (fun e => decide (coreKey e.2.die e.2.core = key / 2 ^ 21 ∧ e.2.base ≤ key % 2 ^ 21 ∧ key % 2 ^ 21 < e.2.base + e.2.size) &&
      s.teamHeld e.2)).map (fun e => (e.2.ctx, e.2.core, 0))
  | .scratch =>
    (s.contexts.find? (fun e => decide (e.1 / 65536 = die ∧ e.2.scratchBase ≤ key % 2 ^ 27 / 2 ^ 20 ∧
      key % 2 ^ 27 / 2 ^ 20 < e.2.scratchBase + e.2.scratchSize))).map (fun e => (e.1 % 65536, 0, 0))
  | _ =>
    match s.cellQueue key with
    | some (qk, q) => if qk % 16384 ≠ 16 ∧ (Map.find s.contexts (ctxKey die q.owner)).isSome then some (q.owner, 0, qidOf s.module die (qk / 4096 % 4) (qk % 4096)) else none
    | none => none

/-- Stops a whole context on its die (R305, fatal). -/
def State.stopCtx (s : State) (die ctx : Nat) : State :=
  let gs := (s.groups.filter (fun e => decide (e.2.die = die ∧ e.2.ctx = ctx))).map (·.1)
  let s := gs.foldl (fun s k => s.haltGroup k .killOnly) s
  let s : State := { s with grids := s.grids.map (fun e => if e.2.die = die ∧ e.2.ctx = ctx ∧ e.2.started then (e.1, { e.2 with faulted := true }) else e) }
  s.modCtx (ctxKey die ctx) (fun c => { c with fatal := true, stage := if c.stage = .running then .stopped else c.stage })

/-- SCRUB_ECC_ERROR: an uncorrectable cell that no instruction has read is reported to the context that owns it, and is fatal to it;
in a structure that no context owns it is a die-level fatal error (R305, R325). -/
def execScrubEccError (die sub key : Nat) (s : State) : Out :=
  let sp := spaceOfSub sub
  if !s.bad.contains (sp, key) then .next s
  else
    match s.cellOwner die sp key with
    | none => .next (s.at_ (s.now + 1) 0 (.fatalDieError die 2))
    | some (ctx, core, qid) =>
      .next ((s.postRecord { cls := .uncorrectableEcc, sub := sub, addr := eccAddr sp key, aux := qid } {} 3 0 0x3FF 0 core die ctx 0).stopCtx die ctx)

/-! ### Halt commands (R307) -/

/-- The halted groups that a halt command names: 0 a group, 1 a team (in a travel launch a core), 2 a kernel, 3 a
context. -/
def State.haltedIn (s : State) (die ctx tag scope team group core : Nat) : Map Group :=
  s.groups.filter (fun e =>
    let g := e.2
    decide (g.die = die ∧ g.ctx = ctx ∧ g.set = .halted) && (decide (scope ≥ 3) || decide ((s.gridAt g.grid).tag = tag)) &&
    (decide (scope ≥ 2) || (if s.inTravel g then decide (g.core = core) else decide ((s.teamAt g.team).index = team))) &&
    (decide (scope ≥ 1) || decide ((if s.inTravel g then g.slot else g.gidx) = group)))

/-- Moves the threads that stand at a faulting instruction past it, path by path; a clause-ending one falls through (R307). -/
def State.skipLanes (k : Nat) : Nat → Lanes → State → State
  | 0, _, s => s
  | n + 1, m, s =>
    if m = 0 then s
    else
      let g := s.groupAt k
      let t := g.thread (lowLane m)
      let path := maskOf (fun l => m.getLsbD l && decide ((g.thread l).pc = t.pc ∧ (g.thread l).cpos = t.cpos))
      skipLanes k n (m &&& ~~~ path) (s.modGroup k (fun g => g.advance (s.gridAt g.grid) { g := k, lanes := path, len := t.len }))

/-- Puts a context that a fatal fault stopped to run again, once every halted group of it has been killed. -/
def State.reviveCtx (s : State) (die ctx : Nat) : State :=
  if (s.ctxAt (ctxKey die ctx)).stage = .stopped ∧ !s.groups.any (fun e => decide (e.2.die = die ∧ e.2.ctx = ctx ∧ e.2.set = .halted)) then
    let s := s.modCtx (ctxKey die ctx) (fun c => { c with stage := .running, fatal := false })
    (s.cmds.filter (fun e => decide (e.2.die = die ∧ e.2.ctx = ctx))).foldl (fun s e => s.at_ (s.now + 1) (10 + e.2.core) (.copyRetire e.1)) s
  else s

/-- Abandons the suspended commands of a killed group: nothing would ever resume them. -/
def State.dropSuspended (s : State) (k : Nat) : State :=
  let l := s.cmds.filter (fun e => decide (e.2.g = k ∧ e.2.stage = .suspended))
  l.foldl (fun s e => { s with cmds := Map.erase s.cmds e.1 }.modGroup k (fun g => (g.settle e.1).dropCf e.2.flag)) s

/-- What a resumed group's threads count for again: joins and barriers are tested anew (R305); pools are at the end of each clock. -/
def State.retest (s : State) (k : Nat) : State := (s.settleJoins k 32).testBarriers (s.groupAt k).team

/-- Retry. -/
def State.haltRetry (s : State) (k : Nat) : State := (s.retryGroup k).retest k
/-- Skip. -/
def State.haltSkip (s : State) (k : Nat) : State := ((State.skipLanes k 32 (s.groupAt k).haltLanes s).retryGroup k).retest k
/-- Resume copy: every suspended command of the group starts again from its checkpoint. -/
def State.haltResume (s : State) (k : Nat) : State :=
  let l := s.cmds.filter (fun e => decide (e.2.g = k ∧ e.2.stage = .suspended))
  (l.foldl (fun s e => { s with cmds := Map.put s.cmds e.1 { e.2 with stage := .queued, faulted := none } }.at_ (s.now + 1) (10 + e.2.core) (.copyRetire e.1)) s).haltRetry k
/-- Kill: every thread exits. -/
def State.haltKill (s : State) (k : Nat) : State :=
  let s := s.exitLanes k (s.groupAt k).liveLanes
  ((s.dropSuspended k).modGroup k (fun g => { g with set := .fallow, fallowSince := s.now, halt := .plain, haltLanes := 0 })).retest k

/-! ### Pre-emption (R301, R309, R310) -/

/-- Accepts a pre-emption: the context's groups issue nothing from here on. One already under way or done has no further effect. -/
def State.startPreempt (s : State) (die ctx : Nat) (byUnit : Bool) (asker : Option (Nat × Nat)) : State :=
  let since := (s.die die).clock
  s.modCtx (ctxKey die ctx) (fun c => { c with stage := .halting since, byLaunchUnit := byUnit, asker := asker, stretched := 0 })

/-- The highest priority of the grids of a context that are in grid slots. -/
def State.ctxPrio (s : State) (die ctx : Nat) : Nat :=
  s.grids.foldl (fun n e => if e.2.die = die ∧ e.2.ctx = ctx ∧ e.2.started then max n e.2.prio else n) 0

/-- The context that a blocked grid has pre-empted (R301): that of the lowest-priority grid of another context with teams on cores
and a lower priority, the most recently started at a tie; one that a fatal fault has stopped is pre-empted like any other (R310). -/
def State.preemptTarget (s : State) (x : Grid) : Option Nat :=
  let l := s.grids.filter (fun e => decide (e.2.die = x.die ∧ e.2.ctx ≠ x.ctx ∧ e.2.prio < x.prio ∧ e.2.stage = .running) &&
    !s.ctxHeld e.2.die e.2.ctx && s.teams.any (fun t => decide (t.2.grid = e.1) && s.teamHeld t.2))
  (minBy (fun (e : Nat × Grid) => e.2.prio) (sortBy (fun (e : Nat × Grid) => 2 ^ 64 - e.2.order) l)).map (fun e => e.2.ctx)

/-- Whether a grid's next plot has waited so long that it triggers a pre-emption. -/
def State.preemptDue (s : State) (gid : Nat) (x : Grid) : Bool := decide (x.blocked ≥ 4096) && s.plotOpen gid x && (s.preemptTarget x).isSome

/-- PREEMPT_TRIGGER. -/
def execPreemptTrigger (grid : Nat) (s : State) : Out :=
  let x := s.gridAt grid
  if !s.preemptDue grid x then .next s
  else
    match s.preemptTarget x with
    | some ctx => .next ((s.startPreempt x.die ctx true none).modGrid grid (fun g => { g with blocked := 0 }))
    | none => .next s

/-- Whether what R309 lets finish before the save has finished: raises of fixed-latency work, accesses but for stores that wait for tickets,
deliveries, return-address transfers, and departures in flight but for those that a full arrival queue has refused for good (R279, R281). -/
def State.ctxDrained (s : State) (die ctx : Nat) : Bool :=
  let mine := fun k => let g := s.groupAt k; decide (g.die = die ∧ g.ctx = ctx)
  s.memOps.all (fun e => !mine e.2.g || (decide (e.2.kind = .store) && e.2.lanes.all (fun a => decide (a.st = .done)))) &&
  s.qops.all (fun e => !mine e.2.g || !e.2.delivering) &&
  (s.ctxGroups die ctx).all (fun e => decide (e.2.late = []) && e.2.threads.all (fun t => decide (t.2.stall ≠ .retAddr))) &&
  s.retained.all (fun e => !(e.2.msg.hw && decide (e.2.die = die ∧ e.2.msg.ctx = ctx ∧ qidIndex e.2.msg.qid ≥ 4088 ∧ ¬ e.2.waiting)))

/-- Whether a context's save is due. -/
def State.saveDue (s : State) (ck : Nat) : Bool :=
  (match (s.ctxAt ck).stage with
    | .halting _ => true
    | _ => false) && s.ctxDrained (ck / 65536) (ck % 65536)

/-- A thread as a context is saved: what held its next instruction is looked at again after the restore; ages start at zero (R312). -/
def Thread.save (t : Thread) : Thread := { t with stall := .none, age := 0 }

/-- CONTEXT_SAVE: microcode writes every core's part of the area; the context's groups and teams leave their cores. -/
def execContextSave (ctx : Nat) (s : State) : Out :=
  if !s.saveDue ctx then .next s
  else
    let die := ctx / 65536
    let c := ctx % 65536
    let s := (s.ctxCores die c).foldl (fun s core => s.saveCore die c core) s
    let ks := (s.ctxGroups die c).map (·.1)
    let s := ks.foldl (fun s k => (s.unlist k).modGroup k (fun g => { g with
      saved := true, grants := [], threads := g.threads.map (fun t => (t.1, t.2.save)) })) s
    let s : State := { s with
      cores := s.cores.map (fun e => (e.1, { e.2 with regReqs := e.2.regReqs.filter (fun r => !ks.contains r.g) }))
      teams := s.teams.map (fun e => if e.2.die = die ∧ e.2.ctx = c then (e.1, { e.2 with saved := true }) else e) }
    let asker := (s.ctxAt ctx).asker
    let s := s.modCtx ctx (fun x => { x with stage := .saved, asker := none })
    match asker with
    | some (chan, seq) => .next (s.respond chan 0x0B die c 0 0 seq [])
    | none => .next s

/-! ### Restore (R301, R313) -/

/-- Whether every slot, register, tile, region, record, barrier set and copy-engine entry that a saved context held on its cores is free
(R301, R77), and no travel launch of another context holds them (R291). -/
def State.restorable (s : State) (die ctx : Nat) : Bool :=
  (s.ctxCores die ctx).all (fun core =>
    !(s.foreignTravel die ctx).getLsbD core &&
    let gs := s.areaGroups die ctx core
    let ts := (s.areaTeams die ctx core).map (fun e => e.2.1)
    let now := s.coreTeams die core
    let used := (s.coreGroups die core).map (fun e => e.2.slot)
    let sum := fun (f : Team → Nat) => ts.foldl (fun n t => n + f t) 0 + now.foldl (fun n e => n + f e.2) 0
    gs.all (fun e => !used.contains e.2.slot) &&
    decide (gs.foldl (fun n e => n + max e.2.floor (e.2.held + e.2.releasing)) 0 ≤ s.poolFree die core) &&
    decide (sum (·.tiles) ≤ Config.coreTiles ∧ sum (·.nrings) ≤ 1024 ∧ ts.length + now.length ≤ 256) &&
    decide (sum (fun t => if t.member = 0 then 1 else 0) ≤ 64) &&
    decide ((s.engineCmds die core).length + (s.areaCmds die ctx core).length ≤ Config.copyCommands) &&
    decide (((s.engineCmds die core ++ s.areaCmds die ctx core).filter (fun e => decide (e.2.range ≠ []))).length ≤ Config.rangeEntries) &&
    ts.all (fun t => now.all (fun e => decide (t.base + t.size ≤ e.2.base ∨ e.2.base + e.2.size ≤ t.base)) && !s.regionBusy die core t.base t.size))

/-- Gives a restored context's commands on a core their slots in the engine again; one whose slot another context's command has taken takes
the lowest that is free (R77). -/
def State.seatCmds (s : State) (die ctx core : Nat) : State :=
  (s.areaCmds die ctx core).foldl (fun s e =>
    let used := (s.engineCmds die core).map (fun x => x.2.slot) ++ ((s.areaCmds die ctx core).filter (fun x => decide (x.1 < e.1))).map (fun x => x.2.slot)
    if used.contains e.2.slot then
      { s with cmds := Map.modify s.cmds e.1 (fun c => { c with slot := ((upto 0 256).find? (fun i => !used.contains i &&
          !(s.areaCmds die ctx core).any (fun x => decide (x.2.slot = i)))).getD 0 }) }
    else s) s

/-- Restores a saved context: its groups stand in their slots again, ready ones in increasing %group; its copies go on from their
checkpoints, pools where they stood; pending faults are delivered. -/
def State.restoreCtx (s : State) (die ctx : Nat) : State :=
  let s := (s.ctxCores die ctx).foldl (fun s core => (s.loadCore die ctx core).seatCmds die ctx core) s
  let gs := sortBy (fun (e : Nat × Group) => e.2.gidx) (s.ctxGroups die ctx)
  let s := gs.foldl (fun s e => s.modGroup e.1 (fun g => { g with saved := false })) s
  let s : State := { s with teams := s.teams.map (fun e => if e.2.die = die ∧ e.2.ctx = ctx then (e.1, { e.2 with saved := false }) else e) }
  let s := s.modCtx (ctxKey die ctx) (fun c => { c with stage := if c.fatal then .stopped else .running, byLaunchUnit := false })
  let s := gs.foldl (fun s e => if e.2.set = .halted ∨ e.2.pooled then s else s.resumeGroup e.1) s
  let s := (s.cmds.filter (fun e => decide (e.2.die = die ∧ e.2.ctx = ctx))).foldl (fun s e => s.at_ (s.now + 1) (10 + e.2.core) (.copyRetire e.1)) s
  let mine := s.pools.filter (fun p => decide (p.2.die = die ∧ (s.groupAt (p.2.arrivals.headD 0)).ctx = ctx) && p.2.closed)
  let s := mine.foldl (fun s p => if p.2.formed then s.send 0 5 (.regroupRelease p.1)
    else
      let r : RegReq := { g := p.2.arrivals.headD 0, refill := false, n := 0 }
      s.modCore (coreKey die p.2.core) (fun c => { c with regReqs := c.regReqs ++ [r] })) s
  gs.foldl (fun s e => s.deliverPending e.1) s

/-- Whether the launch unit restores a context that it had pre-empted (R301). -/
def State.restoreDue (s : State) (ck : Nat) : Bool :=
  let c := s.ctxAt ck
  let die := ck / 65536
  decide (c.stage = .saved) && c.byLaunchUnit && s.restorable die (ck % 65536) &&
  !s.grids.any (fun e => decide (e.2.die = die ∧ e.2.prio > s.ctxPrio die (ck % 65536)) && e.2.started && !e.2.travel &&
    decide (e.2.nextPlot < e.2.plotCount))

/-- LAUNCH_UNIT_RESTORE. -/
def execLaunchUnitRestore (ctx : Nat) (s : State) : Out :=
  if s.restoreDue ctx then .next (s.restoreCtx (ctx / 65536) (ctx % 65536)) else .next s

/-! ### Teardown (R77, R218, R308) -/

/-- Voids a torn-down context's unfilled reservations in a queue, ends its waiting requests, and completes the claims of its
operations. -/
def Queue.dropCtx (q : Queue) (own : Nat → Bool) (ops : List Nat) : Queue :=
  { q with
    slots := q.slots.map (fun e => match e.2 with
      | .reserved o => if own o then (e.1, .void) else e
      | .claimed o op false => if ops.contains op then (e.1, .claimed o op true) else e
      | _ => e)
    fifo := q.fifo.filter (fun m => !own m.owner)
    sleepers := q.sleepers.filter (fun op => !ops.contains op) }

/-- Whether an owner number is a producer of a context of a die of this module. -/
def ownerIs (module die ctx owner : Nat) : Bool :=
  decide (owner % 65536 = ctx ∧ owner / 65536 / 8 % 8 = die ∧ owner / 65536 / 64 % 8192 = module)

/-- A context's discarded posts to other modules: those that their homes had turned away give their numbers back, and those on their way
keep theirs (log 61). -/
def State.giveBack (s : State) (die ctx : Nat) (lost : List Retained) : State :=
  let s := (lost.filter (fun r => decide (r.msg.kind = .post) && (r.again || r.waiting))).foldl (fun s r =>
    s.modPort (portKey r.die r.port) (fun p => p.refuse (p.stream r.streamKey) (r.msg.key % 2 ^ 32) true)) s
  let s := s.skipPosts die (fun k => decide (k / 2 ^ 33 = ctx))
  { s with ports := s.ports.map (fun e => if e.1 / 4 ≠ die then e else
      (e.1, (e.2.refused.filter (fun x => decide (x.1 / 2 ^ 33 = ctx))).foldl (fun p x =>
        { p with seqs := Map.put p.seqs x.1 x.2, refused := Map.erase p.refused x.1 }) e.2)) }

/-- Tears a context down on a die. A chimney command that its end overtakes, a pre-emption or an enqueue, is answered with status 2 (R317). -/
def State.teardown (s : State) (die ctx : Nat) : State :=
  let gs := (s.groups.filter (fun e => decide (e.2.die = die ∧ e.2.ctx = ctx))).map (·.1)
  let mine := s.grids.filter (fun e => decide (e.2.die = die ∧ e.2.ctx = ctx))
  let ops := (s.qops.filter (fun e => decide (e.2.die = die ∧ e.2.ctx = ctx))).map (·.1)
  let own := ownerIs s.module die ctx
  let lost := s.retained.filter (fun e => decide (e.2.die = die ∧ e.2.msg.ctx = ctx ∧ e.2.msg.smod = s.module ∧ e.2.msg.sdie = die ∧ ¬ e.2.msg.back))
  let s := lost.foldl (fun s e => match e.2.chim with
    | some (chan, seq) => s.respond chan 3 die ctx 2 e.2.msg.qid seq []
    | none => s) s
  let s := match (s.ctxAt (ctxKey die ctx)).asker with
    | some (chan, seq) => s.respond chan 0x0B die ctx 2 0 seq []
    | none => s
  let s := gs.foldl (fun s k =>
    let g := s.groupAt k
    if g.late = [] then s.unlist k else (s.unlist k).discardFlags die g.core g.late.length) s
  let s := mine.foldl (fun s e => if e.2.travel ∧ e.2.stage = .running then s.endTravel e.2 else s) s
  let touched := (s.queues.filter (fun (e : Nat × Queue) => decide (e.2.dropCtx own ops ≠ e.2))).map (·.1)
  let s : State := { s with
    groups := s.groups.filter (fun e => !gs.contains e.1)
    teams := s.teams.filter (fun e => !decide (e.2.die = die ∧ e.2.ctx = ctx))
    plots := s.plots.filter (fun e => !mine.any (fun m => decide (m.1 = e.2.grid)))
    pools := s.pools.filter (fun e => !e.2.arrivals.any gs.contains)
    grids := s.grids.filter (fun e => !decide (e.2.die = die ∧ e.2.ctx = ctx))
    memOps := s.memOps.filter (fun e => !gs.contains e.2.g)
    cmds := s.cmds.filter (fun e => !decide (e.2.die = die ∧ e.2.ctx = ctx))
    qops := s.qops.filter (fun e => !ops.contains e.1)
    retained := s.retained.filter (fun e => !decide (e.2.die = die ∧ e.2.msg.ctx = ctx ∧ e.2.msg.smod = s.module ∧ e.2.msg.sdie = die ∧ ¬ e.2.msg.back))
    queues := s.queues.map (fun e => (e.1, e.2.dropCtx own ops))
    contexts := Map.erase s.contexts (ctxKey die ctx)
    cores := s.cores.map (fun e => if e.1 / 24 = die then (e.1, { e.2 with
      handles := e.2.handles.filter (fun h => !decide (h.1 / 65536 = ctx))
      tlb := e.2.tlb.filter (fun t => !decide (t.ctx = ctx))
      istore := e.2.istore.filter (fun l => !decide (l.ctx = ctx)) }) else e) }
  let s := s.modDie die (fun d => { d with tlb := d.tlb.filter (fun t => !decide (t.ctx = ctx)) })
  let s := s.giveBack die ctx (lost.map (·.2))
  (touched.foldl (fun s qk => s.settleQueue qk s.now) s).freeGrids die

end Sys2Proof.Machine
end

