-- ==== Sys2Proof/Machine/Chimney.lean ====
section
/-!
DEFINITION. The chimney port (R317 to R320), the management controller (R321, R322, R338), the damper (R323), the counters (R324) and
the fatal-error dump (R325).
-/
namespace Sys2Proof.Machine

/-! ### Commands (R317, R318) -/

def ChimCmd.field (c : ChimCmd) (lo n : Nat) : Nat := (c.hdr.extractLsb' lo n).toNat
def ChimCmd.op (c : ChimCmd) : Nat := c.field 248 8
def ChimCmd.die (c : ChimCmd) : Nat := c.field 245 3
def ChimCmd.ctx (c : ChimCmd) : Nat := c.field 224 16
def ChimCmd.arg (c : ChimCmd) : Nat := c.field 192 16
def ChimCmd.addr (c : ChimCmd) : Nat := c.field 128 48
def ChimCmd.len (c : ChimCmd) : Nat := c.field 96 32
def ChimCmd.seq (c : ChimCmd) : Nat := c.field 64 32
/-- The n payload bytes from one on, as a number. -/
def ChimCmd.num (c : ChimCmd) (lo n : Nat) : Nat := ofBytes ((c.payload.drop lo).take n)

/-- Whether a command is whole: its check code is good and its payload has the length it gives. An HBM read has none: its length is
that of the bytes to read. -/
def ChimCmd.whole (c : ChimCmd) : Bool :=
  decide (crc32c (bytesOf 32 (c.hdr &&& ~~~ 0xFFFFFFFF#256).toNat ++ c.payload) = c.hdr.extractLsb' 0 32) &&
  decide (c.payload.length = if c.op = 2 then 0 else c.len)

/-- Whether a command names a reserved op or has a reserved header field that is not zero. -/
def ChimCmd.reserved (c : ChimCmd) : Bool :=
  decide (c.op = 0 ∨ c.op > 0x10) || decide (c.field 240 5 ≠ 0 ∨ c.field 208 16 ≠ 0 ∨ c.field 176 16 ≠ 0 ∨ c.field 32 32 ≠ 0)

/-- Whether a die takes a command: in recovery and after a dump it takes few (R321, R325). -/
def State.dieTakes (s : State) (c : ChimCmd) : Bool :=
  match (s.die c.die).mode with
  | .running => true
  | .recovery => decide (c.op = 0x10) || decide (c.op = 1 ∧ c.ctx = 0xFFFF)
  | .dumped => decide (c.op = 0x10) || decide (c.op = 2 ∧ c.ctx = 0xFFFF) || decide (c.op = 5 ∧ c.addr = Config.resetRegister.toNat)

/-- The row of the opcode table that performs a command of a channel. -/
def State.chimEvent (s : State) (chan : Nat) (c : ChimCmd) : Ev :=
  if !c.whole || decide (c.seq ≠ (s.chanAt chan).expect) || c.reserved then .chimneyCommandDiscard chan
  else
    match c.op with
    | 0x01 => .hbmWrite chan
    | 0x02 => .hbmRead chan
    | 0x03 => .enqueue chan
    | 0x04 => .dequeue chan
    | 0x05 => if c.addr = Config.resetRegister.toNat then .managementReset chan else .mgmtRegisterWrite chan
    | 0x06 => .mgmtRegisterRead chan
    | 0x07 => if c.arg = 0 then .contextCreate chan else .contextDestroy chan
    | 0x08 => .tlbInvalidate chan
    | 0x09 => match c.arg with
      | 0 => .queueTranslationWrite chan
      | 1 => .multicastGroupWrite chan
      | 2 => .queueDescriptorWrite chan
      | _ => .accessListWrite chan
    | 0x0A => .queueMove chan
    | 0x0B => .preempt chan
    | 0x0C => .restore chan
    | 0x0D => match c.arg with
      | 0 => .haltRetry chan
      | 1 => .haltSkip chan
      | 2 => .haltResumeCopy chan
      | _ => .haltKill chan
    | 0x0E => .keyInstall chan
    | 0x0F => .counterAssign chan
    | _ => .attestationQuote chan

/-- Whether a message of the mesh carries an access to, or data of, a line in some MiBs of a die's scratchpad. -/
def MeshMsg.inPart (m : MeshMsg) (die base size : Nat) : Bool :=
  let hit := fun (d line : Nat) => decide (d = die ∧ base ≤ line % 2 ^ 20 / 8192 ∧ line % 2 ^ 20 / 8192 < base + size)
  match m with
  | .write d _ line .. | .atomic d _ line .. | .read d _ line .. | .probe d _ line .. | .refusal d _ line | .register d _ line .. | .fill d _ line .. => hit d line
  | .answer .. | .window .. | .inval .. | .ack .. | .confirm .. => false

/-- Whether nothing is on its way to or from the partition that a new context's descriptor names: what its last owner has left in flight must
have landed before it is zeroed (R314). -/
def State.partQuiet (s : State) (c : ChimCmd) : Bool :=
  let x : Context := { desc := BitVec.ofNat 512 (c.num 0 64) }
  s.mesh.all (fun e => !e.2.inPart c.die x.scratchBase x.scratchSize)

/-- Whether a channel's next command can take effect now: no earlier command of the channel has its effect still to come, earlier writes are durable (R318), and the die has room for its own
writes (R190) or its element (R215); a context waits for what is in flight in its partition (R314), and a dequeue
waits while the committed element that it would claim is still on its way into the window
(R209, R319). -/
def State.chimReady (s : State) (chan : Nat) (c : ChimCmd) : Bool :=
  decide ((s.chanAt chan).busy = none) && (s.chanAt chan).durable.all (fun (d, h, q) => decide (q ≤ (s.die d).visibleOf h)) &&
  (decide (c.op ≠ 1) || (s.homeRoom c.die 24 1024 && s.homeRoom c.die 25 1024)) &&
  (decide (c.op ≠ 7 ∨ c.arg ≠ 0) || s.partQuiet c) &&
  (decide (c.op ≠ 3) || decide (s.retainedBytes c.die 0 + c.payload.length ≤ Config.retentionBytes)) &&
  (decide (c.op ≠ 4) ||
    (let q := s.queueAt (qidKey (c.addr % 2 ^ 32))
     decide (q.state ≠ 1 ∨ q.waitingTo q.c = 0 ∨ q.waitingTo (min q.c q.e) ≠ 0)))

/-- What a command leads to: its status and its response's payload, or none where the response is sent later. -/
abbrev Reply := Option (Nat × List Byte) × State

/-- A refusal with a status. -/
def refuse (status : Nat) (s : State) : Reply := (some (status, []), s)
def done (s : State) : Reply := (some (0, []), s)

/-- Performs the command at the head of a channel, where it is the row's (R318). -/
def chimOp (ev : Ev) (chan : Nat) (body : ChimCmd → State → Reply) (s : State) : Out :=
  match (s.chanAt chan).inbox with
  | [] => .next s
  | c :: rest =>
    if s.chimEvent chan c ≠ ev then .next s
    else
      let s := s.modChan chan (fun x => { x with inbox := rest, expect := (x.expect + 1) % 2 ^ 32 })
      match if s.dieTakes c && decide (c.len ≤ 65536) then body c s else refuse 2 s with
      | (some (st, p), s) => .next (s.respond chan c.op c.die c.ctx st c.addr c.seq p)
      | (none, s) => .next (s.modChan chan (fun x => { x with busy := some c.seq }))

/-- CHIMNEY_COMMAND_DISCARD: status 3 for a command that is not whole or out of sequence, which later ones wait for; status 1 for a
reserved op or field. -/
def execChimneyCommandDiscard (chan : Nat) (s : State) : Out :=
  match (s.chanAt chan).inbox with
  | [] => .next s
  | c :: rest =>
    let x := s.chanAt chan
    let fails := !c.whole || decide (c.seq ≠ x.expect)
    if s.chimEvent chan c ≠ .chimneyCommandDiscard chan then .next s
    else
      let st := if fails then 3 else if s.dieTakes c then 1 else 2
      let s := s.modChan chan (fun x => { x with inbox := rest, expect := if fails then x.expect else (x.expect + 1) % 2 ^ 32 })
      .next (s.respond chan c.op c.die c.ctx st c.addr c.seq [])

/-- CHIMNEY_PORT_LINK_UP: every channel's sequence starts from 0 again; what had not taken effect is gone. -/
def execChimneyPortLinkUp (s : State) : Out :=
  .next { s with channels := s.channels.map (fun e => (e.1, { e.2 with expect := 0, inbox := [], busy := none })) }

/-- The context that a command names. -/
def State.cmdCtx (s : State) (c : ChimCmd) : Option Context := Map.find s.contexts (ctxKey c.die c.ctx)

/-! ### HBM (R66, R318) -/

/-- The physical address of a command's byte: of its context's space, or of the die where it names none. -/
def State.chimPa (s : State) (c : ChimCmd) (a : Nat) : Option Nat :=
  if c.ctx = 0xFFFF then (if a < 2 ^ 37 then some a else none)
  else if (s.cmdCtx c).isNone then none
  else
    match s.walkCtx c.die c.ctx (a % 2 ^ 48) with
    | .inl (some (p, n)) => some (pteAddr p + a % 2 ^ 48 % n)
    | _ => none

/-- Bytes cut at the 128-byte blocks of their addresses. -/
def pieces : Nat → Nat → List Byte → List (Nat × List Byte)
  | 0, _, _ => []
  | n + 1, a, l => if l = [] then [] else (a, l.take (128 - a % 128)) :: pieces n (a + (128 - a % 128)) (l.drop (128 - a % 128))

/-- HBM_WRITE: every block, or none where an address does not translate. -/
def execHbmWrite (chan : Nat) (s : State) : Out :=
  chimOp (.hbmWrite chan) chan (fun c s =>
    let l := pieces (c.payload.length / 128 + 2) c.addr c.payload
    if l.any (fun e => (s.chimPa c e.1).isNone) then refuse 2 s
    else
      done (l.foldl (fun s e =>
        let pa := (s.chimPa c e.1).getD 0
        let (q, s) := s.hbmWriteBlock c.die pa e.2
        s.modChan chan (fun x => { x with durable := x.durable ++ [(c.die, hbmHome pa, q)] })) (s.modChan chan (fun x => { x with durable := [] })))) s

/-- HBM_READ: the bytes in the response's payload. -/
def execHbmRead (chan : Nat) (s : State) : Out :=
  chimOp (.hbmRead chan) chan (fun c s =>
    let l := pieces (c.len / 128 + 2) c.addr (List.replicate c.len 0)
    if l.any (fun e => (s.chimPa c e.1).isNone) then refuse 2 s
    else (some (0, l.flatMap (fun e => readBytes (s.hbmArrived c.die) (hbmKey c.die ((s.chimPa c e.1).getD 0)) e.2.length)), s)) s

/-! ### Queue elements (R214, R304) -/

/-- The size code of an element's bytes. -/
def sizeCode (n : Nat) : Option Nat := (upto 0 9).find? (fun e => decide (eszBytes e = n))

/-- ENQUEUE: the element is posted with the context's domain as producer; the queue's answer is the response. -/
def execEnqueue (chan : Nat) (s : State) : Out :=
  chimOp (.enqueue chan) chan (fun c s =>
    let qid := c.addr % 2 ^ 32
    match s.cmdCtx c, sizeCode c.payload.length with
    | some x, some esz =>
      if c.addr % 2 ^ 32 / 2 ^ 30 ≠ 0 then refuse 2 s
      else
        let (n, s) := s.nextPost (portKey c.die 0) (c.ctx * 2 * 2 ^ 32 + qid)
        let m : QMsg := { kind := .post, esz := esz, domain := x.domain, qid := qid, key := 2 ^ 63 + n, smod := s.module, sdie := c.die
                          ctx := c.ctx, data := c.payload, crc := checkCode qid (2 ^ 63 + n) c.payload }
        (none, s.submit { msg := m, die := c.die, port := 0, g := 0, handle := 0, spray := 0xFFFF, chim := some (chan, c.seq) })
    | _, _ => refuse 2 s) s

/-- DEQUEUE: the next element of a fault queue of the die; an empty response where there is none. -/
def execDequeue (chan : Nat) (s : State) : Out :=
  chimOp (.dequeue chan) chan (fun c s =>
    let qid := c.addr % 2 ^ 32
    let q := s.queueAt (qidKey qid)
    if c.addr % 2 ^ 32 / 2 ^ 30 ≠ 0 ∨ qidModule qid ≠ s.module ∨ qidDie qid ≠ c.die ∨ q.state ≠ 1 ∨ q.kind ≠ 2 then refuse 2 s
    else
      match s.takeHead (qidKey qid) with
      | (some (_, d, _), s) => (some (0, d), s)
      | (none, s) => done s) s

/-! ### Management registers and counters (R322, R324) -/

/-- The table that holds a counter of a die: a core's, or the die's with its key. -/
def counterPlace (die n : Nat) : Nat ⊕ Nat :=
  if n < 192 then .inl (coreKey die (n / 8))
  else if n < 288 then .inr (8 * sliceUnit ((n - 192) / 4) + (n - 192) % 4)
  else if n < 320 then .inr (8 * portUnit ((n - 288) / 8) + (n - 288) % 8)
  else if n < 336 then .inr (8 * fabricUnit ((n - 320) / 8) + (n - 320) % 8)
  else .inr (8 * linkUnit ((n - 336) / 8) + (n - 336) % 8)

def State.counter (s : State) (die n : Nat) : Counter :=
  match counterPlace die n with
  | .inl ck => Map.get (s.coreAt ck).counters {} (n % 8)
  | .inr k => Map.get (s.die die).counters {} k

def State.setCounter (s : State) (die n : Nat) (x : Counter) : State :=
  match counterPlace die n with
  | .inl ck => s.modCore ck (fun c => { c with counters := Map.put c.counters (n % 8) x })
  | .inr k => s.modDie die (fun d => { d with counters := Map.put d.counters k x })

/-- MGMT_REGISTER_WRITE: a register without a behaviour of its own; counters, the identity key and its certificate are not written so. Some
registers set a fabric port's initial window and IP version (R241, R244). -/
def execMgmtRegisterWrite (chan : Nat) (s : State) : Out :=
  chimOp (.mgmtRegisterWrite chan) chan (fun c s =>
    if c.payload.length ≠ 8 ∨ (Config.registerCounter c.addr).isSome ∨ Config.identityRegister c.addr then refuse 2 s
    else
      let v := c.num 0 8
      let s := match Config.fabricRegister c.addr with
        | some (n, 0) => s.modFabric (2 * c.die + n % 2) (fun p => { p with initWindow := v })
        | some (n, 1) => s.modFabric (2 * c.die + n % 2) (fun p => { p with ipv6 := decide (v ≠ 4) })
        | _ => s
      done (s.modDie c.die (fun d => { d with mgmt := Map.put d.mgmt c.addr (BitVec.ofNat 64 (c.num 0 8)) }))) s

/-- MGMT_REGISTER_READ: a counter, what has been written, or the identity key and certificate. -/
def execMgmtRegisterRead (chan : Nat) (s : State) : Out :=
  chimOp (.mgmtRegisterRead chan) chan (fun c s =>
    let v : BitVec 64 := match Config.registerCounter c.addr with
      | some n => (s.counter c.die n).value.zeroExtend 64
      | none => Map.get (s.die c.die).mgmt (Config.identity c.die c.addr) c.addr
    (some (0, bytesOf 8 v.toNat), s)) s

/-- MANAGEMENT_RESET: answered, then the die resets. -/
def execManagementReset (chan : Nat) (s : State) : Out :=
  chimOp (.managementReset chan) chan (fun c s => done (s.at_ (s.now + 1) 0 (.dieReset c.die))) s

/-- COUNTER_ASSIGN: source and reader; a change of source zeroes the counter (R324). -/
def execCounterAssign (chan : Nat) (s : State) : Out :=
  chimOp (.counterAssign chan) chan (fun c s =>
    let (n, src) := Config.counterArg c.arg
    let old := s.counter c.die n
    if n ≥ 360 then refuse 2 s
    else done (s.setCounter c.die n { value := if old.source = src then old.value else 0, source := src, reader := c.addr % 65536 })) s

/-- KEY_INSTALL: domain (2 bytes), slot (1), a byte of padding, and the key, or nothing to clear the slot. -/
def execKeyInstall (chan : Nat) (s : State) : Out :=
  chimOp (.keyInstall chan) chan (fun c s =>
    let slot := c.num 2 1
    if (c.payload.length ≠ 36 ∧ c.payload.length ≠ 4) ∨ slot > 1 ∨ c.arg > 1 then refuse 2 s
    else
      let key : Option (BitVec 256) := if c.payload.length = 36 then some (BitVec.ofNat 256 (c.num 4 32)) else none
      done (s.modDie c.die (fun d =>
        let k := Map.get d.keys {} (c.num 0 2)
        let k := if slot = 0 then { k with slot0 := key } else { k with slot1 := key }
        { d with keys := Map.put d.keys (c.num 0 2) (if c.arg = 1 then { k with current := decide (slot = 1) } else k) }))) s

/-- ATTESTATION_QUOTE (R322). -/
def execAttestationQuote (chan : Nat) (s : State) : Out :=
  chimOp (.attestationQuote chan) chan (fun c s =>
    if c.payload.length ≠ 32 then refuse 2 s
    else
      let d := s.die c.die
      let b := c.payload ++ sha3 d.log.flatten ++ bytesOf 1 c.die ++ bytesOf 1 d.inc ++ bytesOf 4 d.fwVersion
      (some (0, b ++ bytesOf 2420 (Config.sign c.die (sha3 b)).toNat), s)) s

/-! ### Contexts (R314, R320) -/

/-- The 64 KiB frames that tables map, by the entries that a walk takes. -/
def mappedFrames (s : State) (die : Nat) : List (Nat × Nat × Nat) → Nat → List Nat
  | [], _ => []
  | (lo, n, below) :: l, table =>
    (upto 0 (2 ^ n)).flatMap (fun i =>
      let e := s.pteAt die table i
      match pteKind lo below e with
      | .absent | .bad => []
      | .page => (upto (pteAddr e / 65536) (2 ^ lo / 65536)).filter (fun f => !s.inDump die (65536 * f))
      | .table => mappedFrames s die l (pteAddr e))

/-- Gives frames to a domain: those that another domain owned last are zeroed (R314). -/
def State.claimFrames (s : State) (die domain : Nat) (l : List Nat) : State :=
  let d := s.die die
  let old := l.filter (fun f => decide (Map.get d.frames 0 f ≠ 0 ∧ Map.get d.frames 0 f ≠ domain + 1))
  let s : State := if old = [] then s else { s with hbm := s.hbm.filter (fun e => !decide (e.1 / 2 ^ 37 = die) || !old.contains (e.1 % 2 ^ 37 / 65536)) }
  s.setDie die { d with
    writeWait := d.writeWait.filter (fun e => !old.contains (e.2.1 % 2 ^ 37 / 65536)), frames := l.foldl (fun m f => Map.put m f (domain + 1)) d.frames }

/-- Drops the lines of some MiBs of the scratchpad from a core's caches. -/
def Core.dropLines (c : Core) (old : List Nat) : Core :=
  let hit := fun line => old.contains (line % 2 ^ 20 / 8192)
  { c with l1 := c.l1.filter (fun e => !hit e.1), l1Order := c.l1Order.filter (fun k => !hit k)
           ro := c.ro.filter (fun e => !hit e.1), roOrder := c.roOrder.filter (fun k => !hit k) }

/-- Gives a scratchpad partition to a domain: what another domain owned last is zeroed, and its cached lines go (R314). -/
def State.claimPartition (s : State) (die domain base size : Nat) : State :=
  let d := s.die die
  let old := (upto base size).filter (fun m => decide (Map.get d.parts 0 m ≠ 0 ∧ Map.get d.parts 0 m ≠ domain + 1))
  let s : State := if old = [] then s else
    { s with
      scratch := s.scratch.filter (fun e => !decide (e.1 / 2 ^ 27 = die) || !old.contains (e.1 % 2 ^ 27 / 2 ^ 20))
      bad := s.bad.filter (fun e => !decide (e.1 = .scratch ∧ e.2 / 2 ^ 27 = die) || !old.contains (e.2 % 2 ^ 27 / 2 ^ 20))
      cores := s.cores.map (fun e => if e.1 / 24 = die then (e.1, e.2.dropLines old) else e) }
  s.modDie die (fun d => { d with
    parts := (upto base size).foldl (fun m i => Map.put m i (domain + 1)) d.parts
    dir := d.dir.filter (fun e => !old.contains (e.1 % 2 ^ 20 / 8192)) })

/-- Whether a descriptor has a reserved bit set. -/
def descReserved (x : BitVec 512) : Bool := decide (x.extractLsb' 464 48 ≠ 0 ∨ x.extractLsb' 320 18 ≠ 0 ∨ x.extractLsb' 16 256 ≠ 0)

/-- Bytes of one core's part of the context area up to its group records, which follow (R311). -/
def corePart : Nat := 0x81C000

/-- What R320 refuses with status 2. -/
def State.descInvalid (s : State) (c : ChimCmd) (x : Context) : Bool :=
  decide (c.ctx = 0xFFFF) || (s.cmdCtx c).isSome ||
  s.contexts.any (fun e => decide (e.1 / 65536 = c.die) && (decide (e.2.domain = x.domain) ||
    decide (e.2.scratchBase < x.scratchBase + x.scratchSize ∧ x.scratchBase < e.2.scratchBase + e.2.scratchSize))) ||
  decide (x.scratchBase + x.scratchSize > 96 ∨ x.scratchSize = 0 ∨ x.areaStride * 65536 < corePart ∨ x.groupCount > 1024 ∨ x.area % 4096 ≠ 0)

/-- The frames that a context's tables map; none where its root is no table of the die (log 83). -/
def State.ctxFrames (s : State) (die : Nat) (x : Context) : List Nat :=
  if x.root % 4096 ≠ 0 ∨ x.root ≥ 2 ^ 37 then [] else mappedFrames s die walkLevels x.root

/-- CONTEXT_CREATE. -/
def execContextCreate (chan : Nat) (s : State) : Out :=
  chimOp (.contextCreate chan) chan (fun c s =>
    let x : Context := { desc := BitVec.ofNat 512 (c.num 0 64) }
    if c.payload.length ≠ 64 then refuse 2 s
    else if descReserved x.desc then refuse 1 s
    else if s.descInvalid c x then refuse 2 s
    else
      let s : State := { s with contexts := Map.put s.contexts (ctxKey c.die c.ctx) x }
      let s := s.claimPartition c.die x.domain x.scratchBase x.scratchSize
      done (s.claimFrames c.die x.domain (s.ctxFrames c.die x))) s

/-- CONTEXT_DESTROY: teardown (R77, R218). -/
def execContextDestroy (chan : Nat) (s : State) : Out :=
  chimOp (.contextDestroy chan) chan (fun c s => if c.arg ≠ 1 ∨ (s.cmdCtx c).isNone then refuse 2 s else done (s.teardown c.die c.ctx)) s

/-- TLB_INVALIDATE: no TLB of the die holds a translation of the range any more; pages new to the domain are zeroed (R69, R314). -/
def execTlbInvalidate (chan : Nat) (s : State) : Out :=
  chimOp (.tlbInvalidate chan) chan (fun c s =>
    match s.cmdCtx c with
    | none => refuse 2 s
    | some x =>
      if c.payload.length ≠ 16 then refuse 2 s
      else
        let va := c.num 0 8
        let keep := fun (t : TlbEntry) => !decide (t.ctx = c.ctx ∧ t.base < va + c.num 8 8 ∧ va < t.base + t.size)
        let s : State := { s with cores := s.cores.map (fun e => if e.1 / 24 = c.die then (e.1, { e.2 with tlb := e.2.tlb.filter keep }) else e) }
        let s := s.modDie c.die (fun d => { d with tlb := d.tlb.filter keep })
        done (s.claimFrames c.die x.domain (s.ctxFrames c.die x))) s

/-! ### Queue tables (R204 to R208, R217) -/

/-- Sends again what waited for a table change: copies whose queue has moved, and consumer requests (R217, R336). -/
def State.tableChanged (s : State) (die ctx : Nat) : State :=
  let s := (s.retained.filter (fun e => decide (e.2.die = die ∧ e.2.msg.ctx = ctx) && e.2.moved)).foldl (fun s e => s.redirect e.1 e.2) s
  (s.qops.filter (fun e => decide (e.2.die = die ∧ e.2.ctx = ctx) && e.2.moved)).foldl (fun s e =>
    s.retryConsumer e.1 e.2 (if e.2.kind = .qstat then .qstatComplete e.1 else .qdeqClaim e.1)) s

/-- The posts of a context's ports to a queue that has moved go on, under its new QID, with the numbers that they had (R214, R217). A queue of
this module shows that it has moved; that one of another module has is taken from the table write, where the port has sent no post to the new
QID yet. DESIGN CHOICE (log 102). -/
def State.carrySeqs (s : State) (die ctx old new : Nat) : State :=
  let k := fun qid => ctx * 2 * 2 ^ 32 + qid
  let here := decide (qidModule old = s.module)
  if old = new ∨ (here ∧ (s.queueAt (qidKey old)).state ≠ 2) then s
  else
    { s with ports := s.ports.map (fun e =>
        if e.1 / 4 = die ∧ (here ∨ (Map.find e.2.seqs (k new)).isNone) then (e.1, e.2.carry (k old) (k new)) else e) }

/-- Whether two translation entries each lead to one queue. -/
def bothSingle (a b : BitVec 64) : Bool := a.getLsbD 32 && b.getLsbD 32 && !entMulti a && !entMulti b

/-- QUEUE_TRANSLATION_WRITE: no core of the die keeps the old entry. -/
def execQueueTranslationWrite (chan : Nat) (s : State) : Out :=
  chimOp (.queueTranslationWrite chan) chan (fun c s =>
    match s.cmdCtx c with
    | none => refuse 2 s
    | some x =>
      let e : BitVec 64 := BitVec.ofNat 64 (c.num 0 8)
      if c.payload.length ≠ 8 ∨ c.addr ≥ x.tableSize then refuse 2 s
      else if e.extractLsb' 33 7 ≠ 0 then refuse 1 s
      else
        let was := Map.get x.trans 0 c.addr
        let s := if bothSingle was e then s.carrySeqs c.die c.ctx (entQid was) (entQid e) else s
        let s := s.modCtx (ctxKey c.die c.ctx) (fun x => { x with trans := Map.set x.trans 0 c.addr e })
        let s : State := { s with cores := s.cores.map (fun k => if k.1 / 24 = c.die then
          (k.1, { k.2 with handles := Map.erase k.2.handles (c.ctx * 65536 + c.addr) }) else k) }
        done (s.tableChanged c.die c.ctx)) s

/-- MULTICAST_GROUP_WRITE: the mask and the 64 member QIDs, whose reserved bits [31:30] stay zero (R4, R203). -/
def execMulticastGroupWrite (chan : Nat) (s : State) : Out :=
  chimOp (.multicastGroupWrite chan) chan (fun c s =>
    match s.cmdCtx c with
    | none => refuse 2 s
    | some x =>
      if c.payload.length ≠ 264 ∨ c.addr ≥ x.groupCount then refuse 2 s
      else
        let g : McGroup := {
          mask := BitVec.ofNat 64 (c.num 0 8)
          members := (upto 0 64).foldl (fun m i => Map.set m 0 i (BitVec.ofNat 32 (c.num (8 + 4 * i) 4 % 2 ^ 30))) [] }
        let old := Map.get x.mcast {} c.addr
        let s := ((upto 0 64).filter (fun i => old.mask.getLsbD i && g.mask.getLsbD i)).foldl (fun s i =>
          s.carrySeqs c.die c.ctx (Map.get old.members 0 i).toNat (Map.get g.members 0 i).toNat) s
        done ((s.modCtx (ctxKey c.die c.ctx) (fun x => { x with mcast := Map.put x.mcast c.addr g })).tableChanged c.die c.ctx)) s

/-- Whether a window overlaps one that the device reserves in a port: the control node's fault queue's, and those of the arrival
queues of cores that travel launches hold (R208, R274, R304). -/
def State.windowReserved (s : State) (die port : Nat) (q : Queue) : Bool :=
  let lo := q.winbase
  let hi := lo + q.win * eszBytes q.esz
  (decide (port = 0) && decide (lo < 0x680000 ∧ 0x670000 < hi)) ||
  (servedCores port).any (fun k => (s.travelCores die).getLsbD k &&
    decide (lo < 0x680000 + 0x40000 * servedIndex k + 0x40000 ∧ 0x680000 + 0x40000 * servedIndex k < hi))

/-- Whether a port refuses a descriptor at one of its indices (R208, R284). DESIGN CHOICE (log 20): windows of two ordinary open queues may overlap,
and each queue keeps its own elements. -/
def State.descriptorBad (s : State) (die port index : Nat) (q : Queue) : Bool :=
  decide (q.state = 3 ∨ q.alcount > 8 ∨ q.esz > 8 ∨ q.spill > 2 ^ 32 ∨ q.spillbase % 4096 ≠ 0) ||
  decide (q.kind = 3 ∨ index ≥ 4088 ∨ (port = 0 ∧ index = 16)) ||
  (if port = 0 ∧ index < 16 then decide (q.kind ≠ 1 ∨ q.esz ≠ 4) else decide (q.kind = 1)) ||
  (decide (q.state = 1) && (decide (q.winbase + q.win * eszBytes q.esz > 2 ^ 23 ∨ q.winbase % min (eszBytes q.esz) 128 ≠ 0) || s.windowReserved die port q))

/-- Whether two descriptors of an open queue differ in its shape. -/
def Queue.sameShape (a b : Queue) : Bool :=
  decide (a.win = b.win ∧ a.winbase = b.winbase ∧ a.esz = b.esz ∧ a.spill = b.spill ∧ a.spillbase = b.spillbase ∧ a.kind = b.kind)

/-- Ends what waits at a queue that leaves the open state: waiting requests are answered, held posts dropped unanswered, sleepers
released with the fault once the claims made are delivered, or resent where the queue has moved (R214, R217, R336). -/
def State.leaveOpen (s : State) (qk : Nat) (old : Queue) (moved : Bool) : State :=
  let s := s.modPort (qk / 4096) (fun p => { p with held := p.held.filter (fun m => decide (qidKey m.qid ≠ qk)) })
  let s := s.modQueue qk (fun q => { q with fifo := [] })
  let s := old.fifo.foldl (fun s m => s.answer m (if moved then 3 else 6) 0) s
  if moved then
    (old.sleepers.foldl (fun s op =>
      match Map.find s.qops op with
      | none => s
      | some o => s.retryConsumer op o (.qdeqClaim op)) s).modQueue qk (fun q => { q with sleepers := [] })
  else s.releaseSleepers qk

/-- The ports of this module number their posts from 0 again to a QID whose queue has moved away, once another queue opens there (R214, R217). -/
def State.forgetPosts (s : State) (qid : Nat) : State :=
  let other := fun (m : Map Nat) => m.filter (fun x => decide (x.1 % 2 ^ 32 ≠ qid))
  { s with ports := s.ports.map (fun e => (e.1, { e.2 with seqs := other e.2.seqs, refused := other e.2.refused, moved := other e.2.moved })) }

/-- QUEUE_DESCRIPTOR_WRITE: a queue that opens is empty, has counted no void, and goes on with its producers' sequences (log 102). DESIGN CHOICE (log 84): the context that the command's header names owns the
queue, and its number is not checked, since R208 and R319 list no refusal for it; the spill region of a queue whose owner does not exist
maps nothing (State.walkCtx). -/
def execQueueDescriptorWrite (chan : Nat) (s : State) : Out :=
  chimOp (.queueDescriptorWrite chan) chan (fun c s =>
    let qid := c.addr % 2 ^ 32
    let qk := qidKey qid
    let old := s.queueAt qk
    let q : Queue := { desc := BitVec.ofNat 128 (c.num 0 16), owner := c.ctx }
    if c.payload.length ≠ 16 ∨ c.addr % 2 ^ 32 / 2 ^ 30 ≠ 0 ∨ qidModule qid ≠ s.module ∨ qidDie qid ≠ c.die then refuse 2 s
    else if s.descriptorBad c.die (qidPort qid) (qidIndex qid) q then refuse 2 s
    else if old.state = 1 ∧ q.state = 1 then
      (if old.sameShape q ∨ old.t = old.f then
        done (s.setQueue qk { old with desc := q.desc, owner := c.ctx, e := if old.sameShape q then old.e else old.f + q.win })
      else refuse 2 s)
    else if q.state = 1 then
      let s := (s.modQueue qk (fun q => { q with slots := [] })).releaseSleepers qk
      let s := if old.state = 2 then s.forgetPosts qid else s
      done ((s.setQueue qk { q with
          acl := old.acl, prods := if old.state = 2 then [] else old.prods, dups := old.dups, e := q.win }).clearBad .slot
        (slotCell qk q 0) (q.win * eszBytes q.esz))
    else
      let s := s.setQueue qk { old with desc := q.desc, owner := c.ctx }
      done (if old.state = 1 then s.leaveOpen qk old (decide (q.state = 2)) else s)) s

/-- ACCESS_LIST_WRITE: the whole list. -/
def execAccessListWrite (chan : Nat) (s : State) : Out :=
  chimOp (.accessListWrite chan) chan (fun c s =>
    let qid := c.addr % 2 ^ 32
    if c.arg > 3 ∨ c.payload.length > 32 ∨ c.payload.length % 4 ≠ 0 ∨ c.addr % 2 ^ 32 / 2 ^ 30 ≠ 0 ∨ qidModule qid ≠ s.module ∨ qidDie qid ≠ c.die then refuse 2 s
    else
      done (s.modQueue (qidKey qid) (fun q => { q with
        acl := (upto 0 (c.payload.length / 4)).map (fun i => BitVec.ofNat 32 (c.num (4 * i) 4)) }))) s

/-- Copies what a queue has in its spill region from one die to another. -/
def State.moveSpill (s : State) (fromDie toDie : Nat) (q : Queue) : State :=
  q.slots.foldl (fun s e => match e.2 with
    | .filled _ _ _ _ _ false =>
      (let (d, s) := s.readSpill fromDie q e.1
       s.writeSpill toDie q e.1 d)
    | _ => s) s

/-- Carries a queue to its new home in this module: everything but what waits for a grant; operations under way follow it. -/
def State.carryQueue (s : State) (from_ to_ : Nat) (old : Queue) : State :=
  let fd := from_ / 16384
  let td := to_ / 16384
  let s := if fd = td then s else s.moveSpill fd td old
  let s := (s.setQueue to_ { old with fifo := [] }).setQueue from_ { old with fifo := [], sleepers := [], slots := [] }
  { s with qops := s.qops.map (fun e => if qidModule e.2.qid = s.module ∧ qidKey e.2.qid = from_ ∧ (e.2.registered ∨ e.2.delivering) then
      (e.1, { e.2 with qid := qidOf s.module td (to_ / 4096 % 4) (to_ % 4096) }) else e) }

/-- Sets the state field of a descriptor. -/
def setQueueState (d : BitVec 128) (n : Nat) : BitVec 128 := (d &&& ~~~ 0xC0#128) ||| BitVec.ofNat 128 (n * 64)

/-- QUEUE_MOVE: the payload gives the new QID. A home on another module takes what leaves this one. -/
def execQueueMove (chan : Nat) (s : State) : Out :=
  chimOp (.queueMove chan) chan (fun c s =>
    let qid := c.addr % 2 ^ 32
    let new := c.num 0 4
    let a := qidKey qid
    let b := qidKey new
    let old := s.queueAt a
    let here := decide (qidModule new = s.module)
    let claimed := old.slots.any (fun e => match e.2 with
      | .claimed .. => true
      | _ => false)
    if c.payload.length ≠ 4 ∨ c.addr % 2 ^ 32 / 2 ^ 30 ≠ 0 ∨ new / 2 ^ 30 ≠ 0 ∨ qidModule qid ≠ s.module ∨ qidDie qid ≠ c.die ∨ old.state ≠ 1 ∨ qid = new then refuse 2 s
    else if s.descriptorBad (qidDie new) (qidPort new) (qidIndex new) old ∨ (here ∧ (s.queueAt b).state = 1) then refuse 2 s
    else if (¬ here ∨ qidDie new ≠ c.die) ∧ (old.sleepers ≠ [] ∨ claimed) then refuse 2 s
    else
      let s := if here then s.carryQueue a b old else s.setQueue a { old with fifo := [], slots := [] }
      let s := s.modQueue a (fun q => { q with desc := setQueueState q.desc 2 })
      let s := s.leaveOpen a { old with sleepers := [] } true
      done (if here then s.settleQueue b s.now else s)) s

/-! ### Pre-emption, restore, halts (R307, R309, R313) -/

/-- PREEMPT: answered when the context is saved; at once when it already is, or is being pre-empted. -/
def execPreempt (chan : Nat) (s : State) : Out :=
  chimOp (.preempt chan) chan (fun c s =>
    if (s.cmdCtx c).isNone then refuse 2 s
    else if s.ctxHeld c.die c.ctx then done s
    else (none, s.startPreempt c.die c.ctx false (some (chan, c.seq)))) s

/-- RESTORE: on the cores the context was saved from, once they have room for it. -/
def execRestore (chan : Nat) (s : State) : Out :=
  chimOp (.restore chan) chan (fun c s =>
    if (s.ctxAt (ctxKey c.die c.ctx)).stage ≠ .saved ∨ !s.restorable c.die c.ctx then refuse 2 s else done (s.restoreCtx c.die c.ctx)) s

/-- Whether a group's fault record has not been acknowledged by the fault queue yet: the group stays halted in the meantime (R304). -/
def State.recordOut (s : State) (k : Nat) : Bool :=
  s.retained.any (fun e => e.2.msg.hw && decide (e.2.g = k ∧ qidIndex e.2.msg.qid < 4088))

/-- A halt command: the payload's words are the tag, the scope, the team, the group and the core. DESIGN CHOICE (log 105): it is refused while a
group that it names has a record that the fault queue has not taken. Refused, it changes nothing. What the groups that are killed still
hold pending is delivered first. -/
def haltOp (ev : Ev) (chan : Nat) (accepts : HaltKind → Bool) (f : State → Nat → State) (kill : Bool) (s : State) : Out :=
  chimOp ev chan (fun c s =>
    let l := s.haltedIn c.die c.ctx (c.num 0 4) (c.num 4 4) (c.num 8 4) (c.num 12 4) (c.num 16 4)
    if (s.cmdCtx c).isNone ∨ c.payload.length ≠ 20 ∨ c.num 4 4 > 3 ∨ c.arg > 3 ∨ s.ctxHeld c.die c.ctx then refuse 2 s
    else if l.any (fun e => !accepts e.2.halt || s.recordOut e.1) then refuse 2 s
    else
      let s := if kill then l.foldl (fun s e => s.deliverPending e.1) s else s
      let s := l.foldl (fun s e => f s e.1) s
      done (if kill then s.reviveCtx c.die c.ctx else s)) s

def execHaltRetry (chan : Nat) (s : State) : Out := haltOp (.haltRetry chan) chan (fun h => decide (h ≠ .killOnly)) State.haltRetry false s
def execHaltSkip (chan : Nat) (s : State) : Out := haltOp (.haltSkip chan) chan (fun h => decide (h = .plain)) State.haltSkip false s
def execHaltResumeCopy (chan : Nat) (s : State) : Out := haltOp (.haltResumeCopy chan) chan (fun h => decide (h = .plain)) State.haltResume false s
def execHaltKill (chan : Nat) (s : State) : Out := haltOp (.haltKill chan) chan (fun _ => true) State.haltKill true s

/-! ### Die reset (R321, R338) -/

/-- The streams that end at a die of this module. -/
def streamOf (module die k : Nat) : Bool :=
  let src := k / 4 / 2 ^ 19
  let dst := k / 4 % 2 ^ 19
  decide ((src / 64 = module ∧ endDie src = die) ∨ (dst / 64 = module ∧ endDie dst = die))

/-- Ends everything that a die is doing: its contexts, cores, queue ports and what is in flight on it. -/
def State.clearDie (s : State) (die : Nat) : State :=
  let s := (s.contexts.filter (fun e => decide (e.1 / 65536 = die))).foldl (fun s e => s.teardown die (e.1 % 65536)) s
  let ours := fun (m : MeshMsg) => match m with
    | .write d .. | .atomic d .. | .read d .. | .answer d .. | .window d .. | .inval d .. | .ack d .. | .probe d .. | .refusal d .. | .register d ..
    | .confirm d .. | .fill d .. => decide (d = die)
  { s with
    groups := s.groups.filter (fun e => decide (e.2.die ≠ die))
    teams := s.teams.filter (fun e => decide (e.2.die ≠ die))
    plots := s.plots.filter (fun e => decide (e.2.die ≠ die))
    grids := s.grids.filter (fun e => decide (e.2.die ≠ die))
    pools := s.pools.filter (fun e => decide (e.2.die ≠ die))
    memOps := s.memOps.filter (fun e => decide (e.2.die ≠ die))
    cmds := s.cmds.filter (fun e => decide (e.2.die ≠ die))
    wrecs := s.wrecs.filter (fun e => decide (e.2.die ≠ die))
    qops := s.qops.filter (fun e => decide (e.2.die ≠ die))
    mesh := s.mesh.filter (fun e => !ours e.2)
    queues := s.queues.filter (fun e => decide (e.1 / 16384 ≠ die))
    ports := s.ports.filter (fun e => decide (e.1 / 4 ≠ die))
    retained := s.retained.filter (fun e => decide (e.2.die ≠ die))
    qmsgs := s.qmsgs.filter (fun e => !decide (e.2.src / 64 = s.module ∧ endDie e.2.src = die))
    streams := s.streams.filter (fun e => !streamOf s.module die e.1)
    quarters := s.quarters.filter (fun e => decide (e.1 / 96 ≠ die))
    cores := (s.cores.filter (fun e => decide (e.1 / 24 ≠ die ∨ e.2.owners ≠ []))).map (fun e =>
      if e.1 / 24 = die then (e.1, { owners := e.2.owners }) else e)
    channels := s.channels.map (fun e => (e.1, { e.2 with durable := e.2.durable.filter (fun w => decide (w.1 ≠ die)) }))
    fabric := s.fabric.map (fun e => if e.1 / 2 = die then (e.1, { up := e.2.up, initWindow := e.2.initWindow, ipv6 := e.2.ipv6, udp := e.2.udp }) else e) }

/-- DIE_RESET. What survives: the measurement log, to which the image's digest is added, the routing that withdrawals of other dies' links
have left, and who owned memory last; the die's own links are no longer withdrawn (R237). A die whose image does not verify stays in
recovery. -/
def execDieReset (die : Nat) (s : State) : Out :=
  let s := (s.clearDie die).resetLinks die
  let d := s.die die
  let image := Config.bootImage die (d.inc + 1)
  let good := Config.signatureGood die (d.inc + 1)
  .next (s.setDie die {
    inc := d.inc + 1, dump := Config.dumpRegion die (d.inc + 1) % 2048, mode := if good then .running else .recovery, log := d.log ++ [sha3 image]
    firmware := if good then image else [], fwVersion := if good then (Config.firmwareVersion image).toNat else 0
    fallback := d.fallback, fallbackFor := d.fallbackFor, loaded := d.loaded, routes := d.routes, frames := d.frames, parts := d.parts })

/-! ### The damper (R323) -/

/-- DROOP_TRIP: the sensors trip; the droop lasts a time that the manual does not give. A trip while the damper works starts its count, and
its release, afresh. -/
def execDroopTrip (die : Nat) (s : State) : Out :=
  let (n, s) := s.drawLatency
  let s : State := { s with pending := s.pending.filter (fun d => decide (d.ev ≠ .damperRelease die)) }
  .next ((s.modDie die (fun d => { d with droop := true, damper := 0 })).at_ (s.now + 128 + n) 6 (.damperRelease die))

/-- DAMPER_RELEASE: not before 64 clocks of the stretched clock. -/
def execDamperRelease (die : Nat) (s : State) : Out :=
  let d := s.die die
  if !d.droop then .next s
  else if d.damper < 64 then .next (s.at_ (s.now + 2) 6 (.damperRelease die))
  else .next (s.setDie die { d with droop := false, damper := 0, skip := false })

/-! ### The fatal-error dump (R325) -/

/-- The fault records of a die that no one has dequeued, in sequence order per context; those of a spill region are read from it. -/
def State.openRecords (s : State) (die : Nat) : List (List Byte) × State :=
  let (placed, s) := (s.queues.filter (fun e => decide (e.1 / 16384 = die ∧ e.2.kind = 2))).foldl (fun (acc : List (List Byte) × State) e =>
    e.2.slots.foldl (fun acc x => match x.2 with
      | .filled _ d _ _ _ true => (acc.1 ++ [d], acc.2)
      | .filled _ _ _ _ _ false =>
        (let (d, s) := acc.2.readSpill die e.2 x.1
         (acc.1 ++ [d], s))
      | _ => acc) acc) ([], s)
  let waiting := (s.retained.filter (fun e => decide (e.2.die = die ∧ e.2.msg.data.length = 64 ∧ qidIndex e.2.msg.qid < 4088) && e.2.msg.hw)).map (fun e => e.2.msg.data)
  let rank := fun (d : List Byte) => fieldOf d 17 2 * 2 ^ 32 + fieldOf d 4 4
  (sortBy rank (placed ++ waiting.filter (fun d => !placed.contains d)), s)

/-- A queue in the dump, 64 bytes: its descriptor, F, H, C, T and E, and its owner. -/
def Queue.dump (q : Queue) : List Byte :=
  padTo 64 (bytesOf 16 q.desc.toNat ++ [q.f, q.h, q.c, q.t, q.e].flatMap (bytesOf 8) ++ bytesOf 4 q.owner)

/-- A link in the dump, 64 bytes: the next and the awaited lseq, the flits not yet acknowledged and those that wait, good buffer entries,
drops, retrains, and whether it runs at half its lanes, trains or is withdrawn. -/
def Link.dump (l : Link) : List Byte :=
  padTo 64 ([l.next, l.expected, l.unacked.length, l.waiting.length, l.good, l.drops, l.retrains.length].flatMap (bytesOf 4) ++
    bytesOf 1 ((if l.half then 1 else 0) + (if l.training then 2 else 0) + (if l.withdrawn then 4 else 0)))

/-- A fabric port in the dump, 64 bytes: whether its link is up, the initial window, the next packet number, the packets not acknowledged, and
its counts. -/
def FabricPort.dump (p : FabricPort) : List Byte :=
  padTo 64 (bytesOf 4 (if p.up then 1 else 0) ++ [p.initWindow, p.psn, p.unacked.length, p.pauses, p.drops, p.waits].flatMap (bytesOf 4))

/-- The dump region's contents but for the fault records, as offsets and bytes. DESIGN CHOICE (log 104): the manual gives the contents of the
parts and no bit places. A queue that is not listed is closed and all zeros, but for the control node's fault queue. -/
def State.dumpParts (s : State) (die cause : Nat) : List (Nat × List Byte) :=
  let d := s.die die
  (0, bytesOf 4 die ++ bytesOf 4 d.inc ++ bytesOf 8 cause ++ bytesOf 8 d.clock) ::
  (s.queues.filter (fun e => decide (e.1 / 16384 = die))).map (fun e => (0x800000 + 1024 * (e.1 % 16384), e.2.dump)) ++
  (0x800000 + 1024 * 16, (s.queueAt (queueKey die 0 16)).dump) ::
  (upto 0 3).map (fun i => (0x1800000 + 64 * i, (s.linkAt (3 * die + i)).dump)) ++
  (upto 0 2).map (fun i => (0x1800000 + 192 + 64 * i, (s.fabricAt (2 * die + i)).dump)) ++
  (upto 0 360).map (fun i => (0x1900000 + 8 * i, bytesOf 8 (s.counter die i).value.toNat))

/-- FATAL_DIE_ERROR: the die is frozen, no response is sent for what it was doing, the dump is written over the whole of its region, and the
region is announced on channel 0. -/
def execFatalDieError (die cause : Nat) (s : State) : Out :=
  if (s.die die).mode = .dumped then .next s
  else
    let base := (s.die die).dump * 2 ^ 26
    let (recs, s) := s.openRecords die
    let parts := s.dumpParts die cause
    let s : State := { s with hbm := s.hbm.filter (fun e => !decide (hbmKey die base ≤ e.1 ∧ e.1 < hbmKey die base + 2 ^ 26)) }
    let s := ((upto 0 recs.length).zip recs).foldl (fun s e => s.store .hbm (hbmKey die (base + 0x1000 + 64 * e.1)) e.2) s
    let s := parts.foldl (fun s e => s.store .hbm (hbmKey die (base + e.1)) e.2) s
    let sent := s.responses
    let s := s.clearDie die
    let s : State := { s with
      responses := sent, qmsgs := s.qmsgs.filter (fun e => !decide (e.2.dst / 64 = s.module ∧ endDie e.2.dst = die)) }
    .next ((s.modDie die (fun d => { d with mode := .dumped, droop := false })).respond 0 0xFF die 0xFFFF 0 base 0 [])

end Sys2Proof.Machine
end

