-- ==== Sys2Proof/Machine/LaneEx.lean ====
section
/-!
DEFINITION. Exchanges between the lanes of a path (R154 to R156), with the summation tree of R64.
-/
namespace Sys2Proof.Machine

/-! ### SHFL (R154) -/

/-- The lane a SHFL reads: none where it lies outside the group. -/
def shuffleSource (mode l k : Nat) : Option Nat :=
  match mode with
  | 0 => some k
  | 1 => if k ≤ l then some (l - k) else none
  | 2 => if l + k ≤ 31 then some (l + k) else none
  | _ => some (l ^^^ k)

def execShfl (m : BitVec 2) (b a d : BitVec 7) (s : State) : Out :=
  atIssue s fun c g =>
    let o : Opnds := { reads := [a.toNat, b.toNat], dests := [d.toNat], first := relOf a.toNat, second := relOf b.toNat }
    issueIns s c g o none (failIf (decide (a.toNat = 104)) illegalOperand) none none fun s =>
      let r := c.view g
      s.modGroup c.g (fun x => x.writeResult d.toNat c.lanes (fun l =>
        match shuffleSource m.toNat l ((r.read b.toNat l).toNat % 32) with
        | some j => if c.lanes.getLsbD j then r.read a.toNat j else r.read a.toNat l
        | none => r.read a.toNat l))

/-! ### LANEX (R155, R156) -/

/-- A LANEX minor that gives every active lane one result. -/
def lanexAll (d : Nat) (o : Opnds) (mid : Option FaultInfo) (f : Issue → Group → Regs → Word × FFlags) (s : State)
    (lat : Nat := 6) : Out :=
  atIssue s fun c g =>
    issueIns s c g { o with dests := [d] } none mid none none fun s =>
      let r := f c g (c.view g)
      s.modGroup c.g (fun x => (x.writeResult d c.lanes (fun _ => r.1)).raiseAt (s.writeback g.die lat) r.2)

def execBallot (sl : BitVec 3) (d : BitVec 7) (s : State) : Out :=
  lanexAll d.toNat { preds := [sl.toNat] } none (fun c _ r => (c.lanes &&& r.pred sl.toNat, 0)) s

def vote (p sl : Nat) (f : Lanes → Lanes → Bool) (s : State) : Out :=
  atIssue s fun c g =>
    issueIns s c g { preds := [sl] } none none none none fun s =>
      let t := f c.lanes (c.lanes &&& (c.view g).pred sl)
      s.modGroup c.g (fun x => x.writePred p c.lanes (if t then 0xFFFFFFFF else 0))

def execVoteAny (p sl : BitVec 3) (s : State) : Out := vote p.toNat sl.toNat (fun _ x => decide (x ≠ 0)) s
def execVoteAll (p sl : BitVec 3) (s : State) : Out := vote p.toNat sl.toNat (fun a x => decide (x = a)) s
def execVoteUni (p sl : BitVec 3) (s : State) : Out := vote p.toNat sl.toNat (fun a x => decide (x = a ∨ x = 0)) s

/-- An integer operation folded over the active lanes in increasing lane order. -/
def redux (a d : Nat) (f : Word → Word → Word) (s : State) : Out :=
  lanexAll d { reads := [a], first := relOf a } none (fun c _ r =>
    match (lanesOf c.lanes).map (r.read a) with
    | [] => (0, 0)
    | x :: l => (l.foldl f x, 0)) s

def execReduxIadd (a d : BitVec 7) (s : State) : Out := redux a.toNat d.toNat (fun x y => x + y) s
def execReduxImins (a d : BitVec 7) (s : State) : Out := redux a.toNat d.toNat (fun x y => if x.toInt ≤ y.toInt then x else y) s
def execReduxImaxs (a d : BitVec 7) (s : State) : Out := redux a.toNat d.toNat (fun x y => if x.toInt ≤ y.toInt then y else x) s
def execReduxIminn (a d : BitVec 7) (s : State) : Out := redux a.toNat d.toNat (fun x y => if x.toNat ≤ y.toNat then x else y) s
def execReduxImaxn (a d : BitVec 7) (s : State) : Out := redux a.toNat d.toNat (fun x y => if x.toNat ≤ y.toNat then y else x) s
def execReduxAnd (a d : BitVec 7) (s : State) : Out := redux a.toNat d.toNat (fun x y => x &&& y) s
def execReduxOr (a d : BitVec 7) (s : State) : Out := redux a.toNat d.toNat (fun x y => x ||| y) s
def execReduxXor (a d : BitVec 7) (s : State) : Out := redux a.toNat d.toNat (fun x y => x ^^^ y) s

/-- One level of the tree of R64: nodes of neighbouring pairs, an absent value passing the other through. -/
def treeLevel (f : Nat → Nat → Nat × FFlags) : List (Option (Nat × FFlags)) → List (Option (Nat × FFlags))
  | some (x, p) :: some (y, q) :: l => some ((f x y).1, (f x y).2 ||| p ||| q) :: treeLevel f l
  | some a :: none :: l => some a :: treeLevel f l
  | none :: b :: l => b :: treeLevel f l
  | l => l

/-- The tree over 32 lanes (R64): a lone NaN becomes the canonical NaN, IV for any signalling NaN present, +0 when every
lane is absent. -/
def treeReduce (f : Nat → Nat → Nat × FFlags) (l : List (Option Nat)) : Nat × FFlags :=
  let leaf := fun (x : Option Nat) => x.map (fun v =>
    (if (fp32.value v).isNan then fp32.nan else v, if (fp32.value v).isSnan then flagIV else (0 : FFlags)))
  match (treeLevel f (treeLevel f (treeLevel f (treeLevel f (treeLevel f (l.map leaf)))))) with
  | some r :: _ => r
  | _ => (0, 0)

def reduxTree (a d : Nat) (f : Nat → Nat → Nat × FFlags) (s : State) (lat : Nat := 6) : Out :=
  lanexAll d { reads := [a], first := relOf a } none (fun c _ r =>
    let v := treeReduce f ((upto 0 32).map (fun l => if c.lanes.getLsbD l then some (r.read a l).toNat else none))
    (BitVec.ofNat 32 v.1, v.2)) s lat

def execReduxFadd (a d : BitVec 7) (s : State) : Out := reduxTree a.toNat d.toNat (fp32.add .rne) s 10
def execReduxFmax (a d : BitVec 7) (s : State) : Out := reduxTree a.toNat d.toNat (fp32.minMax true) s

def execMatchLanes (p : BitVec 3) (a d : BitVec 7) (s : State) : Out :=
  atIssue s fun c g =>
    issueIns s c g { reads := [a.toNat], dests := [d.toNat], first := relOf a.toNat } none none none none fun s =>
      let r := c.view g
      let same := fun l => maskOf (fun j => c.lanes.getLsbD j && decide (r.read a.toNat j = r.read a.toNat l))
      s.modGroup c.g (fun x =>
        (x.writeResult d.toNat c.lanes same).writePred p.toNat c.lanes (maskOf (fun l => decide (same l = c.lanes))))

def execReadlane (k : BitVec 5) (a d : BitVec 7) (s : State) : Out :=
  lanexAll d.toNat { readsAt := [(a.toNat, laneBit k.toNat)], first := relOf a.toNat }
    (failIf (decide (a.toNat = 104)) illegalOperand) (fun _ _ r => (r.read a.toNat k.toNat, 0)) s

end Sys2Proof.Machine
end

