-- ==== Sys2Proof/Machine/Dispatch.lean ====
section
/-!
DEFINITION. The one dispatch from an instruction or device event to its meaning.
-/
namespace Sys2Proof.Machine

def exec (i : Instr) (s : State) : Host.Outcome State Fault Refusal :=
  match i with
  | .clauseBegin => Sys2Proof.Machine.execClauseBegin s
  | .movShort l sl d => Sys2Proof.Machine.execMovShort l sl d s
  | .iaddShort l sl d => Sys2Proof.Machine.execIaddShort l sl d s
  | .isubShort l sl d => Sys2Proof.Machine.execIsubShort l sl d s
  | .imulShort l sl d => Sys2Proof.Machine.execImulShort l sl d s
  | .andShort l sl d => Sys2Proof.Machine.execAndShort l sl d s
  | .orShort l sl d => Sys2Proof.Machine.execOrShort l sl d s
  | .xorShort l sl d => Sys2Proof.Machine.execXorShort l sl d s
  | .shlShort l sl d => Sys2Proof.Machine.execShlShort l sl d s
  | .shrlShort l sl d => Sys2Proof.Machine.execShrlShort l sl d s
  | .shraShort l sl d => Sys2Proof.Machine.execShraShort l sl d s
  | .faddShort l sl d => Sys2Proof.Machine.execFaddShort l sl d s
  | .fsubShort l sl d => Sys2Proof.Machine.execFsubShort l sl d s
  | .fmulShort l sl d => Sys2Proof.Machine.execFmulShort l sl d s
  | .fmaxShort l sl d => Sys2Proof.Machine.execFmaxShort l sl d s
  | .fminShort l sl d => Sys2Proof.Machine.execFminShort l sl d s
  | .nop => Sys2Proof.Machine.execNop s
  | .iadd g b a d => Sys2Proof.Machine.execIadd g b a d s
  | .isub g b a d => Sys2Proof.Machine.execIsub g b a d s
  | .imul g b a d => Sys2Proof.Machine.execImul g b a d s
  | .imulhs g b a d => Sys2Proof.Machine.execImulhs g b a d s
  | .imulhn g b a d => Sys2Proof.Machine.execImulhn g b a d s
  | .imins g b a d => Sys2Proof.Machine.execImins g b a d s
  | .imaxs g b a d => Sys2Proof.Machine.execImaxs g b a d s
  | .iminn g b a d => Sys2Proof.Machine.execIminn g b a d s
  | .imaxn g b a d => Sys2Proof.Machine.execImaxn g b a d s
  | .and g b a d => Sys2Proof.Machine.execAnd g b a d s
  | .or g b a d => Sys2Proof.Machine.execOr g b a d s
  | .xor g b a d => Sys2Proof.Machine.execXor g b a d s
  | .andn g b a d => Sys2Proof.Machine.execAndn g b a d s
  | .shl g b a d => Sys2Proof.Machine.execShl g b a d s
  | .shrl g b a d => Sys2Proof.Machine.execShrl g b a d s
  | .shra g b a d => Sys2Proof.Machine.execShra g b a d s
  | .rotl g b a d => Sys2Proof.Machine.execRotl g b a d s
  | .iabsd g b a d => Sys2Proof.Machine.execIabsd g b a d s
  | .fadd g b a d => Sys2Proof.Machine.execFadd g b a d s
  | .fsub g b a d => Sys2Proof.Machine.execFsub g b a d s
  | .fmul g b a d => Sys2Proof.Machine.execFmul g b a d s
  | .fmac g b a d => Sys2Proof.Machine.execFmac g b a d s
  | .fmin g b a d => Sys2Proof.Machine.execFmin g b a d s
  | .fmax g b a d => Sys2Proof.Machine.execFmax g b a d s
  | .fcpys g b a d => Sys2Proof.Machine.execFcpys g b a d s
  | .fscale g b a d => Sys2Proof.Machine.execFscale g b a d s
  | .hadd2 g b a d => Sys2Proof.Machine.execHadd2 g b a d s
  | .hsub2 g b a d => Sys2Proof.Machine.execHsub2 g b a d s
  | .hmul2 g b a d => Sys2Proof.Machine.execHmul2 g b a d s
  | .hfmac2 g b a d => Sys2Proof.Machine.execHfmac2 g b a d s
  | .hmin2 g b a d => Sys2Proof.Machine.execHmin2 g b a d s
  | .hmax2 g b a d => Sys2Proof.Machine.execHmax2 g b a d s
  | .badd2 g b a d => Sys2Proof.Machine.execBadd2 g b a d s
  | .bsub2 g b a d => Sys2Proof.Machine.execBsub2 g b a d s
  | .bmul2 g b a d => Sys2Proof.Machine.execBmul2 g b a d s
  | .bfmac2 g b a d => Sys2Proof.Machine.execBfmac2 g b a d s
  | .bmin2 g b a d => Sys2Proof.Machine.execBmin2 g b a d s
  | .bmax2 g b a d => Sys2Proof.Machine.execBmax2 g b a d s
  | .sel g b a d => Sys2Proof.Machine.execSel g b a d s
  | .prmt g b a d => Sys2Proof.Machine.execPrmt g b a d s
  | .iaddi im a d => Sys2Proof.Machine.execIaddi im a d s
  | .imuli im a d => Sys2Proof.Machine.execImuli im a d s
  | .andi im a d => Sys2Proof.Machine.execAndi im a d s
  | .ori im a d => Sys2Proof.Machine.execOri im a d s
  | .xori im a d => Sys2Proof.Machine.execXori im a d s
  | .shli c a d => Sys2Proof.Machine.execShli c a d s
  | .shrli c a d => Sys2Proof.Machine.execShrli c a d s
  | .shrai c a d => Sys2Proof.Machine.execShrai c a d s
  | .movi im d => Sys2Proof.Machine.execMovi im d s
  | .movhi im a d => Sys2Proof.Machine.execMovhi im a d s
  | .icmps c g b a n p => Sys2Proof.Machine.execIcmps c g b a n p s
  | .icmpn c g b a n p => Sys2Proof.Machine.execIcmpn c g b a n p s
  | .fcmp c g b a n p => Sys2Proof.Machine.execFcmp c g b a n p s
  | .plop c g b a n p => Sys2Proof.Machine.execPlop c g b a n p s
  | .frcp g a d => Sys2Proof.Machine.execFrcp g a d s
  | .frsq g a d => Sys2Proof.Machine.execFrsq g a d s
  | .fsqrt g a d => Sys2Proof.Machine.execFsqrt g a d s
  | .fexp2 g a d => Sys2Proof.Machine.execFexp2 g a d s
  | .flog2 g a d => Sys2Proof.Machine.execFlog2 g a d s
  | .fsin g a d => Sys2Proof.Machine.execFsin g a d s
  | .fcos g a d => Sys2Proof.Machine.execFcos g a d s
  | .ftanh g a d => Sys2Proof.Machine.execFtanh g a d s
  | .fabs g a d => Sys2Proof.Machine.execFabs g a d s
  | .fneg g a d => Sys2Proof.Machine.execFneg g a d s
  | .ffloor g a d => Sys2Proof.Machine.execFfloor g a d s
  | .fceil g a d => Sys2Proof.Machine.execFceil g a d s
  | .frint g a d => Sys2Proof.Machine.execFrint g a d s
  | .fexpn g a d => Sys2Proof.Machine.execFexpn g a d s
  | .not g a d => Sys2Proof.Machine.execNot g a d s
  | .neg g a d => Sys2Proof.Machine.execNeg g a d s
  | .abs g a d => Sys2Proof.Machine.execAbs g a d s
  | .popc g a d => Sys2Proof.Machine.execPopc g a d s
  | .clz g a d => Sys2Proof.Machine.execClz g a d s
  | .brev g a d => Sys2Proof.Machine.execBrev g a d s
  | .sext8 g a d => Sys2Proof.Machine.execSext8 g a d s
  | .sext16 g a d => Sys2Proof.Machine.execSext16 g a d s
  | .cvtS32F32 g r a d => Sys2Proof.Machine.execCvtS32F32 g r a d s
  | .cvtN32F32 g r a d => Sys2Proof.Machine.execCvtN32F32 g r a d s
  | .cvtF32S32 g r a d => Sys2Proof.Machine.execCvtF32S32 g r a d s
  | .cvtF32N32 g r a d => Sys2Proof.Machine.execCvtF32N32 g r a d s
  | .cvtH2F32 g r a d => Sys2Proof.Machine.execCvtH2F32 g r a d s
  | .cvtB2F32 g r a d => Sys2Proof.Machine.execCvtB2F32 g r a d s
  | .cvtF32H2 g r a d => Sys2Proof.Machine.execCvtF32H2 g r a d s
  | .cvtF32B2 g r a d => Sys2Proof.Machine.execCvtF32B2 g r a d s
  | .cvtB2H2 g r a d => Sys2Proof.Machine.execCvtB2H2 g r a d s
  | .cvtH2B2 g r a d => Sys2Proof.Machine.execCvtH2B2 g r a d s
  | .qnt4 f b a d => Sys2Proof.Machine.execQnt4 f b a d s
  | .qnt8 f b a d => Sys2Proof.Machine.execQnt8 f b a d s
  | .dqnt4 f b a q => Sys2Proof.Machine.execDqnt4 f b a q s
  | .dqnt8 f b a q => Sys2Proof.Machine.execDqnt8 f b a q s
  | .amax g sl l a d => Sys2Proof.Machine.execAmax g sl l a d s
  | .shfl m b a d => Sys2Proof.Machine.execShfl m b a d s
  | .ballot sl d => Sys2Proof.Machine.execBallot sl d s
  | .voteAny p sl => Sys2Proof.Machine.execVoteAny p sl s
  | .voteAll p sl => Sys2Proof.Machine.execVoteAll p sl s
  | .voteUni p sl => Sys2Proof.Machine.execVoteUni p sl s
  | .reduxIadd a d => Sys2Proof.Machine.execReduxIadd a d s
  | .reduxImins a d => Sys2Proof.Machine.execReduxImins a d s
  | .reduxImaxs a d => Sys2Proof.Machine.execReduxImaxs a d s
  | .reduxIminn a d => Sys2Proof.Machine.execReduxIminn a d s
  | .reduxImaxn a d => Sys2Proof.Machine.execReduxImaxn a d s
  | .reduxAnd a d => Sys2Proof.Machine.execReduxAnd a d s
  | .reduxOr a d => Sys2Proof.Machine.execReduxOr a d s
  | .reduxXor a d => Sys2Proof.Machine.execReduxXor a d s
  | .reduxFadd a d => Sys2Proof.Machine.execReduxFadd a d s
  | .reduxFmax a d => Sys2Proof.Machine.execReduxFmax a d s
  | .matchLanes p a d => Sys2Proof.Machine.execMatchLanes p a d s
  | .readlane k a d => Sys2Proof.Machine.execReadlane k a d s
  | .tmovToReg t x sl im v => Sys2Proof.Machine.execTmovToReg t x sl im v s
  | .tmovToTile t x sl im v => Sys2Proof.Machine.execTmovToTile t x sl im v s
  | .tzero t => Sys2Proof.Machine.execTzero t s
  | .tldt t a x => Sys2Proof.Machine.execTldt t a x s
  | .tstt t a x => Sys2Proof.Machine.execTstt t a x s
  | .tepi t a x f => Sys2Proof.Machine.execTepi t a x f s
  | .mma t sl b a c y r v => Sys2Proof.Machine.execMma t sl b a c y r v s
  | .mmaF16 t sl y r v => Sys2Proof.Machine.execMmaF16 t sl y r v s
  | .mmaBf16 t sl y r v => Sys2Proof.Machine.execMmaBf16 t sl y r v s
  | .rcfg k a b => Sys2Proof.Machine.execRcfg k a b s
  | .rcfgComplete g => Sys2Proof.Machine.execRcfgComplete g s
  | .rwaitF k p im a => Sys2Proof.Machine.execRwaitF k p im a s
  | .rwaitE k p im a => Sys2Proof.Machine.execRwaitE k p im a s
  | .rrel k im a => Sys2Proof.Machine.execRrel k im a s
  | .rarv k im a => Sys2Proof.Machine.execRarv k im a s
  | .rstat k a b => Sys2Proof.Machine.execRstat k a b s
  | .bar im => Sys2Proof.Machine.execBar im s
  | .barP im => Sys2Proof.Machine.execBarP im s
  | .barArv im => Sys2Proof.Machine.execBarArv im s
  | .barPArv im => Sys2Proof.Machine.execBarPArv im s
  | .fdset f sl => Sys2Proof.Machine.execFdset f sl s
  | .fdget f d => Sys2Proof.Machine.execFdget f d s
  | .sadd b a d => Sys2Proof.Machine.execSadd b a d s
  | .ssub b a d => Sys2Proof.Machine.execSsub b a d s
  | .smul b a d => Sys2Proof.Machine.execSmul b a d s
  | .smulhn b a d => Sys2Proof.Machine.execSmulhn b a d s
  | .sand b a d => Sys2Proof.Machine.execSand b a d s
  | .sor b a d => Sys2Proof.Machine.execSor b a d s
  | .sxor b a d => Sys2Proof.Machine.execSxor b a d s
  | .sshl b a d => Sys2Proof.Machine.execSshl b a d s
  | .sshrl b a d => Sys2Proof.Machine.execSshrl b a d s
  | .sshra b a d => Sys2Proof.Machine.execSshra b a d s
  | .smins b a d => Sys2Proof.Machine.execSmins b a d s
  | .smaxs b a d => Sys2Proof.Machine.execSmaxs b a d s
  | .sminn b a d => Sys2Proof.Machine.execSminn b a d s
  | .smaxn b a d => Sys2Proof.Machine.execSmaxn b a d s
  | .smov a d => Sys2Proof.Machine.execSmov a d s
  | .saddi im d => Sys2Proof.Machine.execSaddi im d s
  | .slit im d => Sys2Proof.Machine.execSlit im d s
  | .shi im d => Sys2Proof.Machine.execShi im d s
  | .scmp n c b a p => Sys2Proof.Machine.execScmp n c b a p s
  | .v2sFirst a d => Sys2Proof.Machine.execV2sFirst a d s
  | .v2sLane k a d => Sys2Proof.Machine.execV2sLane k a d s
  | .ssr n d => Sys2Proof.Machine.execSsr n d s
  | .ssw n sl => Sys2Proof.Machine.execSsw n sl s
  | .sset sl => Sys2Proof.Machine.execSset sl s
  | .sclr sl => Sys2Proof.Machine.execSclr sl s
  | .lds f sl w a d => Sys2Proof.Machine.execLds f sl w a d s
  | .sts f sl w a d => Sys2Proof.Machine.execSts f sl w a d s
  | .ldt f sl w a d => Sys2Proof.Machine.execLdt f sl w a d s
  | .stt f sl w a d => Sys2Proof.Machine.execStt f sl w a d s
  | .ldro f sl w a d => Sys2Proof.Machine.execLdro f sl w a d s
  | .atsAdd f b a q => Sys2Proof.Machine.execAtsAdd f b a q s
  | .atsAdd64 f b a q => Sys2Proof.Machine.execAtsAdd64 f b a q s
  | .atsMins f b a q => Sys2Proof.Machine.execAtsMins f b a q s
  | .atsMaxs f b a q => Sys2Proof.Machine.execAtsMaxs f b a q s
  | .atsMinn f b a q => Sys2Proof.Machine.execAtsMinn f b a q s
  | .atsMaxn f b a q => Sys2Proof.Machine.execAtsMaxn f b a q s
  | .atsAnd f b a q => Sys2Proof.Machine.execAtsAnd f b a q s
  | .atsOr f b a q => Sys2Proof.Machine.execAtsOr f b a q s
  | .atsXor f b a q => Sys2Proof.Machine.execAtsXor f b a q s
  | .atsExch f b a q => Sys2Proof.Machine.execAtsExch f b a q s
  | .atsExch64 f b a q => Sys2Proof.Machine.execAtsExch64 f b a q s
  | .atsCas f b a q => Sys2Proof.Machine.execAtsCas f b a q s
  | .atsCas64 f b a q => Sys2Proof.Machine.execAtsCas64 f b a q s
  | .atsIncw f b a q => Sys2Proof.Machine.execAtsIncw f b a q s
  | .atsFadd f b a q => Sys2Proof.Machine.execAtsFadd f b a q s
  | .atsFaddb2 f b a q => Sys2Proof.Machine.execAtsFaddb2 f b a q s
  | .atsFmin f b a q => Sys2Proof.Machine.execAtsFmin f b a q s
  | .atsFmax f b a q => Sys2Proof.Machine.execAtsFmax f b a q s
  | .attAdd f b a q => Sys2Proof.Machine.execAttAdd f b a q s
  | .attAdd64 f b a q => Sys2Proof.Machine.execAttAdd64 f b a q s
  | .attMins f b a q => Sys2Proof.Machine.execAttMins f b a q s
  | .attMaxs f b a q => Sys2Proof.Machine.execAttMaxs f b a q s
  | .attMinn f b a q => Sys2Proof.Machine.execAttMinn f b a q s
  | .attMaxn f b a q => Sys2Proof.Machine.execAttMaxn f b a q s
  | .attAnd f b a q => Sys2Proof.Machine.execAttAnd f b a q s
  | .attOr f b a q => Sys2Proof.Machine.execAttOr f b a q s
  | .attXor f b a q => Sys2Proof.Machine.execAttXor f b a q s
  | .attExch f b a q => Sys2Proof.Machine.execAttExch f b a q s
  | .attExch64 f b a q => Sys2Proof.Machine.execAttExch64 f b a q s
  | .attCas f b a q => Sys2Proof.Machine.execAttCas f b a q s
  | .attCas64 f b a q => Sys2Proof.Machine.execAttCas64 f b a q s
  | .attIncw f b a q => Sys2Proof.Machine.execAttIncw f b a q s
  | .attFadd f b a q => Sys2Proof.Machine.execAttFadd f b a q s
  | .attFaddb2 f b a q => Sys2Proof.Machine.execAttFaddb2 f b a q s
  | .attFmin f b a q => Sys2Proof.Machine.execAttFmin f b a q s
  | .attFmax f b a q => Sys2Proof.Machine.execAttFmax f b a q s
  | .spill n sl b => Sys2Proof.Machine.execSpill n sl b s
  | .fill f n sl b => Sys2Proof.Machine.execFill f n sl b s
  | .prefL1 n a => Sys2Proof.Machine.execPrefL1 n a s
  | .prefRo n a => Sys2Proof.Machine.execPrefRo n a s
  | .cpy f p r k a d w h => Sys2Proof.Machine.execCpy f p r k a d w h s
  | .cpyo f p r k a d w h => Sys2Proof.Machine.execCpyo f p r k a d w h s
  | .hbxGath f p a d w h => Sys2Proof.Machine.execHbxGath f p a d w h s
  | .hbxRdce f p a d w h => Sys2Proof.Machine.execHbxRdce f p a d w h s
  | .hbxConv f p a d w h => Sys2Proof.Machine.execHbxConv f p a d w h s
  | .hbxFillz f p a d w h => Sys2Proof.Machine.execHbxFillz f p a d w h s
  | .cpyxStat c d => Sys2Proof.Machine.execCpyxStat c d s
  | .cpyxCancel c => Sys2Proof.Machine.execCpyxCancel c s
  | .copyRetire cmd => Sys2Proof.Machine.execCopyRetire cmd s
  | .copyTranslationFault cmd => Sys2Proof.Machine.execCopyTranslationFault cmd s
  | .copyProtectionFault cmd => Sys2Proof.Machine.execCopyProtectionFault cmd s
  | .wmerge g b a d => Sys2Proof.Machine.execWmerge g b a d s
  | .wreduce g a d => Sys2Proof.Machine.execWreduce g a d s
  | .wall d => Sys2Proof.Machine.execWall d s
  | .wwait a => Sys2Proof.Machine.execWwait a s
  | .wtest p a => Sys2Proof.Machine.execWtest p a s
  | .witnessWake g => Sys2Proof.Machine.execWitnessWake g s
  | .qres f t c h d => Sys2Proof.Machine.execQres f t c h d s
  | .qresA f t h d => Sys2Proof.Machine.execQresA f t h d s
  | .qenqL k b r => Sys2Proof.Machine.execQenqL k b r s
  | .qenqG k b r => Sys2Proof.Machine.execQenqG k b r s
  | .qenqM k a r => Sys2Proof.Machine.execQenqM k a r s
  | .qpostL b h => Sys2Proof.Machine.execQpostL b h s
  | .qpostG b h => Sys2Proof.Machine.execQpostG b h s
  | .qpostM a h => Sys2Proof.Machine.execQpostM a h s
  | .qdeqL f sl p d h w => Sys2Proof.Machine.execQdeqL f sl p d h w s
  | .qdeqG f sl p d h w => Sys2Proof.Machine.execQdeqG f sl p d h w s
  | .qdeqM f sl p a h w => Sys2Proof.Machine.execQdeqM f sl p a h w s
  | .qwait a h => Sys2Proof.Machine.execQwait a h s
  | .qflush f h d => Sys2Proof.Machine.execQflush f h d s
  | .qvoid a h => Sys2Proof.Machine.execQvoid a h s
  | .qstat f a h d => Sys2Proof.Machine.execQstat f a h d s
  | .handleTranslationReply core handle => Sys2Proof.Machine.execHandleTranslationReply core handle s
  | .qresRequest msg => Sys2Proof.Machine.execQresRequest msg s
  | .qresDeferredGrant queue => Sys2Proof.Machine.execQresDeferredGrant queue s
  | .qresGrantReceive msg => Sys2Proof.Machine.execQresGrantReceive msg s
  | .elementArrival msg => Sys2Proof.Machine.execElementArrival msg s
  | .postArrival msg => Sys2Proof.Machine.execPostArrival msg s
  | .qdeqClaim op => Sys2Proof.Machine.execQdeqClaim op s
  | .qdeqDeliveryComplete op => Sys2Proof.Machine.execQdeqDeliveryComplete op s
  | .qflushComplete op => Sys2Proof.Machine.execQflushComplete op s
  | .qstatComplete op => Sys2Proof.Machine.execQstatComplete op s
  | .refillStep queue => Sys2Proof.Machine.execRefillStep queue s
  | .answerAck msg => Sys2Proof.Machine.execAnswerAck msg s
  | .answerRetry msg => Sys2Proof.Machine.execAnswerRetry msg s
  | .answerMoved msg => Sys2Proof.Machine.execAnswerMoved msg s
  | .answerCheck msg => Sys2Proof.Machine.execAnswerCheck msg s
  | .answerRefused msg => Sys2Proof.Machine.execAnswerRefused msg s
  | .retentionTimeout copy => Sys2Proof.Machine.execRetentionTimeout copy s
  | .streamMessageArrival msg => Sys2Proof.Machine.execStreamMessageArrival msg s
  | .streamDeliveryAck msg => Sys2Proof.Machine.execStreamDeliveryAck msg s
  | .streamResendTimeout stream => Sys2Proof.Machine.execStreamResendTimeout stream s
  | .flitReceive link => Sys2Proof.Machine.execFlitReceive link s
  | .parityRequest link => Sys2Proof.Machine.execParityRequest link s
  | .parityResponse link => Sys2Proof.Machine.execParityResponse link s
  | .replayRequest link => Sys2Proof.Machine.execReplayRequest link s
  | .linkAck link upto => Sys2Proof.Machine.execLinkAck link upto s
  | .linkRetrainComplete link => Sys2Proof.Machine.execLinkRetrainComplete link s
  | .bufferEntryError link => Sys2Proof.Machine.execBufferEntryError link s
  | .withdrawalAnnounce die link => Sys2Proof.Machine.execWithdrawalAnnounce die link s
  | .channelATimeout link => Sys2Proof.Machine.execChannelATimeout link s
  | .fabricPacketReceive port => Sys2Proof.Machine.execFabricPacketReceive port s
  | .pdsRetransmit port => Sys2Proof.Machine.execPdsRetransmit port s
  | .pauseFrameReceive port => Sys2Proof.Machine.execPauseFrameReceive port s
  | .br o n p => Sys2Proof.Machine.execBr o n p s
  | .brRg o n p => Sys2Proof.Machine.execBrRg o n p s
  | .bru o p m => Sys2Proof.Machine.execBru o p m s
  | .jmp o => Sys2Proof.Machine.execJmp o s
  | .call o => Sys2Proof.Machine.execCall o s
  | .jmpi a => Sys2Proof.Machine.execJmpi a s
  | .calli a => Sys2Proof.Machine.execCalli a s
  | .ret => Sys2Proof.Machine.execRet s
  | .join b => Sys2Proof.Machine.execJoin b s
  | .joinO => Sys2Proof.Machine.execJoinO s
  | .regroup a sl => Sys2Proof.Machine.execRegroup a sl s
  | .yield => Sys2Proof.Machine.execYield s
  | .exit => Sys2Proof.Machine.execExit s
  | .joinBoundExpiry g => Sys2Proof.Machine.execJoinBoundExpiry g s
  | .poolArrival g => Sys2Proof.Machine.execPoolArrival g s
  | .regroupRelease pool => Sys2Proof.Machine.execRegroupRelease pool s
  | .tseg d => Sys2Proof.Machine.execTseg d s
  | .tsegAddr a d => Sys2Proof.Machine.execTsegAddr a d s
  | .tstat sl a d => Sys2Proof.Machine.execTstat sl a d s
  | .thint h => Sys2Proof.Machine.execThint h s
  | .threadDepart g => Sys2Proof.Machine.execThreadDepart g s
  | .packerStage core => Sys2Proof.Machine.execPackerStage core s
  | .packerWindowEmit core => Sys2Proof.Machine.execPackerWindowEmit core s
  | .segmentLoadComplete grid seg => Sys2Proof.Machine.execSegmentLoadComplete grid seg s
  | .groupEvict core => Sys2Proof.Machine.execGroupEvict core s
  | .trap im => Sys2Proof.Machine.execTrap im s
  | .bkpt => Sys2Proof.Machine.execBkpt s
  | .cntr k d => Sys2Proof.Machine.execCntr k d s
  | .isync => Sys2Proof.Machine.execIsync s
  | .nop32 => Sys2Proof.Machine.execNop32 s
  | .loadComplete op => Sys2Proof.Machine.execLoadComplete op s
  | .storeComplete op => Sys2Proof.Machine.execStoreComplete op s
  | .atomicComplete op => Sys2Proof.Machine.execAtomicComplete op s
  | .fillComplete op => Sys2Proof.Machine.execFillComplete op s
  | .sliceWrite msg => Sys2Proof.Machine.execSliceWrite msg s
  | .sliceAtomic msg => Sys2Proof.Machine.execSliceAtomic msg s
  | .sliceRead msg => Sys2Proof.Machine.execSliceRead msg s
  | .storeAnswer msg => Sys2Proof.Machine.execStoreAnswer msg s
  | .teamMemoryWindowAccess msg => Sys2Proof.Machine.execTeamMemoryWindowAccess msg s
  | .l1Invalidation msg => Sys2Proof.Machine.execL1Invalidation msg s
  | .invalidationAck msg => Sys2Proof.Machine.execInvalidationAck msg s
  | .peerProbe msg => Sys2Proof.Machine.execPeerProbe msg s
  | .probeRefusal msg => Sys2Proof.Machine.execProbeRefusal msg s
  | .sharerRegistration msg => Sys2Proof.Machine.execSharerRegistration msg s
  | .registrationConfirm msg => Sys2Proof.Machine.execRegistrationConfirm msg s
  | .l1Fill msg => Sys2Proof.Machine.execL1Fill msg s
  | .directoryEviction die line => Sys2Proof.Machine.execDirectoryEviction die line s
  | .flueSnapshot die => Sys2Proof.Machine.execFlueSnapshot die s
  | .flueApply die => Sys2Proof.Machine.execFlueApply die s
  | .ticketSettle core => Sys2Proof.Machine.execTicketSettle core s
  | .registerGrant core => Sys2Proof.Machine.execRegisterGrant core s
  | .registerRefill core => Sys2Proof.Machine.execRegisterRefill core s
  | .codeLineFill core ctx addr => Sys2Proof.Machine.execCodeLineFill core ctx addr s
  | .launchStart die => Sys2Proof.Machine.execLaunchStart die s
  | .plotDispatch die => Sys2Proof.Machine.execPlotDispatch die s
  | .travelLaunchStart grid => Sys2Proof.Machine.execTravelLaunchStart grid s
  | .activeEntry quarter => Sys2Proof.Machine.execActiveEntry quarter s
  | .timeSliceExpiry g => Sys2Proof.Machine.execTimeSliceExpiry g s
  | .fallowReturn g => Sys2Proof.Machine.execFallowReturn g s
  | .groupEnd g => Sys2Proof.Machine.execGroupEnd g s
  | .teamCompletion team => Sys2Proof.Machine.execTeamCompletion team s
  | .gridEnd grid => Sys2Proof.Machine.execGridEnd grid s
  | .preemptTrigger grid => Sys2Proof.Machine.execPreemptTrigger grid s
  | .launchUnitRestore ctx => Sys2Proof.Machine.execLaunchUnitRestore ctx s
  | .faultDeliveryTimeout g => Sys2Proof.Machine.execFaultDeliveryTimeout g s
  | .scrubEccError die sub key => Sys2Proof.Machine.execScrubEccError die sub key s
  | .contextSave ctx => Sys2Proof.Machine.execContextSave ctx s
  | .dieReset die => Sys2Proof.Machine.execDieReset die s
  | .droopTrip die => Sys2Proof.Machine.execDroopTrip die s
  | .damperRelease die => Sys2Proof.Machine.execDamperRelease die s
  | .fatalDieError die cause => Sys2Proof.Machine.execFatalDieError die cause s
  | .hbmWrite chan => Sys2Proof.Machine.execHbmWrite chan s
  | .hbmRead chan => Sys2Proof.Machine.execHbmRead chan s
  | .enqueue chan => Sys2Proof.Machine.execEnqueue chan s
  | .dequeue chan => Sys2Proof.Machine.execDequeue chan s
  | .mgmtRegisterWrite chan => Sys2Proof.Machine.execMgmtRegisterWrite chan s
  | .mgmtRegisterRead chan => Sys2Proof.Machine.execMgmtRegisterRead chan s
  | .managementReset chan => Sys2Proof.Machine.execManagementReset chan s
  | .contextCreate chan => Sys2Proof.Machine.execContextCreate chan s
  | .contextDestroy chan => Sys2Proof.Machine.execContextDestroy chan s
  | .tlbInvalidate chan => Sys2Proof.Machine.execTlbInvalidate chan s
  | .queueTranslationWrite chan => Sys2Proof.Machine.execQueueTranslationWrite chan s
  | .multicastGroupWrite chan => Sys2Proof.Machine.execMulticastGroupWrite chan s
  | .queueDescriptorWrite chan => Sys2Proof.Machine.execQueueDescriptorWrite chan s
  | .accessListWrite chan => Sys2Proof.Machine.execAccessListWrite chan s
  | .queueMove chan => Sys2Proof.Machine.execQueueMove chan s
  | .preempt chan => Sys2Proof.Machine.execPreempt chan s
  | .restore chan => Sys2Proof.Machine.execRestore chan s
  | .haltRetry chan => Sys2Proof.Machine.execHaltRetry chan s
  | .haltSkip chan => Sys2Proof.Machine.execHaltSkip chan s
  | .haltResumeCopy chan => Sys2Proof.Machine.execHaltResumeCopy chan s
  | .haltKill chan => Sys2Proof.Machine.execHaltKill chan s
  | .keyInstall chan => Sys2Proof.Machine.execKeyInstall chan s
  | .counterAssign chan => Sys2Proof.Machine.execCounterAssign chan s
  | .attestationQuote chan => Sys2Proof.Machine.execAttestationQuote chan s
  | .illegalInstruction word => Sys2Proof.Machine.execIllegalInstruction word s
  | .returnAddressSpillComplete g lanes => Sys2Proof.Machine.execReturnAddressSpillComplete g lanes s
  | .fabricPortLinkChange port up => Sys2Proof.Machine.execFabricPortLinkChange port up s
  | .chimneyPortLinkUp => Sys2Proof.Machine.execChimneyPortLinkUp s
  | .chimneyCommandDiscard chan => Sys2Proof.Machine.execChimneyCommandDiscard chan s
  | .fallbackTableSwitch die => Sys2Proof.Machine.execFallbackTableSwitch die s

end Sys2Proof.Machine
end

