-- ==== Sys2Proof/Machine/Clock.lean ====
section
/-!
DEFINITION. What happens in one arithmetic clock around the meanings of instructions and events: the choice of group and paths (R246 to
R248, R296), the fetch of an instruction, what the outside world does, the turn of the clock (R1, R87, R102, R323), and the events whose
condition stands in it.
-/
namespace Sys2Proof.Machine

/-! ### Paths (R246 to R248) -/

/-- Whether two candidates stand at the same instruction. -/
def samePath (a b : Thread) : Bool := decide (a.pc = b.pc ∧ a.clause = b.clause ∧ a.cpos = b.cpos ∧ a.entered = b.entered)

/-- The paths of a set of lanes. -/
def pathsOf (g : Group) : Nat → Lanes → List Lanes
  | 0, _ => []
  | n + 1, m =>
    if m = 0 then []
    else
      let t := g.thread (lowLane m)
      let p := maskOf (fun l => m.getLsbD l && samePath t (g.thread l))
      p :: pathsOf g n (m &&& ~~~ p)

/-- The greatest age in a path. -/
def pathAge (g : Group) (p : Lanes) : Nat := (lanesOf p).foldl (fun n l => max n (g.thread l).age) 0

/-- A path's place in the order of choice: aged paths by age, then the others by population; the lower PC at a tie. -/
def pathRank (g : Group) (p : Lanes) : Nat :=
  let a := pathAge g p
  let pc := (g.thread (lowLane p)).pc
  if a ≥ 64 then (2 ^ 20 - min a (2 ^ 20)) * 2 ^ 48 + pc else 2 ^ 80 + (32 - countLanes p) * 2 ^ 48 + pc

/-- The one or two paths that a group issues. -/
def chosenPaths (g : Group) (m : Lanes) : List Lanes := (sortBy (pathRank g) (pathsOf g 32 m)).take 2

/-- The candidates of a group. -/
def State.candidates (s : State) (g : Group) : Lanes := maskOf (fun l => s.candidate g (g.thread l))

/-- A rotation order, from the entry after the one last taken. -/
def rotation (last : Nat) (l : List Nat) : List Nat :=
  (l.dropWhile (fun k => decide (k ≠ last))).drop 1 ++ l.takeWhile (fun k => decide (k ≠ last)) ++ l.filter (fun k => decide (k = last))

/-- The order in which a quarter looks at its active groups: from the first that entered after the one it last issued for, also where that
one has left (R296). -/
def Quarter.order (q : Quarter) : List Nat := rotation (if q.active.contains q.last then q.last else q.after) q.active

/-- Whether a group may issue now: its context runs, on a die that runs and is not in the stretched half of a clock. -/
def State.mayIssue (s : State) (g : Group) : Bool :=
  decide (g.set = .active) && s.ctxRuns g.die g.ctx && decide ((s.die g.die).mode = .running) && !(s.die g.die).skip

/-! ### Fetch (R15, R16) -/

/-- The parcels of an instruction of n bytes, as a number. -/
def Core.bits (c : Core) (ctx va : Nat) : Nat → Option Nat
  | 0 => some 0
  | n + 1 =>
    match c.parcel ctx va, Core.bits c ctx ((va + 2) % 2 ^ 48) n with
    | some p, some x => some (p + 65536 * x)
    | _, _ => none

/-- The length and the bits of the instruction at a code address, where the core holds them. -/
def Core.fetch (c : Core) (ctx va : Nat) : Option (Nat × Nat) :=
  match c.parcel ctx va with
  | none => none
  | some p => (c.bits ctx va (parcelLen p / 2)).map (fun w => (parcelLen p, w))

/-- The lanes of a chosen path that still stand at its instruction: those that live and wait for nothing. -/
def Issue.standing (c : Issue) (g : Group) : Issue :=
  { c with lanes := maskOf (fun l => c.lanes.getLsbD l && (g.thread l).live && decide ((g.thread l).park = .none)) }

/-- What the path at the head of the issue list does next. -/
inductive Turn where
  | nothing
  | enter (c : Issue)
  | run (c : Issue)
  deriving DecidableEq, Repr

/-- A chosen path enters its clause, or runs the instruction at which it stands; with no lane left or no code it does nothing. -/
def State.turn (s : State) (c : Issue) : Turn :=
  match Map.find s.groups c.g with
  | none => .nothing
  | some g =>
    let c := c.standing g
    if c.lanes = 0 then .nothing
    else
      let t := c.head g
      if !t.entered then .enter c
      else
        match (s.coreAt (coreKey g.die g.core)).fetch g.ctx t.pc with
        | some (len, w) => .run { c with word := w, len := len }
        | none => .nothing

/-- A path stands at the issue stage. -/
def State.stand (s : State) (c : Issue) (rest : List Issue) : State := { s with cur := some c, issue := rest }

/-- After an entry: the path goes on to its first instruction, unless the clause has not let it in. -/
def State.afterEntry (s : State) (c : Issue) : State :=
  let g := s.groupAt c.g
  let s : State := { s with cur := none }
  if (c.head g).entered then { s with issue := c :: s.issue } else s

/-- After an instruction the issue stage is empty. -/
def State.afterRun (s : State) : State := { s with cur := none }

/-- Runs the instruction that stands at the issue stage: what the decoder reads, or the illegal word (R39). -/
noncomputable def runWord (c : Issue) (s : State) : Out :=
  match decode c.word with
  | .ok i _ => exec i s
  | .illegal _ _ => exec (.illegalInstruction (BitVec.ofNat 32 c.word)) s

/-! ### The choice of a quarter (R246, R247, R296) -/

/-- The state after a path's turn, through the entry to its clause and the instruction behind it. -/
noncomputable def State.tryPath (c : Issue) : Nat → State → State
  | 0, s => s
  | n + 1, s =>
    match s.turn c with
    | .nothing => s
    | .enter c =>
      match exec .clauseBegin (s.stand c []) with
      | .next t => if (t.afterEntry c).issue = [] then t.afterEntry c else State.tryPath c n (t.afterEntry c)
      | _ => s
    | .run c =>
      match runWord c (s.stand c []) with
      | .next t => t.afterRun
      | _ => s

/-- The lanes of a path that a try leaves waiting at their instruction: an interlock, the range scoreboard or a busy unit holds it. A path
that waits for its return addresses has issued. -/
def State.heldBack (s : State) (k : Nat) (p : Lanes) : Lanes :=
  maskOf (fun l => p.getLsbD l && decide (((s.groupAt k).thread l).stall ≠ .none ∧ ((s.groupAt k).thread l).stall ≠ .retAddr))

/-- Tests the paths of an active group (R246): one whose next instruction cannot issue in this clock is left waiting for its cause and is
no candidate; a try of one that can issue changes nothing. -/
noncomputable def State.testPaths (s : State) (k : Nat) : State :=
  (pathsOf (s.groupAt k) 32 (s.candidates (s.groupAt k))).foldl (fun s p =>
    let t := State.tryPath { g := k, lanes := p } 2 s
    if t.heldBack k p = 0 then s else { t with issue := s.issue, cur := s.cur }) s

/-- Passes over the groups without a candidate, in the order given, to the first that has one (R296). -/
noncomputable def State.findGroup (s : State) : List Nat → State × Option Nat
  | [] => (s, none)
  | k :: l =>
    if s.mayIssue (s.groupAt k) then
      let s := s.testPaths k
      if s.candidates (s.groupAt k) = 0 then s.findGroup l else (s, some k)
    else s.findGroup l

/-- A quarter issues for a group: the issue is counted (R297), the ages of the candidates that are not chosen rise, and its one or two paths
stand to issue (R246, R247). -/
def State.issueFor (s : State) (qk k : Nat) : State :=
  let g := s.groupAt k
  let m := s.candidates g
  let ps := chosenPaths g m
  let idle := m &&& ~~~ (ps.foldl (fun x p => x ||| p) 0)
  let s := (s.setQuarter qk { s.quarterAt qk with last := k }).modGroup k (fun x =>
    { x with issues := x.issues + 1 }.mapThreads idle (fun t => { t with age := t.age + 1 }))
  let s := (s.tallyCore (coreKey g.die g.core) .issues 1).tallyCore (coreKey g.die g.core) .dualIssues (if ps.length = 2 then 1 else 0)
  { s with issue := ((upto 0 ps.length).zip ps).map (fun e =>
      { g := k, lanes := e.2, second := decide (e.1 = 1), pre := if e.1 = 1 then some g.regs else none }) }

/-- A quarter issues for the first active group after the one it last issued for that has a candidate (R296). -/
noncomputable def State.openIssue (s : State) (qk : Nat) : State :=
  match s.findGroup (s.quarterAt qk).order with
  | (s, none) => s
  | (s, some k) => s.issueFor qk k

/-! ### The outside world -/

/-- The die of a struck cell. -/
def State.cellDie (s : State) (sp : Space) (key : Nat) : Nat :=
  match sp with
  | .tile => (s.teamAt (key / 2 ^ 19)).die
  | .slot => key / 2 ^ 23 / 4
  | _ => dieOf sp key

/-- Data bits of an element change in storage (R135): it keeps its residue, which is a mismatch unless the new data happen to have it. -/
def Regs.strike (r : Regs) (reg lane : Nat) (bits : Word) : Regs :=
  let key := reg * 32 + lane
  let old := if reg < 96 then r.main reg lane else if reg < 104 then r.opfile (reg - 96) lane else r.latch lane
  let held := (Map.find r.upset key).getD (old.toNat % 3)
  let x := old ^^^ bits
  let r := if reg < 96 then { r with v := Map.set r.v 0 key x }
    else if reg < 104 then { r with o := Map.set r.o 0 ((reg - 96) * 32 + lane) x }
    else { r with lr := Map.set r.lr 0 lane x }
  { r with upset := if x.toNat % 3 = held then Map.erase r.upset key else Map.put r.upset key held }

/-- A strike (R136): a mismatch at the writeback of an element, which is poisoned, with a machine check; a parity mismatch, which a read
will find; data that change in storage; or a cell that ECC cannot correct, which scrubbing finds later. -/
def State.strike (s : State) : Strike → State
  | .register g reg lane =>
    let s := s.modGroup g (fun x => { x with regs := { x.regs with poison := (reg * 32 + lane) :: x.regs.poison } })
    if reg < 0x80 then s.raiseAsync g { cls := .datapath, aux := reg } {} else s
  | .upset g reg lane bits => s.modGroup g (fun x => { x with regs := x.regs.strike reg lane bits })
  | .cell sp key =>
    let x := Config.corrupted s.draws
    let s : State := { s with draws := s.draws + 1, bad := (sp, key) :: s.bad.filter (· ≠ (sp, key)) }
    let s : State := match sp with
      | .tile => { s with tiles := Map.set s.tiles 0 key (BitVec.ofNat 32 x) }
      | .slot => s
      | _ => s.setMem sp (Map.set (s.memOf sp) 0 key (BitVec.ofNat 8 x))
    if sp = .hbm then s else s.send 0 5 (.scrubEccError (s.cellDie sp key) (eccSub sp) key)

/-- What an input changes; one that is an event of the table is put in flight. There are 16 channels (R317), a die that has dumped takes no
packet (R325), and firmware that runs may append digests to the log, never remove one (R321). -/
def State.input (s : State) : Input → State
  | .event e => s.at_ s.now 5 e
  | .command chan c => if chan < 16 then s.modChan chan (fun x => { x with inbox := x.inbox ++ [c] }) else s
  | .packet port p =>
    if (s.die (port / 2)).mode = .dumped then s
    else (s.modFabric port (fun x => { x with inbox := x.inbox ++ [p] })).at_ s.now 5 (.fabricPacketReceive port)
  | .strike k => s.strike k
  | .damage link n => s.modLink link (fun x => { x with noise := x.noise ++ [n] })
  | .digest die d => if (s.die die).mode = .running then s.modDie die (fun x => { x with log := x.log ++ [d] }) else s

/-- Takes the first input that has come. -/
def State.takeInput (s : State) : Option State :=
  match s.inputs.find? (fun e => decide (e.1 ≤ s.now)) with
  | some e => some ({ s with inputs := s.inputs.erase e }.input e.2)
  | none => none

/-! ### The turn of the clock -/

/-- The die whose clocks a timer in flight counts. -/
def State.timerDie (s : State) : Ev → Option Nat
  | .retentionTimeout c => (Map.find s.retained c).map (·.die)
  | .faultDeliveryTimeout g => (Map.find s.groups g).map (·.die)
  | .streamResendTimeout k => some (endDie (k / 2 ^ 21))
  | .pdsRetransmit port => some (port / 2)
  | .channelATimeout link => some (link / 3)
  | _ => none

/-- Puts off by one module clock the timers of a die in the stretched half of its clock (R323). -/
def State.stretch (s : State) (die : Nat) : State :=
  let mine := fun (d : Due) => decide (s.now ≤ d.at_ ∧ s.timerDie d.ev = some die)
  (s.pending.filter mine).foldl (fun s d => s.at_ (d.at_ + 1) d.prio d.ev) { s with pending := s.pending.filter (fun d => !mine d) }

/-- One module clock of a die: under the damper it is half of a stretched clock, but no more than 600 clocks are stretched in a
pre-emption halt (R310, R323). -/
def State.tickDie (s : State) (die : Nat) : State :=
  let d := s.die die
  let halting := (s.contexts.filter (fun e => decide (e.1 / 65536 = die) && (match e.2.stage with
    | .halting _ => true
    | _ => false))).map (·.1)
  let full := halting.any (fun k => decide ((s.ctxAt k).stretched ≥ 600))
  let beyond := d.droop && halting.any (fun k => decide ((s.ctxAt k).stretched = 600))
  if d.mode = .dumped then s
  else if d.droop ∧ ¬ full ∧ ¬ d.skip then (s.setDie die { d with skip := true }).stretch die
  else
    let stretched := d.droop && d.skip
    let s := s.setDie die { d with
      clock := d.clock + 1, skip := false, damper := if stretched then d.damper + 1 else d.damper
      damperOverruns := if beyond then d.damperOverruns + 1 else d.damperOverruns }
    let s := halting.foldl (fun s k => s.modCtx k (fun c => { c with
      stretched := if stretched || (beyond && decide (c.stretched = 600)) then c.stretched + 1 else c.stretched })) s
    let s := if beyond then (upto 0 24).foldl (fun s c => s.tallyCore (coreKey die c) .heldDamper 1) s else s
    if stretched then (upto 0 24).foldl (fun s c => s.tallyCore (coreKey die c) .damperClocks 1) s else s

/-- Counts how many clocks of its die each grid's next plot has been blocked (R301). -/
def State.countBlocked (s : State) : State :=
  { s with grids := s.grids.map (fun e => if (s.die e.2.die).skip then e else (e.1, { e.2 with
      blocked := if s.plotOpen e.1 e.2 && (s.position e.2).isNone then e.2.blocked + 1 else 0 })) }

/-- Adds an event that stands due now, unless the condition fails or the event is already in flight. -/
def State.due (s : State) (c : Bool) (prio : Nat) (e : Ev) : State := if c && !s.inFlight e then s.at_ s.now prio e else s

/-- The events of a group. -/
def State.groupEvents (s : State) (k : Nat) (g : Group) : State :=
  if g.set = .ended ∨ (s.die g.die).skip then s
  else
    let clock := (s.die g.die).clock
    let q := s.quarterAt (coreKey g.die g.core * 4 + g.quarter)
    let s := s.due (s.fallowDue k g) (100 + g.gidx) (.fallowReturn k)
    let s := s.due (g.threads.any (fun t => s.wakes g t.2) && decide (g.set ≠ .halted) && !g.saved) 20 (.witnessWake k)
    let s := s.due (g.threads.any (fun t => match t.2.stall with
      | .rcfg r _ _ => t.2.live && !s.ringBusy g.team r
      | _ => false)) 20 (.rcfgComplete k)
    let s := s.due (s.poolDue g) 30 (.poolArrival k)
    let s := s.due (decide (s.departing k g ≠ 0)) 25 (.threadDepart k)
    let s := s.due (g.threads.any (fun t => joinFull g t.2 || joinExpired g clock t.2) && !g.saved) 20 (.joinBoundExpiry k)
    let s := s.due (decide (g.set = .active ∧ g.issues ≥ 1024 ∧ q.ready ≠ [])) 60 (.timeSliceExpiry k)
    let s := s.due (s.groupDone g) 40 (.groupEnd k)
    if g.set = .halted ∨ g.saved ∨ g.pend ≠ [] ∨ !s.ctxRuns g.die g.ctx then s
    else
      g.threads.foldl (fun s t =>
        if t.2.live && decide (t.2.park = .none) then
          match (s.coreAt (coreKey g.die g.core)).missingCode g.ctx t.2 with
          | some va =>
            let e := Ev.codeLineFill (coreKey g.die g.core) g.ctx (va / 128 * 128)
            if s.inFlight e then s else s.send 0 5 e
          | none => s
        else s) s

/-- The events of a core. -/
def State.coreEvents (s : State) (ck : Nat) (c : Core) : State :=
  let die := ck / 24
  let clock := (s.die die).clock
  if (s.die die).skip then s else
  let s := s.due (s.ticketDue ck) 15 (.ticketSettle ck)
  let s := s.due (s.regsDue ck) 50 (match c.regReqs.head? with
    | some { refill := true, .. } => .registerRefill ck
    | _ => .registerGrant ck)
  if !s.packs die (ck % 24) then s
  else
    let head := ((s.queueAt (arrivalKey die (ck % 24))).claim 0 1).2.1 ≠ []
    let s := s.due (decide head && decide (c.packer.staged.length < 128)) 31000000 (.packerStage ck)
    let s := s.due (decide (c.packer.ready ≠ []) || (decide (clock % 32 = 0) && decide (c.packer.staged ≠ []))) 70 (.packerWindowEmit ck)
    s.due (decide (clock % 32 = 0) && c.packer.starved clock && (s.victim die (ck % 24)).isSome) 80 (.groupEvict ck)

/-- The events of a die: launches, and at the first clock of a window the flue, with the directory's own choice of an entry to
evict. -/
def State.dieEvents (s : State) (die : Nat) : State :=
  let d := s.die die
  if d.mode ≠ .running ∨ d.skip then s
  else
    let s := s.due (s.launchDue die) 35000000 (.launchStart die)
    let s := s.due (s.nextPlot die).isSome 200 (.plotDispatch die)
    if d.clock % 32 ≠ 0 then s
    else
      let s := s.due (d.snaps.any (fun e => decide (e.1 + 2 = d.clock / 32))) 3 (.flueApply die)
      let s := s.due true 90000000 (.flueSnapshot die)
      let lines := (d.dir.filter (fun e => decide (e.2.sharers ≠ 0))).map (·.1)
      if lines = [] then s
      else
        let (n, s) := s.drawChoice (lines.length + 1)
        match lines[n]? with
        | some line => (s.tallyDie die (sliceUnit (line % 24)) .directoryEvictions 1).due true 8 (.directoryEviction die line)
        | none => s

/-- The events of a grid. -/
def State.gridEvents (s : State) (gid : Nat) (x : Grid) : State :=
  let s := s.due (x.travel && (s.travelReady gid x || (decide (x.stage = .running) && s.ctxRuns x.die x.ctx && s.threadRoom x))) 190 (.travelLaunchStart gid)
  let s := s.due (s.gridDue gid x) 90 (.gridEnd gid)
  s.due (s.preemptDue gid x) 210 (.preemptTrigger gid)

/-- Every event whose condition stands at the start of a clock. -/
def State.conditions (s : State) : State :=
  let s := s.groups.foldl (fun s e => s.groupEvents e.1 e.2) s
  let s := s.quarters.foldl (fun s e => s.due (decide (0 < e.2.room ∧ e.2.ready ≠ []) && !(s.die (e.1 / 96)).skip) 10 (.activeEntry e.1)) s
  let s := s.cores.foldl (fun s e => s.coreEvents e.1 e.2) s
  let s := (upto 0 Config.dieCount).foldl (fun s d => s.dieEvents d) s
  let s := s.teams.foldl (fun s e => s.due (s.teamDue e.1 e.2) 85 (.teamCompletion e.1)) s
  let s := s.grids.foldl (fun s e => s.gridEvents e.1 e.2) s
  let s := s.contexts.foldl (fun s e => (s.due (s.saveDue e.1) 220 (.contextSave e.1)).due (s.restoreDue e.1) 215 (.launchUnitRestore e.1)) s
  s.channels.foldl (fun s e => match e.2.inbox with
    | c :: _ => s.due (s.chimReady e.1 c) 5 (s.chimEvent e.1 c)
    | [] => s) s

/-- Registers granted to a path are its own until it issues or no thread stands there any more (R130). -/
def Group.keepGrants (g : Group) : Group := { g with grants := g.grants.filter (fun e => g.threads.any (fun t => t.2.live && decide (t.2.pc = e.1))) }

/-- The end of one clock and the start of the next. -/
def State.tick (s : State) : State :=
  let s := (s.cores.foldl (fun s e => s.runYokes e.1) s).settleRings.testPools
  let s : State := { s with now := s.now + 1 }
  let s := (upto 0 Config.dieCount).foldl (fun s d => s.tickDie d) s
  let s : State := { s with groups := s.groups.map (fun e => (e.1, (e.2.landFlags (s.die e.2.die).clock).keepGrants)) }
  let s := s.groups.foldl (fun s e => (s.joinImage e.1 e.2).clearStalls e.1 e.2) s
  let s := s.groups.foldl (fun s e => s.settleActive e.1 (s.groupAt e.1)) s
  let s := s.countBlocked
  let s : State := { s with quarters := s.quarters.map (fun e => (e.1, if (s.die (e.1 / 96)).skip then e.2 else { e.2 with room := 8 - e.2.active.length })) }
  ({ s with todo := (s.quarters.filter (fun e => decide (e.2.active ≠ []))).map (·.1) } : State).conditions

/-! ### What a step does -/

/-- The kinds of step: a chosen path's turn, a quarter's choice, an event that is due, an input, or the turn of the clock. -/
inductive StepKind where
  | path (c : Issue) (rest : List Issue)
  | quarter (qk : Nat) (rest : List Nat)
  | event (e : Ev) (rest : List Due)
  | input (s : State)
  | tick
  deriving DecidableEq, Repr

/-- Whether an event comes before the issues of its clock: the tables that the flue applies at the first clock of a window are read by
every instruction of that clock (R102, R333). -/
def Ev.opens : Ev → Bool
  | .flueApply _ => true
  | _ => false

/-- What the next step is: paths first, then what opens the clock, then the quarters that have not issued in it, then what is due, then
inputs. -/
def State.nextMove (s : State) : StepKind :=
  match s.issue, s.pending.find? (fun d => decide (d.at_ ≤ s.now) && d.ev.opens), s.todo, s.pending with
  | c :: rest, _, _, _ => .path c rest
  | [], some d, _, l => .event d.ev (l.erase d)
  | [], none, qk :: rest, _ => .quarter qk rest
  | [], none, [], d :: rest =>
    if d.at_ ≤ s.now then .event d.ev rest
    else match s.takeInput with
      | some s => .input s
      | none => .tick
  | [], none, [], [] => match s.takeInput with
    | some s => .input s
    | none => .tick

end Sys2Proof.Machine
end

