-- ==== Sys2Proof/Machine/Step.lean ====
section
/-!
DEFINITION. One step: a path's turn, a quarter's choice, an event, an input, or the turn of the clock. A clock is many steps: the
issue of its quarters first, path by path, then what is due in it.
-/
namespace Sys2Proof.Machine

/-- Goes on from a next state. -/
def Out.after (o : Out) (f : State → State) : Out :=
  match o with
  | .next s => .next (f s)
  | .fault r => .fault r
  | .refused r => .refused r

/-- One step. -/
noncomputable def step (s : State) : Host.Outcome State Fault Refusal :=
  match s.nextMove with
  | .path c rest =>
    match s.turn c with
    | .nothing => .next { s with issue := rest }
    | .enter c => Out.after (exec .clauseBegin (s.stand c rest)) (fun t => t.afterEntry c)
    | .run c => Out.after (runWord c (s.stand c rest)) State.afterRun
  | .quarter qk rest => .next ({ s with todo := rest }.openIssue qk)
  | .event e rest => exec e.toInstr { s with pending := rest }
  | .input s => .next s
  | .tick => .next s.tick

/-- The clause header of withFetchWord: one instruction, flag 0 in slot A and flag 1 in slot B (R17). -/
def fetchHeader : Nat := 0x010000FF

/-- The state in which an instruction is the next to run. A program reaches a core only through a launch: a control node places its
image, a launch packet starts a grid, and a plot of it is dispatched (R285 to R290). This stands for that load: context 0 on die 0 with
one MiB of scratchpad, one grid of one team that holds all tiles, team memory and eight rings of core 0, and its one group, inside a
clause of one instruction at address 0 whose line the core holds, chosen to issue. -/
def State.withFetchWord (s : State) (nbits w : Nat) : State :=
  let k := s.fresh
  let line : CodeLine := { ctx := 0, addr := 0, data := bytesOf 128 (fetchHeader + w % 2 ^ nbits * 2 ^ 64) }
  let thread := fun l => (l, { tid := l, live := true, pc := 8, entered := true, hdr0 := BitVec.ofNat 32 fetchHeader : Thread })
  let c := s.coreAt 0
  { s with
    fresh := k + 4
    issue := [{ g := k, lanes := 0xFFFFFFFF }]
    contexts := Map.put s.contexts 0 { desc := BitVec.ofNat 512 (1 * 2 ^ 338) }
    grids := Map.put s.grids (k + 1) {}
    plots := Map.put s.plots (k + 2) { grid := k + 1, teams := [k + 3] }
    teams := Map.put s.teams (k + 3) { grid := k + 1, plot := k + 2, size := Config.teamBytes, tiles := Config.coreTiles, nrings := 8 }
    groups := Map.put s.groups k { grid := k + 1, team := k + 3, set := .active, threads := (upto 0 32).map thread }
    cores := Map.put s.cores 0 { c with istore := line :: c.istore.filter (fun l => decide (l.ctx ≠ 0 ∨ l.addr ≠ 0)) }
    quarters := Map.put s.quarters 0 { active := [k] } }

end Sys2Proof.Machine
end

