-- ==== Sys2Proof/WellFormed.lean ====
section
/-!
DEFINITION. Well-formed terms of Instr. The fields of an encoded instruction have the widths of their encodings, so every such term is
well formed; a device event is when the units it names are units of the module (R1, R7, R203, R240, R317).
-/
namespace Sys2Proof

/-- A core is one of the 192 of the module (R1). -/
def Instr.coreOk : Instr → Bool
  | .handleTranslationReply core _ => decide (core < 192)
  | .packerStage core => decide (core < 192)
  | .packerWindowEmit core => decide (core < 192)
  | .groupEvict core => decide (core < 192)
  | .ticketSettle core => decide (core < 192)
  | .registerGrant core => decide (core < 192)
  | .registerRefill core => decide (core < 192)
  | .codeLineFill core _ _ => decide (core < 192)
  | _ => true

/-- A die is one of the eight (R1). -/
def Instr.dieOk : Instr → Bool
  | .withdrawalAnnounce die _ => decide (die < 8)
  | .directoryEviction die _ => decide (die < 8)
  | .flueSnapshot die => decide (die < 8)
  | .flueApply die => decide (die < 8)
  | .launchStart die => decide (die < 8)
  | .plotDispatch die => decide (die < 8)
  | .scrubEccError die _ _ => decide (die < 8)
  | .dieReset die => decide (die < 8)
  | .droopTrip die => decide (die < 8)
  | .damperRelease die => decide (die < 8)
  | .fatalDieError die _ => decide (die < 8)
  | .fallbackTableSwitch die => decide (die < 8)
  | _ => true

/-- A package link is one of three of a die (R7). -/
def Instr.linkOk : Instr → Bool
  | .flitReceive link => decide (link < 24)
  | .parityRequest link => decide (link < 24)
  | .parityResponse link => decide (link < 24)
  | .replayRequest link => decide (link < 24)
  | .linkAck link _ => decide (link < 24)
  | .linkRetrainComplete link => decide (link < 24)
  | .bufferEntryError link => decide (link < 24)
  | .withdrawalAnnounce _ link => decide (link < 24)
  | .channelATimeout link => decide (link < 24)
  | _ => true

/-- A fabric port is one of two of a die (R240). -/
def Instr.portOk : Instr → Bool
  | .fabricPacketReceive port => decide (port < 16)
  | .pdsRetransmit port => decide (port < 16)
  | .pauseFrameReceive port => decide (port < 16)
  | .fabricPortLinkChange port _ => decide (port < 16)
  | _ => true

/-- A chimney channel is one of 16 (R317). -/
def Instr.chanOk : Instr → Bool
  | .hbmWrite chan => decide (chan < 16)
  | .hbmRead chan => decide (chan < 16)
  | .enqueue chan => decide (chan < 16)
  | .dequeue chan => decide (chan < 16)
  | .mgmtRegisterWrite chan => decide (chan < 16)
  | .mgmtRegisterRead chan => decide (chan < 16)
  | .managementReset chan => decide (chan < 16)
  | .contextCreate chan => decide (chan < 16)
  | .contextDestroy chan => decide (chan < 16)
  | .tlbInvalidate chan => decide (chan < 16)
  | .queueTranslationWrite chan => decide (chan < 16)
  | .multicastGroupWrite chan => decide (chan < 16)
  | .queueDescriptorWrite chan => decide (chan < 16)
  | .accessListWrite chan => decide (chan < 16)
  | .queueMove chan => decide (chan < 16)
  | .preempt chan => decide (chan < 16)
  | .restore chan => decide (chan < 16)
  | .haltRetry chan => decide (chan < 16)
  | .haltSkip chan => decide (chan < 16)
  | .haltResumeCopy chan => decide (chan < 16)
  | .haltKill chan => decide (chan < 16)
  | .keyInstall chan => decide (chan < 16)
  | .counterAssign chan => decide (chan < 16)
  | .attestationQuote chan => decide (chan < 16)
  | .chimneyCommandDiscard chan => decide (chan < 16)
  | _ => true

/-- A queue is one of 4,096 of a port (R203). -/
def Instr.queueOk : Instr → Bool
  | .qresDeferredGrant queue => decide (queue < 131072)
  | .refillStep queue => decide (queue < 131072)
  | _ => true

/-- A quarter is one of four of a core (R1). -/
def Instr.quarterOk : Instr → Bool
  | .activeEntry quarter => decide (quarter < 768)
  | _ => true

/-- A context number has 16 bits, on one of eight dies (R126). -/
def Instr.ctxOk : Instr → Bool
  | .contextSave ctx => decide (ctx < 524288)
  | .launchUnitRestore ctx => decide (ctx < 524288)
  | .codeLineFill _ ctx _ => decide (ctx < 65536)
  | _ => true

/-- A code line stands at a multiple of 128 of the 48-bit address space (R66); a scratchpad line is one of those of a die (R104). -/
def Instr.lineOk : Instr → Bool
  | .codeLineFill _ _ addr => decide (addr < 2 ^ 48 ∧ addr % 128 = 0)
  | .directoryEviction _ line => decide (line < 2 ^ 20)
  | _ => true

/-- The structures that scrubbing covers have the sub codes 0 to 3 (R303). -/
def Instr.subOk : Instr → Bool
  | .scrubEccError _ sub _ => decide (sub ≤ 3)
  | _ => true

/-- A set of lanes has 32 (R2). -/
def Instr.lanesOk : Instr → Bool
  | .returnAddressSpillComplete _ lanes => decide (lanes < 2 ^ 32)
  | _ => true

/-- A well-formed term. -/
def Instr.wf (i : Instr) : Bool :=
  i.coreOk && i.dieOk && i.linkOk && i.portOk && i.chanOk && i.queueOk && i.quarterOk && i.ctxOk && i.lineOk && i.subOk && i.lanesOk

end Sys2Proof
end

