-- ==== Sys2Proof/Safety.lean ====
section
/-!
DEFINITION. The words in which claims about the machine are made: memories in canonical form and runs that do not stop, the path at
the issue stage and the conditions under which its instruction passes every check, and what an instruction leaves as it was.
-/
namespace Sys2Proof.Machine

/-! ### Memories and runs -/

/-- The four memories list only cells that differ from what an unlisted cell reads as, in rising order. -/
def State.memoriesWf (s : State) : Bool :=
  Map.wf 0 s.hbm && Map.wf 0 s.scratch && Map.wf 0 s.team && Map.wf 0 s.tiles

/-- A step from here goes on. -/
def State.Goes (s : State) : Prop := ∃ t, step s = .next t

/-- n steps from here go on, and the last one leads to t. -/
inductive Runs : Nat → State → State → Prop where
  | zero (s : State) : Runs 0 s s
  | succ (n : Nat) (s t u : State) (h : step s = .next t) (r : Runs n t u) : Runs (n + 1) s u

/-- A run that never stops. -/
def State.Safe (s : State) : Prop := ∀ n t, Runs n s t → t.Goes

/-! ### The path at the issue stage -/

/-- The path c of the group g stands at the issue stage, and its lanes are threads of the group (R246). -/
structure Stands (s : State) (c : Issue) (g : Group) : Prop where
  cur : s.cur = some c
  group : Map.find s.groups c.g = some g
  lanes : ∀ l, c.lanes.getLsbD l = true → (Map.find g.threads l).isSome = true

/-- The operands pass the checks that every instruction makes, nothing holds the path back, and nothing that it reads is struck. -/
structure Ready (s : State) (c : Issue) (g : Group) (o : Opnds) : Prop where
  /-- No reserved operand code (R30, R31). -/
  codes : codeFault o = none
  /-- The latch is valid where it is read (R32). -/
  latch : latchFault o c g = none
  /-- Nothing that is read is owed (R23). -/
  ready : readyFault o c g = none
  /-- The group stays within its ceiling (R129). -/
  ceiling : ceilingFault o g = none
  /-- Physical registers for the destinations can be had at once (R127, R130). -/
  room : allocStall s o c g = none
  /-- No poisoned element is read (R136). -/
  sound : poisonRead o c g = none
  /-- No element that is read has been upset in storage (R135). -/
  calm : upsetLanes o c g = 0

/-- As Ready, for an instruction that goes on to the next one: a travelling path that leaves its clause stays in a segment (R269). -/
structure Clear (s : State) (c : Issue) (g : Group) (o : Opnds) : Prop extends Ready s c g o where
  fall : fallFault s c g = none

/-- The instruction i completes, in a state t in which the group of the path is g'. -/
def Completes (i : Instr) (s : State) (c : Issue) (p : State → Group → Prop) : Prop :=
  ∃ t g', exec i s = .next t ∧ Map.find t.groups c.g = some g' ∧ p t g'

/-- The path has gone on: to the next instruction of its clause, or from the last one to the next clause header (R16, R20). -/
def MovedOn (c : Issue) (g g' : Group) : Prop :=
  ∀ l, c.lanes.getLsbD l = true →
    (g'.thread l).pc = if atLast (c.head g) then nextHeader c (c.head g) else ((g.thread l).pc + c.len) % 2 ^ 48

/-! ### What stays as it was -/

/-- Nothing of the state but group k is changed: every memory, every other group, every table (R39). -/
def OnlyGroup (s t : State) (k : Nat) : Prop :=
  t = { s with groups := t.groups } ∧ ∀ j, j ≠ k → Map.find t.groups j = Map.find s.groups j

/-- A lane-wise result: f l in register code d and in the latch of every lane of m, the flags fl raised for its writeback, the path gone on
(R31, R32, R53). A destination of 104 is the latch alone, and one of 105 is discarded but for the latch. -/
structure LaneResult (c : Issue) (g g' : Group) (d : Nat) (m : Lanes) (f : Nat → Word) (fl : FFlags) : Prop where
  value : ∀ l, m.getLsbD l = true → d < 104 → g'.regs.read d l = f l
  latch : ∀ l, m.getLsbD l = true → g'.regs.latch l = f l
  flags : g'.flagsNow = g.flagsNow ||| fl
  landed : g'.fflags = g.fflags
  moved : MovedOn c g g'

/-- Every register of the group keeps its value but for code d in the lanes m, the latch in the lanes lm, the scalars ss, the predicates
ps, and what the last-read bits release (R18, R128); so do the rounding mode, the completion flags and the A latch. -/
structure RegFrame (c : Issue) (g g' : Group) (o : Opnds) (ds : List Nat) (m lm : Lanes) (ss ps : List Nat) : Prop where
  codes : ∀ n l, n < 104 → l < 32 → (n ∈ ds → m.getLsbD l = false) → n ∉ releaseList o c g → g'.regs.read n l = g.regs.read n l
  latch : ∀ l, lm.getLsbD l = false → g'.regs.latch l = g.regs.latch l
  scalars : ∀ n, n ∉ ss → g'.regs.scalar n = g.regs.scalar n
  preds : ∀ n, n ∉ ps → g'.regs.pred n = g.regs.pred n
  rmode : g'.rmode = g.rmode
  cf : g'.cf = g.cf
  aLatch : g'.latch = g.latch

/-- What a lane-wise instruction does: under its conditions it completes with the result f in the lanes that its guard p passes, raises
the flags fl, and leaves everything else as it was. -/
def LaneGives (i : Instr) (o : Opnds) (d p : Nat) (ok : State → Group → Prop) (f : Issue → Group → Nat → Word)
    (fl : Issue → Group → FFlags) : Prop :=
  ∀ s c g, Stands s c g → Clear s c g o → ok s g →
    Completes i s c fun t g' =>
      LaneResult c g g' d (guardLanes c g p) (f c g) (fl c g) ∧
      RegFrame c g g' o [d] (guardLanes c g p) (guardLanes c g p) [] [] ∧ OnlyGroup s t c.g

/-- What an instruction with one scalar result does. A scalar is written once for the group (R34, R45). -/
def ScalarGives (i : Instr) (o : Opnds) (d : Nat) (ok : State → Group → Prop) (f : State → Issue → Group → Word) : Prop :=
  ∀ s c g, Stands s c g → Clear s c g o → ok s g →
    Completes i s c fun t g' =>
      g'.regs.scalar d = f s c g ∧ g'.fflags = g.fflags ∧ g'.flagsNow = g.flagsNow ∧ MovedOn c g g' ∧
      RegFrame c g g' o [] 0 0 [d] [] ∧ OnlyGroup s t c.g

/-- What an instruction with one predicate result does: the bits f in the lanes that its guard p passes; p0 keeps reading true in every
lane (R124). -/
def PredGives (i : Instr) (o : Opnds) (d p : Nat) (ok : State → Group → Prop) (f : Issue → Group → Lanes) (fl : Issue → Group → FFlags) : Prop :=
  ∀ s c g, Stands s c g → Clear s c g o → ok s g →
    Completes i s c fun t g' =>
      (∀ l, (guardLanes c g p).getLsbD l = true → d ≠ 0 → g'.regs.predAt d l = (f c g).getLsbD l) ∧
      (∀ l, l < 32 → (guardLanes c g p).getLsbD l = false → g'.regs.predAt d l = g.regs.predAt d l) ∧
      g'.regs.pred 0 = 0xFFFFFFFF ∧ g'.flagsNow = g.flagsNow ||| fl c g ∧ g'.fflags = g.fflags ∧ MovedOn c g g' ∧
      RegFrame c g g' o [] 0 0 [] [d] ∧ OnlyGroup s t c.g

end Sys2Proof.Machine
end

