-- ==== Sys2Proof/Certificates/Slice0/Obligations.lean ====
section
/-!
DEFINITION. The statements for the provers. Each says of the spec's rules what its docstring names; the definitions before each group are the
words in which it is said.
-/
namespace Sys2Proof.Machine

/-! ### Lane-wise instructions -/

/-- No further condition. -/
def always (_ : State) (_ : Group) : Prop := True

/-- The operands of a V3 instruction with guard p (R27, R138). -/
def v3Operands (p b a d : Nat) : Opnds := { reads := [a, b], preds := [p], dests := [d], first := relOf a, second := relOf b, guard := p }
/-- With the destination as a third source (R138). -/
def v3AccOperands (p b a d : Nat) : Opnds := { reads := [a, b, d], preds := [p], dests := [d], first := relOf a, second := relOf b, guard := p }
/-- The operands of a VX instruction (R27, R147). -/
def vxOperands (p a d : Nat) : Opnds := { reads := [a], preds := [p], dests := [d], first := relOf a, guard := p }

/-- A V3 integer instruction gives f of its two sources in every lane that its guard passes, and raises no flag. -/
def V3Int (i : BitVec 3 → BitVec 7 → BitVec 7 → BitVec 7 → Instr) (f : Word → Word → Word) : Prop :=
  ∀ p b a d, LaneGives (i p b a d) (v3Operands p.toNat b.toNat a.toNat d.toNat) d.toNat p.toNat always
    (fun c g l => f ((c.view g).read a.toNat l) ((c.view g).read b.toNat l)) (fun _ _ => 0)

/-- The flags of the lanes that a guard passes, ORed (R53). -/
def laneFlags (c : Issue) (g : Group) (p : Nat) (fl : Nat → FFlags) : FFlags := orFlags ((lanesOf (guardLanes c g p)).map fl)

/-- A V3 instruction whose result and flags depend on the rounding mode of its group (R48). -/
def V3Mode (i : BitVec 3 → BitVec 7 → BitVec 7 → BitVec 7 → Instr) (f : RMode → Word → Word → Word × FFlags) : Prop :=
  ∀ p b a d, LaneGives (i p b a d) (v3Operands p.toNat b.toNat a.toNat d.toNat) d.toNat p.toNat always
    (fun c g l => (f (RMode.ofCode g.rmode) ((c.view g).read a.toNat l) ((c.view g).read b.toNat l)).1)
    (fun c g => laneFlags c g p.toNat fun l =>
      (f (RMode.ofCode g.rmode) ((c.view g).read a.toNat l) ((c.view g).read b.toNat l)).2)

/-- The same with the destination as accumulator, first (R138). -/
def V3Acc (i : BitVec 3 → BitVec 7 → BitVec 7 → BitVec 7 → Instr) (f : RMode → Word → Word → Word → Word × FFlags) : Prop :=
  ∀ p b a d, LaneGives (i p b a d) (v3AccOperands p.toNat b.toNat a.toNat d.toNat) d.toNat p.toNat always
    (fun c g l => (f (RMode.ofCode g.rmode) ((c.view g).read d.toNat l) ((c.view g).read a.toNat l) ((c.view g).read b.toNat l)).1)
    (fun c g => laneFlags c g p.toNat fun l =>
      (f (RMode.ofCode g.rmode) ((c.view g).read d.toNat l) ((c.view g).read a.toNat l) ((c.view g).read b.toNat l)).2)

/-- An FP32 result as a register element. -/
def asWord (r : Nat × FFlags) : Word × FFlags := (BitVec.ofNat 32 r.1, r.2)

/-- A 16-bit operation on both halves of an element (R51). -/
def bothHalves (f : Nat → Nat → Nat × FFlags) (x y : Word) : Word × FFlags :=
  let lo := f (x.toNat % 65536) (y.toNat % 65536)
  let hi := f (x.toNat / 65536) (y.toNat / 65536)
  (BitVec.ofNat 16 hi.1 ++ BitVec.ofNat 16 lo.1, lo.2 ||| hi.2)

/-- The second source of a short instruction: a register, or the latch where L is set (R25). -/
def shortRight (l : BitVec 1) (vs : BitVec 5) : Nat := if l = 1 then 104 else vs.toNat

/-- A short instruction acts as the V3 one with va = vd and no guard; L = 1 asks for vs = 0 (R25). -/
def ShortInt (i : BitVec 1 → BitVec 5 → BitVec 5 → Instr) (f : Word → Word → Word) : Prop :=
  ∀ l vs vd, LaneGives (i l vs vd) (v3Operands 0 (shortRight l vs) vd.toNat vd.toNat) vd.toNat 0 (fun _ _ => l = 1 → vs = 0)
    (fun c g k => f ((c.view g).read vd.toNat k) ((c.view g).read (shortRight l vs) k)) (fun _ _ => 0)

def ShortMode (i : BitVec 1 → BitVec 5 → BitVec 5 → Instr) (f : RMode → Word → Word → Word × FFlags) : Prop :=
  ∀ l vs vd, LaneGives (i l vs vd) (v3Operands 0 (shortRight l vs) vd.toNat vd.toNat) vd.toNat 0 (fun _ _ => l = 1 → vs = 0)
    (fun c g k => (f (RMode.ofCode g.rmode) ((c.view g).read vd.toNat k) ((c.view g).read (shortRight l vs) k)).1)
    (fun c g => laneFlags c g 0 fun k => (f (RMode.ofCode g.rmode) ((c.view g).read vd.toNat k) ((c.view g).read (shortRight l vs) k)).2)

/-- A VI instruction: f of one source in every active lane (R144). -/
def ViGives (i : Instr) (a d : Nat) (f : Word → Word) : Prop :=
  LaneGives i (vxOperands 0 a d) d 0 always (fun c g l => f ((c.view g).read a l)) (fun _ _ => 0)

/-- A VX instruction: f of one source in every lane that its guard passes (R147). -/
def VxInt (i : BitVec 3 → BitVec 7 → BitVec 7 → Instr) (f : Word → Word) : Prop :=
  ∀ p a d, LaneGives (i p a d) (vxOperands p.toNat a.toNat d.toNat) d.toNat p.toNat always
    (fun c g l => f ((c.view g).read a.toNat l)) (fun _ _ => 0)

def VxMode (i : BitVec 3 → BitVec 7 → BitVec 7 → Instr) (f : RMode → Word → Word × FFlags) : Prop :=
  ∀ p a d, LaneGives (i p a d) (vxOperands p.toNat a.toNat d.toNat) d.toNat p.toNat always
    (fun c g l => (f (RMode.ofCode g.rmode) ((c.view g).read a.toNat l)).1)
    (fun c g => laneFlags c g p.toNat fun l => (f (RMode.ofCode g.rmode) ((c.view g).read a.toNat l)).2)

/-- The bytes of two registers as eight bytes, the low register first, and byte k of the selected result (R143). -/
def permutedByte (sel lo hi : Word) (k : Nat) : BitVec 8 :=
  let n := (sel.extractLsb' (4 * k) 3).toNat
  let y := (hi ++ lo).extractLsb' (8 * n) 8
  if sel.getLsbD (4 * k + 3) then (if y.msb then 0xFF else 0) else y

/-- A compare or predicate operation: its bit, ANDed with the old bit of the destination where acc is set (R145, R146). -/
def accumulated (acc : BitVec 1) (c : Issue) (g : Group) (pd : Nat) (m : Lanes) : Lanes :=
  if acc = 1 then (c.view g).pred pd &&& m else m

/-- The operands of a compare. -/
def vpOperands (acc : BitVec 1) (p b a pd : Nat) : Opnds :=
  { reads := [a, b], preds := p :: (if acc = 1 then [pd] else []), first := relOf a, second := relOf b, guard := p }

/-- An integer compare of R145 with condition n. -/
def ComparesBy (i : BitVec 1 → BitVec 3 → BitVec 7 → BitVec 7 → BitVec 3 → BitVec 3 → Instr) (n : BitVec 3) (r : Word → Word → Bool) : Prop :=
  ∀ acc p b a pd, PredGives (i acc p b a n pd) (vpOperands acc p.toNat b.toNat a.toNat pd.toNat) pd.toNat p.toNat always
    (fun c g => accumulated acc c g pd.toNat (maskOf fun l => r ((c.view g).read a.toNat l) ((c.view g).read b.toNat l)))
    (fun _ _ => 0)

/-- What an FP32 compare answers for two operands, and whether it raises IV (R145). -/
def fpAnswer (n : Nat) (x y : Word) : Bool × FFlags :=
  let quiet := decide (n = 0 ∨ n = 1 ∨ n = 6 ∨ n = 7)
  let snan := (fp32.value x.toNat).isSnan || (fp32.value y.toNat).isSnan
  match fcompare x.toNat y.toNat with
  | none => (decide (n = 1 ∨ n = 6), if snan || !quiet then flagIV else 0)
  | some o => (decide (n = 7) || (decide (n = 0 ∨ n = 3 ∨ n = 5) && decide (o = .eq)) || (decide (n = 1 ∨ n = 2 ∨ n = 3) && decide (o = .lt)) ||
      (decide (n = 1 ∨ n = 4 ∨ n = 5) && decide (o = .gt)), 0)

end Sys2Proof.Machine

open Sys2Proof Sys2Proof.Machine

/-- R139: every V3 integer instruction's result, with everything it leaves unchanged. Products and differences are exact before they wrap, a
shift count of 32 or more gives zero, or the sign for SHRA. -/
def Obligations.IntegerResults : Prop :=
  V3Int .iadd (fun x y => x + y) ∧ V3Int .isub (fun x y => x - y) ∧ V3Int .imul (fun x y => x * y) ∧
  V3Int .imulhs (fun x y => (x.signExtend 64 * y.signExtend 64).extractLsb' 32 32) ∧
  V3Int .imulhn (fun x y => (x.zeroExtend 64 * y.zeroExtend 64).extractLsb' 32 32) ∧
  V3Int .imins (fun x y => if y.slt x then y else x) ∧ V3Int .imaxs (fun x y => if x.slt y then y else x) ∧
  V3Int .iminn (fun x y => if y.ult x then y else x) ∧ V3Int .imaxn (fun x y => if x.ult y then y else x) ∧
  V3Int .and (fun x y => x &&& y) ∧ V3Int .or (fun x y => x ||| y) ∧ V3Int .xor (fun x y => x ^^^ y) ∧
  V3Int .andn (fun x y => x &&& ~~~ y) ∧
  V3Int .shl (fun x y => x <<< (y.toNat % 256)) ∧ V3Int .shrl (fun x y => x >>> (y.toNat % 256)) ∧
  V3Int .shra (fun x y => x.sshiftRight (y.toNat % 256)) ∧
  V3Int .rotl (fun x y => (x <<< (y.toNat % 32)) ||| (x >>> (32 - y.toNat % 32))) ∧
  V3Int .iabsd (fun x y => if x.slt y then y - x else x - y) ∧
  V3Int .fcpys (fun x y => y.extractLsb' 31 1 ++ x.extractLsb' 0 31)

/-- R140: the FP32 instructions under the group's mode, with the flags they raise. -/
def Obligations.FloatResults : Prop :=
  V3Mode .fadd (fun m x y => asWord (fp32.add m x.toNat y.toNat)) ∧ V3Mode .fsub (fun m x y => asWord (fp32.sub m x.toNat y.toNat)) ∧
  V3Mode .fmul (fun m x y => asWord (fp32.mul m x.toNat y.toNat)) ∧
  V3Acc .fmac (fun m z x y => asWord (fp32.fma m z.toNat x.toNat y.toNat)) ∧
  V3Mode .fmin (fun _ x y => asWord (fp32.minMax false x.toNat y.toNat)) ∧ V3Mode .fmax (fun _ x y => asWord (fp32.minMax true x.toNat y.toNat)) ∧
  V3Mode .fscale (fun m x y => asWord (fp32.scale m x.toNat y.toInt))

/-- R25: every short instruction acts as its V3 form with va = vd, vb = the source and no guard. -/
def Obligations.ShortResults : Prop :=
  (∀ l vs vd, LaneGives (.movShort l vs vd)
    { reads := [shortRight l vs], preds := [0], dests := [vd.toNat], second := relOf (shortRight l vs) } vd.toNat 0
    (fun _ _ => l = 1 → vs = 0) (fun c g k => (c.view g).read (shortRight l vs) k) (fun _ _ => 0)) ∧
  ShortInt .iaddShort (fun x y => x + y) ∧ ShortInt .isubShort (fun x y => x - y) ∧ ShortInt .imulShort (fun x y => x * y) ∧
  ShortInt .andShort (fun x y => x &&& y) ∧ ShortInt .orShort (fun x y => x ||| y) ∧ ShortInt .xorShort (fun x y => x ^^^ y) ∧
  ShortInt .shlShort (fun x y => x <<< (y.toNat % 256)) ∧ ShortInt .shrlShort (fun x y => x >>> (y.toNat % 256)) ∧
  ShortInt .shraShort (fun x y => x.sshiftRight (y.toNat % 256)) ∧
  ShortMode .faddShort (fun m x y => asWord (fp32.add m x.toNat y.toNat)) ∧
  ShortMode .fsubShort (fun m x y => asWord (fp32.sub m x.toNat y.toNat)) ∧
  ShortMode .fmulShort (fun m x y => asWord (fp32.mul m x.toNat y.toNat)) ∧
  ShortMode .fmaxShort (fun _ x y => asWord (fp32.minMax true x.toNat y.toNat)) ∧
  ShortMode .fminShort (fun _ x y => asWord (fp32.minMax false x.toNat y.toNat))

/-- R51, R141: the packed instructions act on both halves of an element. -/
def Obligations.PackedResults : Prop :=
  V3Mode .hadd2 (fun m => bothHalves (fp16.add m)) ∧ V3Mode .hsub2 (fun m => bothHalves (fp16.sub m)) ∧
  V3Mode .hmul2 (fun m => bothHalves (fp16.mul m)) ∧ V3Mode .hmin2 (fun _ => bothHalves (fp16.minMax false)) ∧
  V3Mode .hmax2 (fun _ => bothHalves (fp16.minMax true)) ∧
  V3Acc .hfmac2 (fun m z x y =>
    let lo := fp16.fma m (z.toNat % 65536) (x.toNat % 65536) (y.toNat % 65536)
    let hi := fp16.fma m (z.toNat / 65536) (x.toNat / 65536) (y.toNat / 65536)
    (BitVec.ofNat 16 hi.1 ++ BitVec.ofNat 16 lo.1, lo.2 ||| hi.2)) ∧
  V3Mode .badd2 (fun m => bothHalves (bf16.add m)) ∧ V3Mode .bsub2 (fun m => bothHalves (bf16.sub m)) ∧
  V3Mode .bmul2 (fun m => bothHalves (bf16.mul m)) ∧ V3Mode .bmin2 (fun _ => bothHalves (bf16.minMax false)) ∧
  V3Mode .bmax2 (fun _ => bothHalves (bf16.minMax true)) ∧
  V3Acc .bfmac2 (fun m z x y =>
    let lo := bf16.fma m (z.toNat % 65536) (x.toNat % 65536) (y.toNat % 65536)
    let hi := bf16.fma m (z.toNat / 65536) (x.toNat / 65536) (y.toNat / 65536)
    (BitVec.ofNat 16 hi.1 ++ BitVec.ofNat 16 lo.1, lo.2 ||| hi.2))

/-- R142 to R144: selection, byte permutation and the immediate forms. A PRMT whose selector would be the latch or the discard code is no
case of this: it faults. -/
def Obligations.SelectionAndImmediates : Prop :=
  (∀ (p : BitVec 3) (b a d : BitVec 7), LaneGives (.sel p b a d)
    { reads := [a.toNat, b.toNat], preds := [0, p.toNat], dests := [d.toNat], first := relOf a.toNat, second := relOf b.toNat } d.toNat 0 always
    (fun c g l => if (c.view g).predAt p.toNat l then (c.view g).read a.toNat l else (c.view g).read b.toNat l) (fun _ _ => 0)) ∧
  (∀ (p : BitVec 3) (b a d : BitVec 7), LaneGives (.prmt p b a d)
    { reads := [a.toNat, b.toNat, d.toNat], preds := [p.toNat], dests := [d.toNat], first := relOf a.toNat, second := relOf b.toNat, guard := p.toNat } d.toNat p.toNat
    (fun _ _ => d ≠ 104 ∧ d ≠ 105)
    (fun c g l =>
      let b' := permutedByte ((c.view g).read d.toNat l) ((c.view g).read a.toNat l) ((c.view g).read b.toNat l)
      b' 3 ++ b' 2 ++ b' 1 ++ b' 0) (fun _ _ => 0)) ∧
  (∀ im a d, ViGives (.iaddi im a d) a.toNat d.toNat (fun x => x + im.signExtend 32)) ∧
  (∀ im a d, ViGives (.imuli im a d) a.toNat d.toNat (fun x => x * im.signExtend 32)) ∧
  (∀ im a d, ViGives (.andi im a d) a.toNat d.toNat (fun x => x &&& im.zeroExtend 32)) ∧
  (∀ im a d, ViGives (.ori im a d) a.toNat d.toNat (fun x => x ||| im.zeroExtend 32)) ∧
  (∀ im a d, ViGives (.xori im a d) a.toNat d.toNat (fun x => x ^^^ im.zeroExtend 32)) ∧
  (∀ k a d, ViGives (.shli k a d) a.toNat d.toNat (fun x => x <<< k.toNat)) ∧
  (∀ k a d, ViGives (.shrli k a d) a.toNat d.toNat (fun x => x >>> k.toNat)) ∧
  (∀ k a d, ViGives (.shrai k a d) a.toNat d.toNat (fun x => x.sshiftRight k.toNat)) ∧
  (∀ im a d, ViGives (.movhi im a d) a.toNat d.toNat (fun x => (im.zeroExtend 32 <<< 22) ||| (x &&& 0x3FFFFF))) ∧
  (∀ (im : BitVec 10) (d : BitVec 7), LaneGives (.movi im d) { preds := [0], dests := [d.toNat] } d.toNat 0 always
    (fun _ _ _ => im.signExtend 32) (fun _ _ => 0))

/-- R145, R146: the compares and the predicate operation, with the conditions of their tables; conditions 6 and 7 of the integer compares
and of PLOP are illegal and no case of this. -/
def Obligations.CompareResults : Prop :=
  ComparesBy .icmps 0 (fun x y => x == y) ∧ ComparesBy .icmps 1 (fun x y => x != y) ∧ ComparesBy .icmps 2 (fun x y => x.slt y) ∧
  ComparesBy .icmps 3 (fun x y => x.sle y) ∧ ComparesBy .icmps 4 (fun x y => y.slt x) ∧ ComparesBy .icmps 5 (fun x y => y.sle x) ∧
  ComparesBy .icmpn 0 (fun x y => x == y) ∧ ComparesBy .icmpn 1 (fun x y => x != y) ∧ ComparesBy .icmpn 2 (fun x y => x.ult y) ∧
  ComparesBy .icmpn 3 (fun x y => x.ule y) ∧ ComparesBy .icmpn 4 (fun x y => y.ult x) ∧ ComparesBy .icmpn 5 (fun x y => y.ule x) ∧
  (∀ (acc : BitVec 1) (p : BitVec 3) (b a : BitVec 7) (n pd : BitVec 3),
    PredGives (.fcmp acc p b a n pd) (vpOperands acc p.toNat b.toNat a.toNat pd.toNat) pd.toNat p.toNat always
      (fun c g => accumulated acc c g pd.toNat (maskOf fun l => (fpAnswer n.toNat ((c.view g).read a.toNat l) ((c.view g).read b.toNat l)).1))
      (fun c g => laneFlags c g p.toNat fun l => (fpAnswer n.toNat ((c.view g).read a.toNat l) ((c.view g).read b.toNat l)).2)) ∧
  (∀ (acc : BitVec 1) (p b a n pd : BitVec 3), n.toNat < 6 →
    PredGives (.plop acc p b a n pd) { preds := p.toNat :: (if acc = 1 then [pd.toNat, a.toNat, b.toNat] else [a.toNat, b.toNat]), guard := p.toNat } pd.toNat p.toNat always
      (fun c g =>
        let x := (c.view g).pred a.toNat
        let y := (c.view g).pred b.toNat
        accumulated acc c g pd.toNat (match n.toNat with
          | 0 => x &&& y
          | 1 => x ||| y
          | 2 => x ^^^ y
          | 3 => x &&& ~~~ y
          | 4 => x ||| ~~~ y
          | _ => ~~~ (x ^^^ y))) (fun _ _ => 0))

/-- R147, R148: the unary instructions, on bits and integers without a flag, on FP32 under the group's mode with the flags they raise. That
FSIN of a subnormal rounded towards zero gives the next smaller magnitude (log entry 32, against the last sentence of R50), and that one
rounding of the series is right (log entry 33), are the model's choice. -/
def Obligations.UnaryResults : Prop :=
  VxInt .fabs (fun x => 0#1 ++ x.extractLsb' 0 31) ∧ VxInt .fneg (fun x => ~~~ (x.extractLsb' 31 1) ++ x.extractLsb' 0 31) ∧
  VxInt .fexpn (fun x => fexpn x.toNat) ∧ VxInt .not (fun x => ~~~ x) ∧ VxInt .neg (fun x => -x) ∧
  VxInt .abs (fun x => if x.msb then -x else x) ∧
  VxInt .popc (fun x => BitVec.ofNat 32 ((List.range 32).filter x.getLsbD).length) ∧
  VxInt .clz (fun x => BitVec.ofNat 32 ((List.range 32).takeWhile fun k => !x.getMsbD k).length) ∧
  VxInt .brev (fun x => x.reverse) ∧ VxInt .sext8 (fun x => (x.truncate 8).signExtend 32) ∧
  VxInt .sext16 (fun x => (x.truncate 16).signExtend 32) ∧
  VxMode .frcp (fun m x => asWord (frcp m x.toNat)) ∧ VxMode .frsq (fun m x => asWord (frsq m x.toNat)) ∧
  VxMode .fsqrt (fun m x => asWord (fsqrt m x.toNat)) ∧ VxMode .fexp2 (fun m x => asWord (fexp2 m x.toNat)) ∧
  VxMode .flog2 (fun m x => asWord (flog2 m x.toNat)) ∧ VxMode .fsin (fun m x => asWord (fsin m x.toNat)) ∧
  VxMode .fcos (fun m x => asWord (fcos m x.toNat)) ∧ VxMode .ftanh (fun m x => asWord (ftanh m x.toNat)) ∧
  VxMode .ffloor (fun _ x => asWord (fp32.integral .rdn false x.toNat)) ∧ VxMode .fceil (fun _ x => asWord (fp32.integral .rup false x.toNat)) ∧
  VxMode .frint (fun m x => asWord (fp32.integral m true x.toNat))

namespace Sys2Proof.Machine

/-! ### Conversions -/

/-- What an instruction with a block of destination registers does: element k of a lane goes to register base + k, and nothing to the
latch (R127, R150, R152). -/
def BlockGives (i : Instr) (o : Opnds) (base n p : Nat) (ok : State → Group → Prop) (f : State → Issue → Group → Nat → Nat → Word × FFlags) : Prop :=
  ∀ s c g, Stands s c g → Clear s c g o → ok s g →
    Completes i s c fun t g' =>
      (∀ k l, k < n → (guardLanes c g p).getLsbD l = true → g'.regs.read (base + k) l = (f s c g k l).1) ∧
      g'.flagsNow = g.flagsNow ||| laneFlags c g p (fun l => orFlags ((List.range n).map fun k => (f s c g k l).2)) ∧ g'.fflags = g.fflags ∧ MovedOn c g g' ∧
      RegFrame c g g' o (block base n) (guardLanes c g p) 0 [] [] ∧ OnlyGroup s t c.g

/-- A mode field of CVT: 5 and 6 are reserved (R149). -/
def modeField (r : BitVec 3) (_ : State) (_ : Group) : Prop := r ≠ 5 ∧ r ≠ 6

/-- A CVT of one register to one register under the mode that its field names (R149, R150). -/
def CvtOne (i : BitVec 3 → BitVec 3 → BitVec 7 → BitVec 7 → Instr) (f : RMode → Word → Word × FFlags) : Prop :=
  ∀ p r a d, LaneGives (i p r a d) (vxOperands p.toNat a.toNat d.toNat) d.toNat p.toNat (modeField r)
    (fun c g l => (f (cvtMode r.toNat g) ((c.view g).read a.toNat l)).1)
    (fun c g => laneFlags c g p.toNat fun l => (f (cvtMode r.toNat g) ((c.view g).read a.toNat l)).2)

/-- A CVT of an eligible FP32 pair to the two halves of one register (R150). -/
def CvtPairIn (i : BitVec 3 → BitVec 3 → BitVec 7 → BitVec 7 → Instr) (fm : Fmt) : Prop :=
  ∀ p r a d, eligible a.toNat 2 = true →
    LaneGives (i p r a d)
      { reads := block a.toNat 2, preds := [p.toNat], dests := [d.toNat], first := (block a.toNat 2).filter (fun k => decide (k < 96))
        bases := baseOf (block a.toNat 2), guard := p.toNat } d.toNat p.toNat (modeField r)
      (fun c g l =>
        BitVec.ofNat 16 (fp32.convert fm (cvtMode r.toNat g) ((c.view g).read (a.toNat + 1) l).toNat).1 ++
        BitVec.ofNat 16 (fp32.convert fm (cvtMode r.toNat g) ((c.view g).read a.toNat l).toNat).1)
      (fun c g => laneFlags c g p.toNat fun l =>
        (fp32.convert fm (cvtMode r.toNat g) ((c.view g).read a.toNat l).toNat).2 |||
        (fp32.convert fm (cvtMode r.toNat g) ((c.view g).read (a.toNat + 1) l).toNat).2)

/-- A CVT of the two halves of one register to an FP32 pair (R150). -/
def CvtPairOut (i : BitVec 3 → BitVec 3 → BitVec 7 → BitVec 7 → Instr) (fm : Fmt) : Prop :=
  ∀ p r a d, d.toNat % 2 = 0 → d.toNat + 2 ≤ 96 →
    BlockGives (i p r a d) { reads := [a.toNat], preds := [p.toNat], dests := block d.toNat 2, first := relOf a.toNat, guard := p.toNat } d.toNat 2 p.toNat (modeField r)
      (fun _ c g k l => asWord (fm.convert fp32 (cvtMode r.toNat g) (((c.view g).read a.toNat l).extractLsb' (16 * k) 16).toNat))

/-- The conditions of an instruction that names descriptor f: no travelling-thread launch, and a valid descriptor of the layout
(R152, R158). -/
def usesDescriptor (f layout : Nat) (s : State) (g : Group) : Prop :=
  s.inTravel g = false ∧ descValid (s.fd g f) = true ∧ (descOf (s.fd g f)).layout = layout

/-- n FP32 registers of a lane to the codes of one register, code k at bit pitch · k, under the scale byte of vb (R151, R152). -/
def Quantizes (i : BitVec 3 → BitVec 7 → BitVec 7 → BitVec 7 → Instr) (n layout : Nat) : Prop :=
  ∀ f b a d s c g, eligible a.toNat n = true → Stands s c g →
    Clear s c g { reads := block a.toNat n ++ [b.toNat], dests := [d.toNat], first := (block a.toNat n).filter (fun k => decide (k < 96))
                  second := relOf b.toNat, bases := baseOf (block a.toNat n) } → usesDescriptor f.toNat layout s g →
    Completes (i f b a d) s c fun t g' =>
      let fd := descOf (s.fd g f.toNat)
      let code := fun l k => toNarrow fd (scaleByte ((c.view g).read b.toNat l).toNat) (fp32.value ((c.view g).read (a.toNat + k) l).toNat) (RMode.ofCode fd.round)
      LaneResult c g g' d.toNat c.lanes (fun l => BitVec.ofNat 32 (((List.range n).map fun k => (code l k).1 * 2 ^ (fd.pitch * k)).sum))
        (orFlags ((lanesOf c.lanes).map fun l => orFlags ((List.range n).map fun k => (code l k).2))) ∧
      RegFrame c g g' { reads := block a.toNat n ++ [b.toNat], dests := [d.toNat], first := (block a.toNat n).filter (fun k => decide (k < 96))
                        second := relOf b.toNat, bases := baseOf (block a.toNat n) } [d.toNat] c.lanes c.lanes [] [] ∧ OnlyGroup s t c.g

/-- The codes of one register of a lane to n FP32 registers (R151, R152). -/
def Dequantizes (i : BitVec 3 → BitVec 7 → BitVec 7 → BitVec 5 → Instr) (n layout : Nat) : Prop :=
  ∀ f b a q, n * q.toNat + n ≤ 96 →
    BlockGives (i f b a q) { reads := [a.toNat, b.toNat], dests := block (n * q.toNat) n, first := relOf a.toNat, second := relOf b.toNat }
      (n * q.toNat) n 0 (usesDescriptor f.toNat layout)
      (fun s c g k l => asWord (widen (descOf (s.fd g f.toNat)) (scaleByte ((c.view g).read b.toNat l).toNat) fp32
        ((descOf (s.fd g f.toNat)).elem ((c.view g).read a.toNat l).toNat k)))

/-! ### Lane exchanges -/

/-- A LANEX instruction that gives every active lane the same result (R155, R156). -/
def ReduxGives (i : BitVec 7 → BitVec 7 → Instr) (f : List Word → Word) : Prop :=
  ∀ a d, LaneGives (i a d) { reads := [a.toNat], dests := [d.toNat], first := relOf a.toNat } d.toNat 0 (fun _ _ => True)
    (fun c g _ => f ((lanesOf c.lanes).map ((c.view g).read a.toNat))) (fun _ _ => 0)

/-- A fold of an operation over a list that is not empty, from its first element (R155). -/
def foldFirst (f : Word → Word → Word) (l : List Word) : Word := l.tail.foldl f (l.headD 0)

/-- The 32 values of a register with the inactive lanes absent. -/
def laneValues (c : Issue) (g : Group) (a : Nat) : List (Option Nat) :=
  (List.range 32).map fun l => if c.lanes.getLsbD l then some ((c.view g).read a l).toNat else none

end Sys2Proof.Machine

/-- R149, R150: the CVT conversions, under the mode their field names. The destination pair of ops 6 and 7 is written as a block. That a
conversion to an integer is rounded first and its range is checked after that is the model's choice (log entry 93). -/
def Obligations.CvtResults : Prop :=
  CvtOne .cvtS32F32 (fun m x => toInt32 true m x.toNat) ∧ CvtOne .cvtN32F32 (fun m x => toInt32 false m x.toNat) ∧
  CvtOne .cvtF32S32 (fun m x => asWord (ofInt32 true m x)) ∧ CvtOne .cvtF32N32 (fun m x => asWord (ofInt32 false m x)) ∧
  CvtPairIn .cvtH2F32 fp16 ∧ CvtPairIn .cvtB2F32 bf16 ∧ CvtPairOut .cvtF32H2 fp16 ∧ CvtPairOut .cvtF32B2 bf16 ∧
  CvtOne .cvtB2H2 (fun m x => bothHalves (fun v _ => fp16.convert bf16 m v) x x) ∧
  CvtOne .cvtH2B2 (fun m x => bothHalves (fun v _ => bf16.convert fp16 m v) x x)

/-- R151 to R153: narrow conversions under a format descriptor and a scale byte, and the absolute maxima of clusters of 1, 8, 16 or 32 lanes
over blocks of 1, 2, 4 or 8 registers. -/
def Obligations.NarrowResults : Prop :=
  Quantizes .qnt4 4 0 ∧ Quantizes .qnt8 8 1 ∧ Dequantizes .dqnt4 4 0 ∧ Dequantizes .dqnt8 8 1 ∧
  (∀ (p : BitVec 3) (sl m : BitVec 2) (a d : BitVec 7), m = 0 ∨ (a.toNat % 2 ^ m.toNat = 0 ∧ a.toNat + 2 ^ m.toNat ≤ 96) →
    LaneGives (.amax p sl m a d)
      { reads := block a.toNat (2 ^ m.toNat), preds := [p.toNat], dests := [d.toNat]
        first := (block a.toNat (2 ^ m.toNat)).filter (fun k => decide (k < 96)), bases := baseOf (block a.toNat (2 ^ m.toNat)), guard := p.toNat } d.toNat p.toNat always
      (fun c g l =>
        let w := if sl = 0 then 1 else 4 * 2 ^ sl.toNat
        BitVec.ofNat 32 (maxMagnitude (((lanesOf (guardLanes c g p.toNat)).filter fun j => decide (j / w = l / w)).map fun j =>
          maxMagnitude ((List.range (2 ^ m.toNat)).map fun k => (((c.view g).read (a.toNat + k) j).extractLsb' 0 31).toNat)))) (fun _ _ => 0))

/-- R154 to R156: what each exchange between the lanes of a path gives. -/
def Obligations.LaneExchangeResults : Prop :=
  (∀ (m : BitVec 2) (b a d : BitVec 7), a ≠ 104 → LaneGives (.shfl m b a d)
    { reads := [a.toNat, b.toNat], dests := [d.toNat], first := relOf a.toNat, second := relOf b.toNat } d.toNat 0 (fun _ _ => True)
    (fun c g l =>
      let k := ((c.view g).read b.toNat l).toNat % 32
      let src := match m.toNat with
        | 0 => k
        | 1 => if k ≤ l then l - k else l
        | 2 => if l + k ≤ 31 then l + k else l
        | _ => l ^^^ k
      (c.view g).read a.toNat (if c.lanes.getLsbD src then src else l)) (fun _ _ => 0)) ∧
  (∀ (p : BitVec 3) (d : BitVec 7), LaneGives (.ballot p d) { preds := [p.toNat], dests := [d.toNat] } d.toNat 0 (fun _ _ => True)
    (fun c g _ => c.lanes &&& (c.view g).pred p.toNat) (fun _ _ => 0)) ∧
  (∀ (p q : BitVec 3), PredGives (.voteAny p q) { preds := [q.toNat] } p.toNat 0 (fun _ _ => True)
    (fun c g => if c.lanes &&& (c.view g).pred q.toNat = 0 then 0 else 0xFFFFFFFF) (fun _ _ => 0)) ∧
  (∀ (p q : BitVec 3), PredGives (.voteAll p q) { preds := [q.toNat] } p.toNat 0 (fun _ _ => True)
    (fun c g => if c.lanes &&& ~~~ (c.view g).pred q.toNat = 0 then 0xFFFFFFFF else 0) (fun _ _ => 0)) ∧
  (∀ (p q : BitVec 3), PredGives (.voteUni p q) { preds := [q.toNat] } p.toNat 0 (fun _ _ => True)
    (fun c g => if c.lanes &&& ~~~ (c.view g).pred q.toNat = 0 ∨ c.lanes &&& (c.view g).pred q.toNat = 0 then 0xFFFFFFFF else 0) (fun _ _ => 0)) ∧
  ReduxGives .reduxIadd (fun l => l.sum) ∧ ReduxGives .reduxImins (foldFirst fun x y => if y.slt x then y else x) ∧
  ReduxGives .reduxImaxs (foldFirst fun x y => if x.slt y then y else x) ∧ ReduxGives .reduxIminn (foldFirst fun x y => if y.ult x then y else x) ∧
  ReduxGives .reduxImaxn (foldFirst fun x y => if x.ult y then y else x) ∧ ReduxGives .reduxAnd (foldFirst fun x y => x &&& y) ∧
  ReduxGives .reduxOr (fun l => l.foldl (· ||| ·) 0) ∧ ReduxGives .reduxXor (fun l => l.foldl (· ^^^ ·) 0) ∧
  (∀ a d : BitVec 7, LaneGives (.reduxFadd a d) { reads := [a.toNat], dests := [d.toNat], first := relOf a.toNat } d.toNat 0 (fun _ _ => True)
    (fun c g _ => BitVec.ofNat 32 (treeReduce (fp32.add .rne) (laneValues c g a.toNat)).1)
    (fun c g => (treeReduce (fp32.add .rne) (laneValues c g a.toNat)).2)) ∧
  (∀ a d : BitVec 7, LaneGives (.reduxFmax a d) { reads := [a.toNat], dests := [d.toNat], first := relOf a.toNat } d.toNat 0 (fun _ _ => True)
    (fun c g _ => BitVec.ofNat 32 (treeReduce (fp32.minMax true) (laneValues c g a.toNat)).1)
    (fun c g => (treeReduce (fp32.minMax true) (laneValues c g a.toNat)).2)) ∧
  (∀ (k : BitVec 5) (a d : BitVec 7), a ≠ 104 → LaneGives (.readlane k a d)
    { readsAt := [(a.toNat, laneBit k.toNat)], dests := [d.toNat], first := relOf a.toNat } d.toNat 0 (fun _ _ => True)
    (fun c g _ => (c.view g).read a.toNat k.toNat) (fun _ _ => 0)) ∧
  (∀ (p : BitVec 3) (a d : BitVec 7) s c g, Stands s c g → Clear s c g { reads := [a.toNat], dests := [d.toNat], first := relOf a.toNat } →
    Completes (.matchLanes p a d) s c fun t g' =>
      let same := fun l => maskOf fun j => c.lanes.getLsbD j && decide ((c.view g).read a.toNat j = (c.view g).read a.toNat l)
      LaneResult c g g' d.toNat c.lanes same 0 ∧
      (∀ l, c.lanes.getLsbD l = true → p ≠ 0 → (g'.regs.predAt p.toNat l = true ↔ same l = c.lanes)) ∧
      RegFrame c g g' { reads := [a.toNat], dests := [d.toNat], first := relOf a.toNat } [d.toNat] c.lanes c.lanes [] [p.toNat] ∧ OnlyGroup s t c.g)

namespace Sys2Proof.Machine

/-! ### Scalars and special registers -/

/-- An SALU instruction (R160). -/
def SaluGives (i : BitVec 6 → BitVec 6 → BitVec 6 → Instr) (f : Word → Word → Word) : Prop :=
  ∀ b a d, ScalarGives (i b a d) { scalars := [a.toNat, b.toNat] } d.toNat always
    (fun _ c g => f ((c.view g).scalar a.toNat) ((c.view g).scalar b.toNat))

/-- The special registers, field by field (R126): in a travel launch %group is the slot, and %team and %plot are 0. -/
def specialTable (s : State) (c : Issue) (g : Group) : Nat → Word
  | 0 => BitVec.ofNat 32 (c.head g).tid
  | 1 => 0#27 ++ BitVec.ofNat 5 (lowLane c.lanes)
  | 2 => 0#22 ++ BitVec.ofNat 10 (if s.inTravel g then g.slot else g.gidx)
  | 3 => 0#16 ++ (if s.inTravel g then 0#16 else BitVec.ofNat 16 (s.teamAt g.team).index)
  | 4 => 0#12 ++ (if s.inTravel g then 0#20 else
      BitVec.ofNat 16 (s.plotAt (s.teamAt g.team).plot).index ++ BitVec.ofNat 4 (s.teamAt g.team).member)
  | 5 => 0#27 ++ BitVec.ofNat 5 g.core
  | 6 => 0#16 ++ BitVec.ofNat 13 s.module ++ BitVec.ofNat 3 g.die
  | 7 => 0#25 ++ BitVec.ofNat 7 g.held
  | 8 => 0#26 ++ g.flagsNow
  | 9 => 0#29 ++ BitVec.ofNat 3 g.rmode
  | _ => BitVec.ofNat 16 (s.ctxAt (ctxKey g.die g.ctx)).domain ++ BitVec.ofNat 16 g.ctx

/-- What a write of %fflags leaves: the written value, into which the raises that are still to be written back will be ORed (R53). -/
def FlagsWritten (g g' : Group) (f : FFlags) : Prop := g'.fflags = f ∧ g'.late = g.late

end Sys2Proof.Machine

/-- R160, R161: the scalar instructions. -/
def Obligations.ScalarResults : Prop :=
  SaluGives .sadd (fun x y => x + y) ∧ SaluGives .ssub (fun x y => x - y) ∧ SaluGives .smul (fun x y => x * y) ∧
  SaluGives .smulhn (fun x y => (x.zeroExtend 64 * y.zeroExtend 64).extractLsb' 32 32) ∧
  SaluGives .sand (fun x y => x &&& y) ∧ SaluGives .sor (fun x y => x ||| y) ∧ SaluGives .sxor (fun x y => x ^^^ y) ∧
  SaluGives .sshl (fun x y => x <<< (y.toNat % 256)) ∧ SaluGives .sshrl (fun x y => x >>> (y.toNat % 256)) ∧
  SaluGives .sshra (fun x y => x.sshiftRight (y.toNat % 256)) ∧
  SaluGives .smins (fun x y => if y.slt x then y else x) ∧ SaluGives .smaxs (fun x y => if x.slt y then y else x) ∧
  SaluGives .sminn (fun x y => if y.ult x then y else x) ∧ SaluGives .smaxn (fun x y => if x.ult y then y else x) ∧
  (∀ a d : BitVec 6, ScalarGives (.smov a d) { scalars := [a.toNat] } d.toNat always (fun _ c g => (c.view g).scalar a.toNat)) ∧
  (∀ (im : BitVec 18) (d : BitVec 6), ScalarGives (.saddi im d) { scalars := [d.toNat] } d.toNat always
    (fun _ c g => (c.view g).scalar d.toNat + im.signExtend 32)) ∧
  (∀ (im : BitVec 18) (d : BitVec 6), ScalarGives (.slit im d) {} d.toNat always (fun _ _ _ => im.signExtend 32)) ∧
  (∀ (im : BitVec 14) (d : BitVec 6), ScalarGives (.shi im d) { scalars := [d.toNat] } d.toNat always
    (fun _ c g => (im.zeroExtend 32 <<< 18) ||| ((c.view g).scalar d.toNat &&& 0x3FFFF)))

/-- R126, R162 to R164: scalar compares, moves from a lane to a scalar, and the special registers: what each reads as, field by field, and
what the two writable ones hold after a write. -/
def Obligations.SpecialRegisters : Prop :=
  (∀ (n : BitVec 1) (k : BitVec 3) (b a : BitVec 6) (p : BitVec 3), k.toNat < 6 →
    PredGives (.scmp n k b a p) { scalars := [a.toNat, b.toNat] } p.toNat 0 always
      (fun c g =>
        let x := (c.view g).scalar a.toNat
        let y := (c.view g).scalar b.toNat
        let less := if n = 1 then x.ult y else x.slt y
        let holds := match k.toNat with
          | 0 => x == y
          | 1 => x != y
          | 2 => less
          | 3 => less || x == y
          | 4 => !less && x != y
          | _ => !less
        if holds then 0xFFFFFFFF else 0) (fun _ _ => 0)) ∧
  (∀ (a : BitVec 7) (d : BitVec 6) s c g, Stands s c g → Clear s c g { readsAt := [(a.toNat, laneBit (lowLane c.lanes))], first := relOf a.toNat } →
    Completes (.v2sFirst a d) s c fun t g' =>
      g'.regs.scalar d.toNat = (c.view g).read a.toNat (lowLane c.lanes) ∧ MovedOn c g g' ∧
      RegFrame c g g' { readsAt := [(a.toNat, laneBit (lowLane c.lanes))], first := relOf a.toNat } [] 0 0 [d.toNat] [] ∧
      g'.fflags = g.fflags ∧ g'.flagsNow = g.flagsNow ∧ OnlyGroup s t c.g) ∧
  (∀ (k : BitVec 5) (a : BitVec 7) (d : BitVec 6), a ≠ 104 →
    ScalarGives (.v2sLane k a d) { readsAt := [(a.toNat, laneBit k.toNat)], first := relOf a.toNat } d.toNat always
      (fun _ c g => (c.view g).read a.toNat k.toNat)) ∧
  (∀ (n d : BitVec 6), n.toNat ≤ 10 → ScalarGives (.ssr n d) {} d.toNat always (fun s c g => specialTable s c g n.toNat)) ∧
  (∀ (n sl : BitVec 6) s c g, n = 8 ∨ n = 9 → Stands s c g → Clear s c g { scalars := [sl.toNat] } →
    (n = 9 → ((c.view g).scalar sl.toNat).toNat % 8 ≤ 4) →
    Completes (.ssw n sl) s c fun t g' =>
      FlagsWritten g g' (if n = 8 then ((c.view g).scalar sl.toNat).truncate 6 else g.fflags) ∧
      g'.rmode = (if n = 9 then ((c.view g).scalar sl.toNat).toNat % 8 else g.rmode) ∧ MovedOn c g g' ∧
      RegFrame c { g with rmode := g'.rmode } g' { scalars := [sl.toNat] } [] 0 0 [] [] ∧ OnlyGroup s t c.g) ∧
  (∀ (sl : BitVec 6) s c g, Stands s c g → Clear s c g { scalars := [sl.toNat] } →
    Completes (.sset sl) s c fun t g' =>
      FlagsWritten g g' (g.fflags ||| ((c.view g).scalar sl.toNat).truncate 6) ∧ MovedOn c g g' ∧
      RegFrame c g g' { scalars := [sl.toNat] } [] 0 0 [] [] ∧ OnlyGroup s t c.g) ∧
  (∀ (sl : BitVec 6) s c g, Stands s c g → Clear s c g { scalars := [sl.toNat] } →
    Completes (.sclr sl) s c fun t g' =>
      FlagsWritten g g' (g.fflags &&& ~~~ ((c.view g).scalar sl.toNat).truncate 6) ∧ MovedOn c g g' ∧
      RegFrame c g g' { scalars := [sl.toNat] } [] 0 0 [] [] ∧ OnlyGroup s t c.g)

/-- R157, R158, R316: format descriptors are written to and read from the team's registers, and a counter of the core is read into a pair of
scalars, as zero where it is not opened to the context. -/
def Obligations.DescriptorsAndCounters : Prop :=
  (∀ (f : BitVec 3) (sl : BitVec 6) s c g, Stands s c g → Clear s c g { scalars := [sl.toNat] } → s.inTravel g = false →
    descValid ((c.view g).scalar sl.toNat) = true → (Map.find s.teams g.team).isSome = true →
    Completes (.fdset f sl) s c fun t g' =>
      t.fd g f.toNat = (c.view g).scalar sl.toNat ∧ (∀ n, n ≠ f.toNat → t.fd g n = s.fd g n) ∧
      (∀ k, k ≠ g.team → Map.find t.teams k = Map.find s.teams k) ∧ MovedOn c g g' ∧ RegFrame c g g' { scalars := [sl.toNat] } [] 0 0 [] []) ∧
  (∀ (f : BitVec 3) (d : BitVec 6), ScalarGives (.fdget f d) {} d.toNat (fun s g => s.inTravel g = false) (fun s _ g => s.fd g f.toNat)) ∧
  (∀ (k : BitVec 3) (d : BitVec 6) s c g, d.toNat % 2 = 0 → Stands s c g → Clear s c g {} →
    Completes (.cntr k d) s c fun t g' =>
      let x := Map.get (s.coreAt (coreKey g.die g.core)).counters {} k.toNat
      let v : BitVec 64 := if x.reader = g.ctx then x.value.zeroExtend 64 else 0
      g'.regs.scalar d.toNat = v.extractLsb' 0 32 ∧ g'.regs.scalar (d.toNat + 1) = v.extractLsb' 32 32 ∧ MovedOn c g g' ∧
      RegFrame c g g' {} [] 0 0 [d.toNat, d.toNat + 1] [] ∧ OnlyGroup s t c.g)

namespace Sys2Proof.Machine

/-! ### Memory instructions -/

/-- The four memories are as they were. -/
def SameMemory (s t : State) : Prop := t.hbm = s.hbm ∧ t.scratch = s.scratch ∧ t.team = s.team ∧ t.tiles = s.tiles

/-- The completion flag k of a variable-latency instruction is named by its slot and has room (R21). -/
def namesFlag (c : Issue) (g : Group) (f : BitVec 1) (k : Nat) : Prop := slotFlag (c.head g) (f = 1) = some k ∧ g.flagOf k < 63

/-- What an access needs of the state: no struck cell, every address in its space and aligned, a witness that may be presented, no
overlapping copy, and 32 free line requests (R84, R111, R189, R335). -/
structure Reaches (s : State) (sp : Space) (c : Issue) (g : Group) (addr : Nat → Nat) (n : Nat) (write : Bool) (w : Option (Nat → Wit)) : Prop where
  sound : s.bad = []
  travel : sp = .team → s.inTravel g = false
  addresses : accessLate s sp c g addr n w = none
  free : accessStall s sp g ((lanesOf c.lanes).map fun l => (s.keyOf sp g (addr l) n).getD 0) n write = none
  lines : (s.coreAt (coreKey g.die g.core)).lineUsed + 32 ≤ Config.lineRequests

/-- The registers a load of n bytes writes (R110). -/
def loadDests (d n : Nat) : List Nat := if n = 8 ∨ n = 16 then block d (n / 4) else [d]

/-- A load issues: its operation is outstanding with what it was issued with, its flag has risen and its destinations are owed; no memory
changes (R21, R23, R110, R112). -/
def LoadIssues (i : BitVec 1 → BitVec 3 → BitVec 6 → BitVec 7 → BitVec 7 → Instr) (kind : OpKind) (sp : Space) : Prop :=
  ∀ f sl w a d k s c g, sl.toNat ≤ 4 → d ≠ 104 →
    (3 ≤ sl.toNat → d.toNat % (accSize sl.toNat / 4) = 0 ∧ d.toNat + accSize sl.toNat / 4 ≤ 96) →
    Stands s c g →
    Clear s c g (({ reads := [a.toNat], dests := loadDests d.toNat (accSize sl.toNat), first := relOf a.toNat } : Opnds).present w.toNat) →
    namesFlag c g f k →
    Reaches s sp c g (fun l => ((c.view g).read a.toNat l).toNat) (accSize sl.toNat) false (some fun l => (c.view g).wit w.toNat l) →
    Completes (i f sl w a d) s c fun t g' =>
      (∃ o, Map.find t.memOps s.fresh = some o ∧ o.kind = kind ∧ o.space = sp ∧ o.g = c.g ∧ o.dst = d.toNat ∧ o.size = accSize sl.toNat ∧
        o.flag = some k ∧ o.lanes.map (·.lane) = lanesOf c.lanes) ∧
      g'.flagOf k = g.flagOf k + 1 ∧
      (∀ r ∈ (loadDests d.toNat (accSize sl.toNat)).filterMap regNo, ∀ l, c.lanes.getLsbD l = true → (g'.owedLanes r).getLsbD l = true) ∧
      MovedOn c g g' ∧ SameMemory s t

/-- The data of a lane of a store: the low n bytes of its registers, the first the lowest (R110, R113). -/
def storeData (r : Regs) (d n l : Nat) : Nat :=
  (((List.range (max 1 (n / 4))).map fun i => (r.read (d + i) l).toNat * 2 ^ (32 * i)).sum) % 256 ^ n

/-- The operands of a store. -/
def storeOperands (a d n wp : Nat) : Opnds :=
  { reads := a :: dataCodes d n, dests := if wp = 63 then [] else witCodes wp, first := relOf a
    second := (dataCodes d n).filter fun x => decide (x < 96), bases := baseOf (dataCodes d n), sends := true }

/-- The flag of an instruction that may return nothing: then FS is 0 and no flag is named, else it names k (R21, R113, R117). -/
def mayName (c : Issue) (g : Group) (f : BitVec 1) (returns : Prop) (k : Nat) : Prop :=
  (returns → namesFlag c g f k) ∧ (¬ returns → f = 0)

/-- The memory key of a lane's address. -/
def laneKey (s : State) (sp : Space) (c : Issue) (g : Group) (a n l : Nat) : Nat := (s.keyOf sp g ((c.view g).read a l).toNat n).getD 0

/-- The active lanes that go to the same line as lane l, in lane order (R335). -/
def lineLanes (s : State) (sp : Space) (c : Issue) (g : Group) (a n l : Nat) : List Nat :=
  (lanesOf c.lanes).filter fun i => decide (laneKey s sp c g a n i / 128 = laneKey s sp c g a n l / 128)

/-- A store of the scratchpad issues: each lane's bytes are on their way to the slice of their line, in a message with the other lanes of
that line in lane order, and each line takes a line request and leaves a write record of the whole path (R113, R114, R201, R271, R335). The stored bytes change when the message is
performed, which is its own statement. -/
def ScratchStoreIssues : Prop :=
  ∀ (f : BitVec 1) (sl : BitVec 3) (w : BitVec 6) (a d : BitVec 7) k s c g, sl.toNat ≤ 4 →
    (3 ≤ sl.toNat → eligible d.toNat (accSize sl.toNat / 4) = true) →
    Stands s c g → Clear s c g (storeOperands a.toNat d.toNat (accSize sl.toNat) w.toNat) → mayName c g f (w.toNat ≠ 63) k →
    Reaches s .scratch c g (fun l => ((c.view g).read a.toNat l).toNat) (accSize sl.toNat) true none →
    Completes (.sts f sl w a d) s c fun t g' =>
      (∀ l, c.lanes.getLsbD l = true →
        ∃ n line op lanes x r, Map.find t.mesh n = some (.write g.die g.core line op lanes (accSize sl.toNat) x) ∧
          lanes.map (·.lane) = lineLanes s .scratch c g a.toNat (accSize sl.toNat) l ∧
          (∃ y ∈ lanes, y.lane = l ∧ y.arg = storeData (c.view g) d.toNat (accSize sl.toNat) l ∧
            some y.addr = s.scratchAddr g ((c.view g).read a.toNat l).toNat (accSize sl.toNat) ∧ lineOf y.addr = line) ∧
          Map.find t.wrecs x = some r ∧ r.groups = [c.g] ∧ r.lanes = c.lanes) ∧
      (w.toNat ≠ 63 → g'.flagOf k = g.flagOf k + 1) ∧ MovedOn c g g' ∧ SameMemory s t

/-- Every access of a context on a group's core to one core's team memory has been performed or sent, so that the next may be (R98). -/
def TurnOpenAt (s : State) (g : Group) (ctx target : Nat) : Prop := ∀ n, s.turnFree g.die g.core ctx target n = true

/-- The same for the group's own context and its own core. -/
def TurnOpen (s : State) (g : Group) : Prop := TurnOpenAt s g g.ctx (coreKey g.die g.core)

/-- No RDCE of the core has still to read an index list that a write at this place would change (R84, R90, R98). -/
def NoListAhead (s : State) (g : Group) (key : Nat) : Prop := ∀ n, s.listAhead g.die g.core n key (key + 16) = false

/-- The active lanes whose address lies in the team memory of the group's own core, in lane order. -/
def ownLanes (s : State) (c : Issue) (g : Group) (a n : Nat) : List Nat :=
  (lanesOf c.lanes).filter fun l => decide (laneKey s .team c g a n l / 2 ^ 21 = coreKey g.die g.core)

/-- A load of team memory: every lane whose address lies in the own core's, with a satisfied witness, has its value at issue, and once every
lane has the completion is due; every other lane with a satisfied witness is in a message through the window to the member core that its
address names, with the other lanes of its line (R96, R98, R112, R335). -/
def TeamLoadGoes : Prop :=
  ∀ (f : BitVec 1) (sl : BitVec 3) (w : BitVec 6) (a d : BitVec 7) k s c g, sl.toNat ≤ 4 → d ≠ 104 →
    (3 ≤ sl.toNat → d.toNat % (accSize sl.toNat / 4) = 0 ∧ d.toNat + accSize sl.toNat / 4 ≤ 96) →
    Stands s c g →
    Clear s c g (({ reads := [a.toNat], dests := loadDests d.toNat (accSize sl.toNat), first := relOf a.toNat } : Opnds).present w.toNat) →
    namesFlag c g f k →
    Reaches s .team c g (fun l => ((c.view g).read a.toNat l).toNat) (accSize sl.toNat) false (some fun l => (c.view g).wit w.toNat l) →
    (∀ l, c.lanes.getLsbD l = true → s.satisfied g.die g.core ((c.view g).wit w.toNat l) = true ∧
      TurnOpenAt s g (s.teamAt g.team).ctx (laneKey s .team c g a.toNat (accSize sl.toNat) l / 2 ^ 21)) →
    Completes (.ldt f sl w a d) s c fun t _ =>
      (∀ l ∈ ownLanes s c g a.toNat (accSize sl.toNat), ∃ o y, Map.find t.memOps s.fresh = some o ∧ y ∈ o.lanes ∧ y.lane = l ∧ y.st = .done ∧
        y.val = readNat s.team (laneKey s .team c g a.toNat (accSize sl.toNat) l) (accSize sl.toNat)) ∧
      (ownLanes s c g a.toNat (accSize sl.toNat) = lanesOf c.lanes → t.inFlight (.loadComplete s.fresh) = true) ∧
      (∀ l, c.lanes.getLsbD l = true → l ∉ ownLanes s c g a.toNat (accSize sl.toNat) →
        ∃ m lanes, Map.find t.mesh m = some (.window g.die g.core (laneKey s .team c g a.toNat (accSize sl.toNat) l / 2 ^ 21 % 24) s.fresh .load lanes
            (accSize sl.toNat) 0) ∧
          lanes.map (·.lane) = lineLanes s .team c g a.toNat (accSize sl.toNat) l ∧
          ∃ y ∈ lanes, y.lane = l ∧ y.addr = laneKey s .team c g a.toNat (accSize sl.toNat) l) ∧ SameMemory s t

/-- No load of the group that was issued before has still to read a lane's bytes (R197). -/
def NoneBehind (s : State) (k l p n : Nat) : Prop :=
  ∀ e ∈ s.memOps, e.2.g = k → e.2.space = .scratch → e.2.kind.isLoad = true → ∀ b ∈ e.2.lanes, b.lane = l → b.st ≠ .done →
    ¬ (b.addr < p + n ∧ p < b.addr + e.2.size)

/-- A lane of a load of the scratchpad, with a satisfied witness, whose line the core holds Shared has its value from it at issue; so has one
of an LDRO without a witness whose line the read-only cache holds for the launch (R104, R109, R112). -/
def HitsGive : Prop :=
  ∀ (f : BitVec 1) (sl : BitVec 3) (w : BitVec 6) (a d : BitVec 7) k s c g l p, sl.toNat ≤ 4 → d ≠ 104 →
    (3 ≤ sl.toNat → d.toNat % (accSize sl.toNat / 4) = 0 ∧ d.toNat + accSize sl.toNat / 4 ≤ 96) →
    Stands s c g →
    Clear s c g (({ reads := [a.toNat], dests := loadDests d.toNat (accSize sl.toNat), first := relOf a.toNat } : Opnds).present w.toNat) →
    namesFlag c g f k →
    Reaches s .scratch c g (fun l => ((c.view g).read a.toNat l).toNat) (accSize sl.toNat) false (some fun l => (c.view g).wit w.toNat l) →
    c.lanes.getLsbD l = true → s.scratchAddr g ((c.view g).read a.toNat l).toNat (accSize sl.toNat) = some p →
    NoneBehind s c.g l p (accSize sl.toNat) →
    (∀ x n, Map.find (s.coreAt (coreKey g.die g.core)).l1 (lineOf p) = some (.shared x n) →
      s.satisfied g.die g.core ((c.view g).wit w.toNat l) = true →
      Completes (.lds f sl w a d) s c fun t _ => ∃ o y, Map.find t.memOps s.fresh = some o ∧ y ∈ o.lanes ∧ y.lane = l ∧ y.st = .done ∧
        y.val = lineBytes x p (accSize sl.toNat)) ∧
    (∀ x, w.toNat = 63 → Map.find (s.coreAt (coreKey g.die g.core)).ro (roKey g.grid (lineOf p)) = some x →
      roKey g.grid (lineOf p) ∉ (s.coreAt (coreKey g.die g.core)).roBypass →
      Completes (.ldro f sl w a d) s c fun t _ => ∃ o y, Map.find t.memOps s.fresh = some o ∧ y ∈ o.lanes ∧ y.lane = l ∧ y.st = .done ∧
        y.val = lineBytes x p (accSize sl.toNat))

/-- A store of one lane to its own core's team memory: the bytes are written at once, one count is given, and every other byte of every
memory stays (R98, R113, R190). -/
def TeamStoreIssues : Prop :=
  ∀ (f : BitVec 1) (sl : BitVec 3) (w : BitVec 6) (a d : BitVec 7) k s c g l key, sl.toNat ≤ 4 → c.lanes = laneBit l → l < 32 →
    (3 ≤ sl.toNat → eligible d.toNat (accSize sl.toNat / 4) = true) →
    Stands s c g → Clear s c g (storeOperands a.toNat d.toNat (accSize sl.toNat) w.toNat) → mayName c g f (w.toNat ≠ 63) k →
    Reaches s .team c g (fun l => ((c.view g).read a.toNat l).toNat) (accSize sl.toNat) true none →
    TurnOpen s g → s.homeRoom g.die (coreHome g.core) 1 = true →
    s.keyOf .team g ((c.view g).read a.toNat l).toNat (accSize sl.toNat) = some key → key / 2 ^ 21 = coreKey g.die g.core → NoListAhead s g key →
    Completes (.stt f sl w a d) s c fun t g' =>
      readNat t.team key (accSize sl.toNat) = storeData (c.view g) d.toNat (accSize sl.toNat) l ∧
      (∀ j, (j < key ∨ key + accSize sl.toNat ≤ j) → Map.get t.team 0 j = Map.get s.team 0 j) ∧
      t.hbm = s.hbm ∧ t.scratch = s.scratch ∧ t.tiles = s.tiles ∧
      (t.die g.die).givenOf (coreHome g.core) = (s.die g.die).givenOf (coreHome g.core) + 1 ∧
      (w.toNat ≠ 63 → g'.flagOf k = g.flagOf k + 1) ∧ MovedOn c g g'

/-- The state lets a store or an atomic to team memory go at once: every core's turn has come, no index list is ahead of it, and the own home
has room for a count for each of the own core's lanes (R84, R98, R190). -/
structure TeamOpen (s : State) (c : Issue) (g : Group) (a n : Nat) : Prop where
  turn : ∀ l, c.lanes.getLsbD l = true → TurnOpenAt s g g.ctx (laneKey s .team c g a n l / 2 ^ 21)
  lists : ∀ l ∈ ownLanes s c g a n, NoListAhead s g (laneKey s .team c g a n l)
  room : ownLanes s c g a n ≠ [] → s.homeRoom g.die (coreHome g.core) (ownLanes s c g a n).length = true

/-- Every lane of a window access is in a message to the member core that its address names, with the other lanes of its line in lane order
(R96, R335). -/
def SentThrough (s t : State) (c : Issue) (g : Group) (a n : Nat) (kind : OpKind) (arg cmp : Nat → Nat) : Prop :=
  ∀ l, c.lanes.getLsbD l = true → l ∉ ownLanes s c g a n →
    ∃ m op lanes x r, Map.find t.mesh m = some (.window g.die g.core (laneKey s .team c g a n l / 2 ^ 21 % 24) op kind lanes n x) ∧
      lanes.map (·.lane) = lineLanes s .team c g a n l ∧
      (∃ y ∈ lanes, y.lane = l ∧ y.addr = laneKey s .team c g a n l ∧ y.arg = arg l ∧ y.cmp = cmp l) ∧
      Map.find t.wrecs x = some r ∧ r.groups = [c.g] ∧ r.lanes = c.lanes

/-- A store to team memory: the lanes of the own core are written at once, in lane order, each with a count of its own, and nothing else of
any memory changes; the lanes of other member cores are on their way through the window (R96, R98, R113, R114, R190). -/
def TeamStoreGoes : Prop :=
  ∀ (f : BitVec 1) (sl : BitVec 3) (w : BitVec 6) (a d : BitVec 7) k s c g, sl.toNat ≤ 4 →
    (3 ≤ sl.toNat → eligible d.toNat (accSize sl.toNat / 4) = true) →
    Stands s c g → Clear s c g (storeOperands a.toNat d.toNat (accSize sl.toNat) w.toNat) → mayName c g f (w.toNat ≠ 63) k →
    Reaches s .team c g (fun l => ((c.view g).read a.toNat l).toNat) (accSize sl.toNat) true none → TeamOpen s c g a.toNat (accSize sl.toNat) →
    Completes (.stt f sl w a d) s c fun t g' =>
      t.team = (ownLanes s c g a.toNat (accSize sl.toNat)).foldl (fun m l =>
        writeBytes m (laneKey s .team c g a.toNat (accSize sl.toNat) l) (bytesOf (accSize sl.toNat) (storeData (c.view g) d.toNat (accSize sl.toNat) l))) s.team ∧
      t.hbm = s.hbm ∧ t.scratch = s.scratch ∧ t.tiles = s.tiles ∧
      (t.die g.die).givenOf (coreHome g.core) = (s.die g.die).givenOf (coreHome g.core) + (ownLanes s c g a.toNat (accSize sl.toNat)).length ∧
      SentThrough s t c g a.toNat (accSize sl.toNat) .store (storeData (c.view g) d.toNat (accSize sl.toNat)) (fun _ => 0) ∧
      (w.toNat ≠ 63 → g'.flagOf k = g.flagOf k + 1) ∧ MovedOn c g g'

/-- The registers of an atomic's data: one, or the pair of compare and new value, or pairs of 64-bit ones (R115). -/
def atomicRegs (op : AtomicOp) (size : Nat) : Nat := (if op = .cas then 2 else 1) * (size / 4)

def atomicDests (size vq : Nat) : List Nat :=
  if vq < 24 then (if size = 8 then [4 * vq, 4 * vq + 1] else [4 * vq]) ++ [4 * vq + 2, 4 * vq + 3] else []

def atomicOperands (op : AtomicOp) (size a b vq : Nat) : Opnds :=
  let codes := if atomicRegs op size > 1 then block b (atomicRegs op size) else [b]
  { reads := a :: codes, dests := atomicDests size vq, first := relOf a, second := codes.filter (fun x => decide (x < 96)), bases := baseOf codes
    sends := true }

/-- The operand of an atomic in a lane, and what CAS compares with. -/
def atomicArg (r : Regs) (op : AtomicOp) (size b l : Nat) : Nat :=
  let at_ := if op = .cas then 1 else 0
  if size = 8 then r.readPair (b + 2 * at_) l else (r.read (b + at_) l).toNat
def atomicCmp (r : Regs) (op : AtomicOp) (size b l : Nat) : Nat :=
  if op = .cas then (if size = 8 then r.readPair b l else (r.read b l).toNat) else 0

/-- What both spaces ask of an atomic's fields. -/
def atomicFields (op : AtomicOp) (size : Nat) (b : BitVec 7) (q : BitVec 5) : Prop :=
  (q.toNat < 24 ∨ q.toNat = 31) ∧ (atomicRegs op size > 1 → eligible b.toNat (atomicRegs op size) = true)

/-- An atomic on the scratchpad issues: each lane's operation is on its way to the slice of its line, with the other lanes of the line in lane
order (R115, R116, R335). -/
def ScratchAtomicIssues (i : BitVec 1 → BitVec 7 → BitVec 7 → BitVec 5 → Instr) (op : AtomicOp) (size : Nat) : Prop :=
  ∀ f b a q k s c g, atomicFields op size b q →
    Stands s c g → Clear s c g (atomicOperands op size a.toNat b.toNat q.toNat) → mayName c g f (q.toNat ≠ 31) k →
    Reaches s .scratch c g (fun l => ((c.view g).read a.toNat l).toNat) size true none →
    Completes (i f b a q) s c fun t g' =>
      (∀ l, c.lanes.getLsbD l = true →
        ∃ n line k' lanes x, Map.find t.mesh n = some (.atomic g.die g.core line k' op lanes size x) ∧
          lanes.map (·.lane) = lineLanes s .scratch c g a.toNat size l ∧
          (∃ y ∈ lanes, y.lane = l ∧ y.arg = atomicArg (c.view g) op size b.toNat l ∧ y.cmp = atomicCmp (c.view g) op size b.toNat l ∧
            some y.addr = s.scratchAddr g ((c.view g).read a.toNat l).toNat size ∧ lineOf y.addr = line)) ∧
      (q.toNat ≠ 31 → g'.flagOf k = g.flagOf k + 1) ∧ MovedOn c g g' ∧ SameMemory s t

/-- An atomic of one lane on its own core's team memory: the new value is stored at once, or nothing where the operation writes nothing, and
every other byte stays (R98, R116, R117). -/
def TeamAtomicIssues (i : BitVec 1 → BitVec 7 → BitVec 7 → BitVec 5 → Instr) (op : AtomicOp) (size : Nat) : Prop :=
  ∀ f b a q k s c g l key, atomicFields op size b q → c.lanes = laneBit l → l < 32 →
    Stands s c g → Clear s c g (atomicOperands op size a.toNat b.toNat q.toNat) → mayName c g f (q.toNat ≠ 31) k →
    Reaches s .team c g (fun l => ((c.view g).read a.toNat l).toNat) size true none →
    TurnOpen s g → s.homeRoom g.die (coreHome g.core) 1 = true →
    s.keyOf .team g ((c.view g).read a.toNat l).toNat size = some key → key / 2 ^ 21 = coreKey g.die g.core → NoListAhead s g key →
    Completes (i f b a q) s c fun t g' =>
      readNat t.team key size =
        ((op.apply size (readNat s.team key size) (atomicArg (c.view g) op size b.toNat l) (atomicCmp (c.view g) op size b.toNat l)).getD
          (readNat s.team key size)) % 256 ^ size ∧
      (∀ j, (j < key ∨ key + size ≤ j) → Map.get t.team 0 j = Map.get s.team 0 j) ∧
      t.hbm = s.hbm ∧ t.scratch = s.scratch ∧ t.tiles = s.tiles ∧ (q.toNat ≠ 31 → g'.flagOf k = g.flagOf k + 1) ∧ MovedOn c g g'

/-- What one lane of an atomic leaves of the memory that it meets (R116). -/
def atomicLane (op : AtomicOp) (size : Nat) (key arg cmp : Nat → Nat) (m : Map Byte) (l : Nat) : Map Byte :=
  match op.apply size (readNat m (key l) size) (arg l) (cmp l) with
  | some x => writeBytes m (key l) (bytesOf size x)
  | none => m

/-- An atomic on team memory: the lanes of the own core act at once, one after another in lane order, each on what the one before it has left,
and return what they have met; the lanes of other member cores are on their way through the window (R96, R98, R114 to R117). -/
def TeamAtomicGoes (i : BitVec 1 → BitVec 7 → BitVec 7 → BitVec 5 → Instr) (op : AtomicOp) (size : Nat) : Prop :=
  ∀ f b a q k s c g, atomicFields op size b q →
    Stands s c g → Clear s c g (atomicOperands op size a.toNat b.toNat q.toNat) → mayName c g f (q.toNat ≠ 31) k →
    Reaches s .team c g (fun l => ((c.view g).read a.toNat l).toNat) size true none → TeamOpen s c g a.toNat size →
    Completes (i f b a q) s c fun t g' =>
      t.team = (ownLanes s c g a.toNat size).foldl
        (atomicLane op size (laneKey s .team c g a.toNat size) (atomicArg (c.view g) op size b.toNat) (atomicCmp (c.view g) op size b.toNat)) s.team ∧
      t.hbm = s.hbm ∧ t.scratch = s.scratch ∧ t.tiles = s.tiles ∧
      (q.toNat ≠ 31 → ∃ o, Map.find t.memOps s.fresh = some o ∧ o.flag = some k ∧ ∀ l ∈ ownLanes s c g a.toNat size, ∃ y ∈ o.lanes, y.lane = l ∧ y.st = .done ∧
        y.val = readNat (((ownLanes s c g a.toNat size).takeWhile (fun i => decide (i ≠ l))).foldl
          (atomicLane op size (laneKey s .team c g a.toNat size) (atomicArg (c.view g) op size b.toNat) (atomicCmp (c.view g) op size b.toNat)) s.team)
          (laneKey s .team c g a.toNat size l) size) ∧
      SentThrough s t c g a.toNat size (.atomic op) (atomicArg (c.view g) op size b.toNat) (atomicCmp (c.view g) op size b.toNat) ∧
      (q.toNat ≠ 31 → g'.flagOf k = g.flagOf k + 1) ∧ MovedOn c g g'

/-! ### Completions of memory operations -/

/-- The event e ends the outstanding operation op: it answers a next state in which the operation is gone and its flag has dropped by
one, its group is g', and no memory has changed (R21, R112). -/
def EndsOp (e : Instr) (s : State) (op : Nat) (o : MemOp) (g : Group) (p : Group → Prop) : Prop :=
  ∃ t g', exec e s = .next t ∧ Map.find t.memOps op = none ∧ Map.find t.groups o.g = some g' ∧
    (∀ k, o.flag = some k → g'.flagOf k = g.flagOf k - 1) ∧ p g' ∧ SameMemory s t ∧
    (∀ j, j ≠ op → Map.find t.memOps j = Map.find s.memOps j) ∧ (∀ j, j ≠ o.g → Map.find t.groups j = Map.find s.groups j)

/-! ### Explicit spill slots -/

def spillOperands (b n : Nat) : Opnds :=
  { whole := block b (n + 1), first := block b (n + 1), bases := baseOf (block b (n + 1)), sends := true }

/-- The 128 bytes of a register: lane l's element in bytes 4l to 4l + 3, the lowest first (R119). -/
def registerBytes (r : Regs) (n : Nat) : List Byte := (List.range 32).flatMap fun l => (List.range 4).map fun k => (r.read n l).extractLsb' (8 * k) 8

/-- The writes of n slots from a first, one after another, each at the slot's place in the group's spill stack (R118, R119). -/
def slotsWritten (s : State) (g : Group) (slot : Nat) (x : Nat → List Byte) : Nat → State
  | 0 => s
  | i + 1 => let u := slotsWritten s g slot x i
    u.spillWrite g (u.spillBase g + 128 * (slot + i)) (x i)

/-- The reads of n slots from a first: what stands in a slot that the group has written, and zero for the others (R119). -/
def slotsRead (s : State) (g : Group) (slot : Nat) : Nat → List Nat × State
  | 0 => ([], s)
  | i + 1 =>
    let (l, u) := slotsRead s g slot i
    if slot + i ∈ g.spillWritten then (l ++ [(u.spillRead g (u.spillBase g + 128 * (slot + i)) 128).1], (u.spillRead g (u.spillBase g + 128 * (slot + i)) 128).2)
    else (l ++ [0], u)

/-- The place in the scratchpad of line i of those that a prefetch asks for in lane l, where it lies in the partition (R120). -/
def prefetched (s : State) (c : Issue) (g : Group) (a l i : Nat) : Option Nat :=
  s.scratchAddr g (((c.view g).read a l).toNat / 128 * 128 + 128 * i) 1

end Sys2Proof.Machine

/-- R96, R98, R109 to R114: the loads and the stores issue; what a load takes at once from the own core's team memory, from a line that the
core holds or from the read-only cache; what a store writes there at once; and what goes through the plot's window. That the own core's team
memory is met at issue is the model's choice (log entry 16). -/
def Obligations.AccessesIssue : Prop :=
  LoadIssues .lds .load .scratch ∧ LoadIssues .ldt .load .team ∧ LoadIssues .ldro .loadRo .scratch ∧ HitsGive ∧ TeamLoadGoes ∧
  ScratchStoreIssues ∧ TeamStoreIssues ∧ TeamStoreGoes

/-- R96, R98, R114 to R117: every atomic of the scratchpad issues, and every atomic of team memory: on the own core performed at once, lane
after lane, and on other member cores sent through the window. That the own core's team memory is met at issue is the model's choice (log
entry 16). -/
def Obligations.AtomicsIssue : Prop :=
  ScratchAtomicIssues .atsAdd .add 4 ∧ ScratchAtomicIssues .atsAdd64 .add 8 ∧ ScratchAtomicIssues .atsMins .mins 4 ∧
  ScratchAtomicIssues .atsMaxs .maxs 4 ∧ ScratchAtomicIssues .atsMinn .minn 4 ∧ ScratchAtomicIssues .atsMaxn .maxn 4 ∧
  ScratchAtomicIssues .atsAnd .and 4 ∧ ScratchAtomicIssues .atsOr .or 4 ∧ ScratchAtomicIssues .atsXor .xor 4 ∧
  ScratchAtomicIssues .atsExch .exch 4 ∧ ScratchAtomicIssues .atsExch64 .exch 8 ∧ ScratchAtomicIssues .atsCas .cas 4 ∧
  ScratchAtomicIssues .atsCas64 .cas 8 ∧ ScratchAtomicIssues .atsIncw .incw 4 ∧ ScratchAtomicIssues .atsFadd .fadd 4 ∧
  ScratchAtomicIssues .atsFaddb2 .faddb2 4 ∧ ScratchAtomicIssues .atsFmin .fmin 4 ∧ ScratchAtomicIssues .atsFmax .fmax 4 ∧
  TeamAtomicIssues .attAdd .add 4 ∧ TeamAtomicIssues .attAdd64 .add 8 ∧ TeamAtomicIssues .attMins .mins 4 ∧
  TeamAtomicIssues .attMaxs .maxs 4 ∧ TeamAtomicIssues .attMinn .minn 4 ∧ TeamAtomicIssues .attMaxn .maxn 4 ∧
  TeamAtomicIssues .attAnd .and 4 ∧ TeamAtomicIssues .attOr .or 4 ∧ TeamAtomicIssues .attXor .xor 4 ∧
  TeamAtomicIssues .attExch .exch 4 ∧ TeamAtomicIssues .attExch64 .exch 8 ∧ TeamAtomicIssues .attCas .cas 4 ∧
  TeamAtomicIssues .attCas64 .cas 8 ∧ TeamAtomicIssues .attIncw .incw 4 ∧ TeamAtomicIssues .attFadd .fadd 4 ∧
  TeamAtomicIssues .attFaddb2 .faddb2 4 ∧ TeamAtomicIssues .attFmin .fmin 4 ∧ TeamAtomicIssues .attFmax .fmax 4 ∧
  TeamAtomicGoes .attAdd .add 4 ∧ TeamAtomicGoes .attAdd64 .add 8 ∧ TeamAtomicGoes .attMins .mins 4 ∧
  TeamAtomicGoes .attMaxs .maxs 4 ∧ TeamAtomicGoes .attMinn .minn 4 ∧ TeamAtomicGoes .attMaxn .maxn 4 ∧
  TeamAtomicGoes .attAnd .and 4 ∧ TeamAtomicGoes .attOr .or 4 ∧ TeamAtomicGoes .attXor .xor 4 ∧
  TeamAtomicGoes .attExch .exch 4 ∧ TeamAtomicGoes .attExch64 .exch 8 ∧ TeamAtomicGoes .attCas .cas 4 ∧
  TeamAtomicGoes .attCas64 .cas 8 ∧ TeamAtomicGoes .attIncw .incw 4 ∧ TeamAtomicGoes .attFadd .fadd 4 ∧
  TeamAtomicGoes .attFaddb2 .faddb2 4 ∧ TeamAtomicGoes .attFmin .fmin 4 ∧ TeamAtomicGoes .attFmax .fmax 4

/-- R21, R23, R112, R113, R117, R119: what the completion of a load, a store, an atomic and a FILL lands, in the lanes that no later write
has reached, and that each ends its operation. A store's pair of scalars takes a merged witness; its lane-wise pair is stated here. -/
def Obligations.CompletionsLand : Prop :=
  (∀ s op o g, Map.find s.memOps op = some o → Map.find s.groups o.g = some g →
    EndsOp (.loadComplete op) s op o g fun g' => ∀ i l a, i < (o.size + 3) / 4 → o.dst + i < 104 →
      (g.landing op (o.dst + i)).getLsbD l = true → o.lanes.find? (fun a => decide (a.lane = l)) = some a →
      g'.regs.read (o.dst + i) l = BitVec.ofNat 32 (a.val / 2 ^ (32 * i))) ∧
  (∀ s op o g, Map.find s.memOps op = some o → Map.find s.groups o.g = some g → o.wp < 48 →
    s.ctxSaved o.die g.ctx = false →
    EndsOp (.storeComplete op) s op o g fun g' => ∀ l a,
      o.lanes.find? (fun a => decide (a.lane = l)) = some a →
      ((g.landing op (2 * o.wp)).getLsbD l = true → g'.regs.read (2 * o.wp) l = a.wout.extractLsb' 0 32) ∧
      ((g.landing op (2 * o.wp + 1)).getLsbD l = true → g'.regs.read (2 * o.wp + 1) l = a.wout.extractLsb' 32 32)) ∧
  (∀ s op o g, Map.find s.memOps op = some o → Map.find s.groups o.g = some g → o.dst + 3 < 96 →
    EndsOp (.atomicComplete op) s op o g fun g' => ∀ l a,
      o.lanes.find? (fun a => decide (a.lane = l)) = some a →
      ((g.landing op o.dst).getLsbD l = true → g'.regs.read o.dst l = BitVec.ofNat 32 a.val) ∧
      (o.size = 8 → (g.landing op (o.dst + 1)).getLsbD l = true → g'.regs.read (o.dst + 1) l = BitVec.ofNat 32 (a.val / 2 ^ 32)) ∧
      ((g.landing op (o.dst + 2)).getLsbD l = true → g'.regs.read (o.dst + 2) l = a.wout.extractLsb' 0 32) ∧
      ((g.landing op (o.dst + 3)).getLsbD l = true → g'.regs.read (o.dst + 3) l = a.wout.extractLsb' 32 32)) ∧
  (∀ s op o g n (vals : List Nat), Map.find s.memOps op = some o → Map.find s.groups o.g = some g → o.dst + n ≤ 96 → vals.length = n →
    o.lanes = (List.range n).map (fun i => { lane := i, addr := 0, st := .done, val := vals.getD i 0 }) →
    EndsOp (.fillComplete op) s op o g fun g' => ∀ i l, i < n → l < 32 → (g.landing op (o.dst + i)).getLsbD l = true →
      g'.regs.read (o.dst + i) l = BitVec.ofNat 32 (vals.getD i 0 / 2 ^ (32 * l)))

/-- R118 to R120. A SPILL completes with its n + 1 registers in the slots of the group's own stack, one after another, each at the address
to which the hardware's walk of the spill stack's pages leads, and every other byte of HBM as it was. A FILL completes outstanding, with the
words of the slots that a SPILL of the group has written and zero for the others, its registers owed in every lane. A prefetch completes
with every line of the partition that it names held or asked for, unless no line request is free, and changes no register, no memory and
nothing of the other cache. That a SPILL's bytes land as it issues is the model's choice (log entry 17), and so is what happens where their
home has no room (log entry 101) and that the base is any register in range (log entry 119). -/
def Obligations.SpillFillPrefetch : Prop :=
  (∀ (n : BitVec 3) (sl : BitVec 12) (b : BitVec 7) s c g, b.toNat + n.toNat + 1 ≤ 96 → sl.toNat + n.toNat + 1 ≤ (s.gridAt g.grid).slots →
    s.inTravel g = false → s.spillRoom g.die (n.toNat + 1) = true → Stands s c g → Clear s c g (spillOperands b.toNat n.toNat) →
    ∃ t g', exec (.spill n sl b) s = .next t ∧ Map.find t.groups c.g = some g' ∧
      t.hbm = (slotsWritten s g sl.toNat (fun i => registerBytes (c.view g) (b.toNat + i)) (n.toNat + 1)).hbm ∧
      (∀ k, k ∈ g'.spillWritten ↔ k ∈ g.spillWritten ∨ (sl.toNat ≤ k ∧ k < sl.toNat + n.toNat + 1)) ∧
      MovedOn c g g' ∧ RegFrame c g g' (spillOperands b.toNat n.toNat) [] 0 0 [] [] ∧ t.scratch = s.scratch ∧ t.team = s.team ∧ t.tiles = s.tiles) ∧
  (∀ (s u : Sys2Proof.Machine.State) (g : Group) va pa (x : List Byte),
    s.translate (coreKey g.die g.core) g.die g.ctx va .system = (.ok pa, u) → x.length = 128 →
    (u.homeRoom g.die (hbmHome pa) 1 = true →
      (∀ i, i < 128 → Map.get (s.spillWrite g va x).hbm 0 (hbmKey g.die pa + i) = x.getD i 0) ∧
      (∀ j, (j < hbmKey g.die pa ∨ hbmKey g.die pa + 128 ≤ j) → Map.get (s.spillWrite g va x).hbm 0 j = Map.get s.hbm 0 j)) ∧
    (u.homeRoom g.die (hbmHome pa) 1 = false →
      (s.spillWrite g va x).hbm = s.hbm ∧
      ((s.spillWrite g va x).die g.die).writeWait = (u.die g.die).writeWait ++ [(hbmHome pa, hbmKey g.die pa, x)] ∧
      (∀ i, i < 128 → Map.get ((s.spillWrite g va x).hbmArrived g.die) 0 (hbmKey g.die pa + i) = x.getD i 0)) ∧
    (s.spillRead g va 128).1 = readNat (u.hbmArrived g.die) (hbmKey g.die pa) 128) ∧
  (∀ (f : BitVec 1) (n : BitVec 3) (sl : BitVec 12) (b : BitVec 7) k s c g, b.toNat + n.toNat + 1 ≤ 96 →
    sl.toNat + n.toNat + 1 ≤ (s.gridAt g.grid).slots → s.inTravel g = false → Stands s c g →
    Clear s c g { dests := block b.toNat (n.toNat + 1) } → namesFlag c g f k →
    ∃ t g', exec (.fill f n sl b) s = .next t ∧ Map.find t.groups c.g = some g' ∧
      (∃ o op, Map.find t.memOps op = some o ∧ o.kind = .fill ∧ o.g = c.g ∧ o.dst = b.toNat ∧ o.size = n.toNat + 1 ∧ o.flag = some k ∧
        o.lanes.map (·.val) = (slotsRead s g sl.toNat (n.toNat + 1)).1 ∧ ∃ e ∈ t.pending, e.ev = .fillComplete op) ∧
      (∀ r l, b.toNat ≤ r → r < b.toNat + n.toNat + 1 → l < 32 → (g'.owedLanes r).getLsbD l = true) ∧
      g'.flagOf k = g.flagOf k + 1 ∧ MovedOn c g g' ∧ SameMemory s t) ∧
  (∀ (n : BitVec 6) (a : BitVec 7) s c g, Stands s c g → Clear s c g { reads := [a.toNat], first := relOf a.toNat } →
    ∃ t g', exec (.prefL1 n a) s = .next t ∧ Map.find t.groups c.g = some g' ∧
      MovedOn c g g' ∧ RegFrame c g g' { reads := [a.toNat], first := relOf a.toNat } [] 0 0 [] [] ∧ SameMemory s t ∧
      (∀ l i p, c.lanes.getLsbD l = true → i ≤ n.toNat → prefetched s c g a.toNat l i = some p →
        Config.lineRequests ≤ (t.coreAt (coreKey g.die g.core)).lineUsed ∨
        (Map.find (t.coreAt (coreKey g.die g.core)).l1 (lineOf p)).isSome = true ∧
          (Map.find (s.coreAt (coreKey g.die g.core)).l1 (lineOf p) = none → ∃ m, Map.find t.mesh m = some (.read g.die g.core (lineOf p) none) ∨
            ∃ peer least, Map.find t.mesh m = some (.probe g.die g.core (lineOf p) peer least))) ∧
      (t.coreAt (coreKey g.die g.core)).ro = (s.coreAt (coreKey g.die g.core)).ro) ∧
  (∀ (n : BitVec 6) (a : BitVec 7) s c g, Stands s c g → Clear s c g { reads := [a.toNat], first := relOf a.toNat } →
    ∃ t g', exec (.prefRo n a) s = .next t ∧ Map.find t.groups c.g = some g' ∧
      MovedOn c g g' ∧ RegFrame c g g' { reads := [a.toNat], first := relOf a.toNat } [] 0 0 [] [] ∧ SameMemory s t ∧
      (∀ l i p, c.lanes.getLsbD l = true → i ≤ n.toNat → prefetched s c g a.toNat l i = some p →
        Config.lineRequests ≤ (t.coreAt (coreKey g.die g.core)).lineUsed ∨
        (Map.find (s.coreAt (coreKey g.die g.core)).ro (roKey g.grid (lineOf p))).isSome = true ∨
        ∃ m, Map.find t.mesh m = some (.read g.die g.core (lineOf p) (some g.grid))) ∧
      (t.coreAt (coreKey g.die g.core)).l1 = (s.coreAt (coreKey g.die g.core)).l1)

namespace Sys2Proof.Machine

/-! ### Device events -/

/-- The event i answers a next state of which p holds. -/
def Happens (i : Instr) (s : State) (p : State → Prop) : Prop := ∃ t, exec i s = .next t ∧ p t

/-- Some message of the mesh is m. -/
def InMesh (t : State) (m : MeshMsg) : Prop := ∃ n, Map.find t.mesh n = some m

/-- It is a message's turn at its home: nothing waits there, or it is the first that waits (R100). -/
def FirstAtHome (s : State) (die home msg : Nat) : Prop := (s.die die).waitingAt home = [] ∨ ((s.die die).waitingAt home).head? = some msg

/-- No lane of an outstanding access of the core waits for its witness or its turn. -/
def NoneWait (s : State) (die core : Nat) : Prop :=
  ∀ e ∈ s.memOps, e.2.die = die → e.2.core = core → ∀ a ∈ e.2.lanes, a.st ≠ .waitWitness

/-- A write to a line has been given the count q first: every recorded sharer of the line but the writer is taken out of the directory entry and
has an invalidation on its way, whose acknowledgement the home's visible count awaits before it reaches q (R105). -/
def SharersGo (s t : State) (die core line q : Nat) : Prop :=
  ∀ k, (Map.get (s.die die).dir {} line).sharers.getLsbD k = true →
    if k = core then (Map.get (t.die die).dir {} line).sharers.getLsbD k = true
    else (Map.get (t.die die).dir {} line).sharers.getLsbD k = false ∧ ∃ h x, InMesh t (.inval die k line h) ∧
      Map.find (t.die die).holds h = some x ∧ x.home = line % 24 ∧ x.count = q ∧ x.core = k ∧ x.line = line

/-- The bytes [lo, lo + n) of two lanes do not meet. -/
def apart (n x y : Nat) : Prop := x + n ≤ y ∨ y + n ≤ x

end Sys2Proof.Machine

/-- R98, R100, R105, R113, R114, R116, R117: what is performed at a home. A write at its slice: every lane whose bytes no other lane of the
message meets holds its data, every byte outside the lanes is as it was, each lane has had a count, the line's last write is the last of
them, every recorded sharer but the writer is taken out of the entry and has an invalidation on its way, which holds the home's visible
count before the write, and the answer is on its way with the home's count. An atomic of one lane answers the old value and stores the new
one, with the next count, or stores and counts nothing where its operation writes nothing. The window access of another core: a load answers
what stands there, a store writes it, an atomic does both. A write that finds others waiting at its home, or no room for its counts, waits
there and changes no memory (R100, R190). -/
def Obligations.HomesPerform : Prop :=
  (∀ s msg die core line op l size w, Map.find s.mesh msg = some (.write die core line op l size w) →
    FirstAtHome s die (line % 24) msg → s.homeRoom die (line % 24) l.length = true →
    Happens (.sliceWrite msg) s fun t =>
      (∀ a ∈ l, (∀ b ∈ l, b ≠ a → apart size a.addr b.addr) → l.Nodup → readNat t.scratch a.addr size = a.arg % 256 ^ size) ∧
      (∀ j, (∀ a ∈ l, j < a.addr ∨ a.addr + size ≤ j) → Map.get t.scratch 0 j = Map.get s.scratch 0 j) ∧
      t.hbm = s.hbm ∧ t.team = s.team ∧ t.tiles = s.tiles ∧ t.groups = s.groups ∧
      (t.die die).givenOf (line % 24) = (s.die die).givenOf (line % 24) + l.length ∧
      (l ≠ [] → SharersGo s t die core line ((s.die die).givenOf (line % 24) + 1) ∧
        (Map.get (t.die die).dir {} line).lastw = (s.die die).givenOf (line % 24) + l.length) ∧
      ∃ done, InMesh t (.answer die core (some line) op ((s.die die).givenOf (line % 24) + l.length) (Map.get (t.die die).dir {} line).lastw done w) ∧
        done.length = l.length) ∧
  (∀ s msg die core line op kind a size w, Map.find s.mesh msg = some (.atomic die core line op kind [a] size w) →
    FirstAtHome s die (line % 24) msg → s.homeRoom die (line % 24) 1 = true →
    Happens (.sliceAtomic msg) s fun t =>
      let old := readNat s.scratch a.addr size
      readNat t.scratch a.addr size = ((kind.apply size old a.arg a.cmp).getD old) % 256 ^ size ∧
      (∀ j, (j < a.addr ∨ a.addr + size ≤ j) → Map.get t.scratch 0 j = Map.get s.scratch 0 j) ∧
      t.hbm = s.hbm ∧ t.team = s.team ∧ t.tiles = s.tiles ∧ t.groups = s.groups ∧
      let given := (s.die die).givenOf (line % 24)
      let q := if (kind.apply size old a.arg a.cmp).isSome then given + 1 else given
      (t.die die).givenOf (line % 24) = q ∧
      (if (kind.apply size old a.arg a.cmp).isSome then
        SharersGo s t die core line q ∧ (Map.get (t.die die).dir {} line).lastw = q
      else (t.die die).dir = (s.die die).dir) ∧
      ∃ b, InMesh t (.answer die core (some line) op q (Map.get (t.die die).dir {} line).lastw [b] w) ∧ b.lane = a.lane ∧ b.val = old ∧ b.st = .done ∧
        b.wout = pointWit die (s.die die).inc (line % 24) q) ∧
  (∀ s msg die core dst op a size w, Map.find s.mesh msg = some (.window die core dst op .load [a] size w) →
    FirstAtHome s die (coreHome dst) msg →
    Happens (.teamMemoryWindowAccess msg) s fun t =>
      SameMemory s t ∧ t.groups = s.groups ∧
      ∃ b, InMesh t (.answer die core none op ((s.die die).givenOf (coreHome dst)) 0 [b] w) ∧ b.lane = a.lane ∧ b.val = readNat s.team a.addr size ∧
        b.st = .done) ∧
  (∀ s msg die core dst op a size w, Map.find s.mesh msg = some (.window die core dst op .store [a] size w) →
    FirstAtHome s die (coreHome dst) msg → s.homeRoom die (coreHome dst) 1 = true →
    Happens (.teamMemoryWindowAccess msg) s fun t =>
      readNat t.team a.addr size = a.arg % 256 ^ size ∧
      (∀ j, (j < a.addr ∨ a.addr + size ≤ j) → Map.get t.team 0 j = Map.get s.team 0 j) ∧
      t.hbm = s.hbm ∧ t.scratch = s.scratch ∧ t.tiles = s.tiles ∧
      (t.die die).givenOf (coreHome dst) = (s.die die).givenOf (coreHome dst) + 1 ∧
      ∃ b, InMesh t (.answer die core none op ((s.die die).givenOf (coreHome dst) + 1) 0 [b] w) ∧ b.lane = a.lane ∧ b.st = .done ∧
        b.wout = pointWit die (s.die die).inc (coreHome dst) ((s.die die).givenOf (coreHome dst) + 1)) ∧
  (∀ s msg die core dst op kind a size w, Map.find s.mesh msg = some (.window die core dst op (.atomic kind) [a] size w) →
    FirstAtHome s die (coreHome dst) msg → s.homeRoom die (coreHome dst) 1 = true →
    Happens (.teamMemoryWindowAccess msg) s fun t =>
      let old := readNat s.team a.addr size
      let given := (s.die die).givenOf (coreHome dst)
      let q := if (kind.apply size old a.arg a.cmp).isSome then given + 1 else given
      readNat t.team a.addr size = ((kind.apply size old a.arg a.cmp).getD old) % 256 ^ size ∧
      (∀ j, (j < a.addr ∨ a.addr + size ≤ j) → Map.get t.team 0 j = Map.get s.team 0 j) ∧
      t.hbm = s.hbm ∧ t.scratch = s.scratch ∧ t.tiles = s.tiles ∧ (t.die die).givenOf (coreHome dst) = q ∧
      ∃ b, InMesh t (.answer die core none op q 0 [b] w) ∧ b.lane = a.lane ∧ b.val = old ∧ b.st = .done ∧
        b.wout = pointWit die (s.die die).inc (coreHome dst) q) ∧
  (∀ s msg die core line op l size w, Map.find s.mesh msg = some (.write die core line op l size w) →
    ¬ FirstAtHome s die (line % 24) msg ∨ s.homeRoom die (line % 24) l.length = false →
    Happens (.sliceWrite msg) s fun t =>
      SameMemory s t ∧ t.groups = s.groups ∧ t.mesh = s.mesh ∧ msg ∈ (t.die die).waitingAt (line % 24) ∧
      (∀ h, (t.die die).givenOf h = (s.die die).givenOf h))

/-- R104 to R109: reads, fills and the peer protocol. A slice answers a read with the line as it stands and records the reader as a sharer,
unless it reads for the read-only cache; a Shared copy is forwarded with its stamp and otherwise the probe is refused, and so it is where
the requester has already observed a newer value, which is the model's choice (log entry 114); a refused core asks the slice; the slice
records a forwarded reader; a fill leaves the line Shared. Which line leaves a full cache is log entry 13. -/
def Obligations.LinesMove : Prop :=
  (∀ s msg die core line, core < 24 → Map.find s.mesh msg = some (.read die core line none) →
    FirstAtHome s die (line % 24) msg →
    Happens (.sliceRead msg) s fun t =>
      (Map.get (t.die die).dir {} line).sharers.getLsbD core = true ∧ SameMemory s t ∧
      ∃ hint, InMesh t (.fill die core line (s.lineData die line) (Map.get (s.die die).dir {} line).lastw none hint none)) ∧
  (∀ s msg die core line grid, Map.find s.mesh msg = some (.read die core line (some grid)) →
    FirstAtHome s die (line % 24) msg →
    Happens (.sliceRead msg) s fun t =>
      (t.die die).dir = (s.die die).dir ∧ SameMemory s t ∧
      ∃ hint, InMesh t (.fill die core line (s.lineData die line) (Map.get (s.die die).dir {} line).lastw none hint (some grid))) ∧
  (∀ s msg die core line peer least d stamp, Map.find s.mesh msg = some (.probe die core line peer least) →
    Map.find (s.coreAt (coreKey die peer)).l1 line = some (.shared d stamp) → least ≤ stamp →
    Happens (.peerProbe msg) s fun t =>
      InMesh t (.fill die core line d stamp (some peer) none none) ∧
      Map.find (t.coreAt (coreKey die peer)).l1 line = some (.shared d stamp) ∧
      Map.get (t.coreAt (coreKey die peer)).forwards 0 line = Map.get (s.coreAt (coreKey die peer)).forwards 0 line + 1) ∧
  (∀ s msg die core line peer least, Map.find s.mesh msg = some (.probe die core line peer least) →
    (∀ d stamp, Map.find (s.coreAt (coreKey die peer)).l1 line = some (.shared d stamp) → stamp < least) →
    Happens (.peerProbe msg) s fun t => InMesh t (.refusal die core line)) ∧
  (∀ s msg die core line, Map.find s.mesh msg = some (.refusal die core line) →
    Happens (.probeRefusal msg) s fun t => InMesh t (.read die core line none)) ∧
  (∀ s msg die core line peer stamp, core < 24 → Map.find s.mesh msg = some (.register die core line peer stamp) →
    Happens (.sharerRegistration msg) s fun t =>
      (Map.get (t.die die).dir {} line).sharers.getLsbD core = true ∧ InMesh t (.confirm die peer line) ∧
      (stamp < (Map.get (s.die die).dir {} line).lastw → ∃ h, InMesh t (.inval die core line h))) ∧
  (∀ s msg die core line d stamp hint, s.bad = [] → Map.find s.mesh msg = some (.fill die core line d stamp none hint none) →
    (∀ a, Map.find (s.coreAt (coreKey die core)).l1 line ≠ some (.pending true a)) →
    (s.coreAt (coreKey die core)).l1.length < Config.l1Lines →
    Happens (.l1Fill msg) s fun t =>
      Map.find (t.coreAt (coreKey die core)).l1 line = some (.shared d stamp) ∧ (NoneWait s die core → SameMemory s t))

/-- R105 to R108. An invalidation leaves no Shared copy of its line at its core, and is acknowledged at once, unless a forward of the line
is unconfirmed, which withholds the acknowledgement, or the line is Pending, which then ends Invalid and acknowledges with its fill. An
acknowledgement ends its hold: of a write's, the home's visible count goes on to what the holds left allow; of an eviction's, the sharer
leaves the directory entry. A confirmed forward counts down, and with the last one the withheld acknowledgements go, or join the Pending
line's. An eviction invalidates every sharer of its line. The answer of a write or a window access frees its line request, gives its record
and the core's own writes the count, and its operation the results. -/
def Obligations.InvalidationProtocol : Prop :=
  (∀ s msg die core line hold, Map.find s.mesh msg = some (.inval die core line hold) →
    ∃ t, exec (.l1Invalidation msg) s = .next t ∧
      let c := s.coreAt (coreKey die core)
      let c' := t.coreAt (coreKey die core)
      (∀ d stamp, Map.find c'.l1 line ≠ some (.shared d stamp)) ∧ (∀ x, x ≠ line → Map.find c'.l1 x = Map.find c.l1 x) ∧
      (if 0 < Map.get c.forwards 0 line then c'.withheld = c.withheld ++ [(line, hold)] ∧ t.mesh = Map.erase s.mesh msg
      else match Map.find c.l1 line with
        | some (.pending _ a) => Map.find c'.l1 line = some (.pending true (a ++ [hold])) ∧ c'.withheld = c.withheld ∧ t.mesh = Map.erase s.mesh msg
        | _ => InMesh t (.ack die hold) ∧ Map.find c'.l1 line = none ∧ c'.withheld = c.withheld) ∧
      SameMemory s t ∧ t.groups = s.groups) ∧
  (∀ s msg die hold h, Map.find s.mesh msg = some (.ack die hold) → Map.find (s.die die).holds hold = some h →
    ∃ t, exec (.invalidationAck msg) s = .next t ∧
      Map.find (t.die die).holds hold = none ∧ (∀ j, j ≠ hold → Map.find (t.die die).holds j = Map.find (s.die die).holds j) ∧
      (∀ j, (t.die die).visibleOf j = if j = h.home ∧ h.count ≠ 0 then max ((s.die die).visibleOf j) ((t.die die).allowed j) else (s.die die).visibleOf j) ∧
      (h.count = 0 → (Map.get (t.die die).dir {} h.line).sharers.getLsbD h.core = false) ∧
      (∀ line core, (h.count ≠ 0 ∨ line ≠ h.line ∨ core ≠ h.core) →
        (Map.get (t.die die).dir {} line).sharers.getLsbD core = (Map.get (s.die die).dir {} line).sharers.getLsbD core) ∧
      SameMemory s t ∧ t.groups = s.groups) ∧
  (∀ s msg die peer line, Map.find s.mesh msg = some (.confirm die peer line) →
    ∃ t, exec (.registrationConfirm msg) s = .next t ∧
      let c := s.coreAt (coreKey die peer)
      let c' := t.coreAt (coreKey die peer)
      Map.get c'.forwards 0 line = Map.get c.forwards 0 line - 1 ∧ SameMemory s t ∧
      (1 < Map.get c.forwards 0 line → c'.withheld = c.withheld ∧ c'.l1 = c.l1) ∧
      (Map.get c.forwards 0 line ≤ 1 → c'.withheld = c.withheld.filter (fun e => decide (e.1 ≠ line)) ∧ ∀ h, (line, h) ∈ c.withheld →
        InMesh t (.ack die h) ∨ ∃ a, Map.find c'.l1 line = some (.pending true a) ∧ h ∈ a)) ∧
  (∀ s die line, ∃ t, exec (.directoryEviction die line) s = .next t ∧
    (∀ core, core < 24 → (Map.get (s.die die).dir {} line).sharers.getLsbD core = true → ∃ h x, InMesh t (.inval die core line h) ∧
      Map.find (t.die die).holds h = some x ∧ x.line = line ∧ x.core = core ∧ x.count = 0) ∧
    (t.die die).dir = (s.die die).dir ∧ SameMemory s t) ∧
  (∀ s msg die core line op count stamp l w r o, s.bad = [] → NoneWait s die core → (∀ a ∈ l, a.st = .done) →
    Map.find s.mesh msg = some (.answer die core line op count stamp l w) → Map.find s.wrecs w = some r → Map.find s.memOps op = some o →
    ∃ t, exec (.storeAnswer msg) s = .next t ∧
      let c := s.coreAt (coreKey die core)
      let c' := t.coreAt (coreKey die core)
      Map.find t.wrecs w = some { r with count := some count } ∧ (∀ j, j ≠ w → Map.find t.wrecs j = Map.find s.wrecs j) ∧
      c'.lineUsed = c.lineUsed - 1 ∧
      (∀ x, line = some x → Map.get c'.ownWrites 0 x = max count (Map.get c.ownWrites 0 x) ∧
        Map.get c'.unanswered 0 x = Map.get c.unanswered 0 x - 1 ∧ Map.get c'.seen 0 x = max stamp (Map.get c.seen 0 x)) ∧
      (∀ x, line ≠ some x → Map.find c'.ownWrites x = Map.find c.ownWrites x ∧ Map.find c'.unanswered x = Map.find c.unanswered x) ∧
      (∃ o', Map.find t.memOps op = some o' ∧
        o'.lanes = o.lanes.map (fun a => (l.find? (fun b => decide (b.lane = a.lane))).getD a) ∧
        ((∀ a ∈ o'.lanes, a.st = .done) → t.inFlight (o'.kind.event op) = true)) ∧
      SameMemory s t)

namespace Sys2Proof.Machine

/-! ### Control -/

/-- Every active lane of the path stands at the clause header pc, outside its clause (R20, R249). -/
def StandsAt (c : Issue) (g' : Group) (pc : Nat → Nat) : Prop :=
  ∀ l, c.lanes.getLsbD l = true → (g'.thread l).pc = pc l ∧ (g'.thread l).clause = pc l ∧ (g'.thread l).entered = false

/-- A target at which a transfer faults for no lane of m: it is aligned, its header is no bad one, and a travelling path stays in a segment
(R20, R269). -/
def goodTargets (s : State) (c : Issue) (g : Group) (m : Lanes) (pc : Nat → Nat) : Prop :=
  targetFault s g m pc = none ∧
  strayFault s g c.lanes (fun l => if m.getLsbD l then pc l else nextHeader c (c.head g)) = none

/-- A branch by mask: the lanes m go to the target, the others to the next header, and nothing but the group changes (R249, R250). -/
def BranchGives (i : Instr) (o : Opnds) (m : Issue → Group → Lanes) (target : Issue → Group → Nat) : Prop :=
  ∀ s c g, Stands s c g → Ready s c g o → goodTargets s c g (m c g) (fun _ => target c g) →
    Completes i s c fun t g' =>
      StandsAt c g' (fun l => if (m c g).getLsbD l then target c g else nextHeader c (c.head g)) ∧
      (∀ n l, g'.regs.read n l = g.regs.read n l) ∧ g'.fflags = g.fflags ∧ OnlyGroup s t c.g

/-- The target of a relative transfer: the parcel after the instruction plus twice the offset, in the code address space (R29). -/
def targetOf {n : Nat} (c : Issue) (g : Group) (o : BitVec n) : Nat :=
  (((c.head g).pc + 4 + 2 * o.toInt) % (2 ^ 48 : Int)).toNat

/-- The lanes whose guard a branch takes (R249). -/
def takenLanes (c : Issue) (g : Group) (p : Nat) (n : BitVec 1) : Lanes :=
  if n = 1 then c.lanes &&& ~~~ (c.view g).pred p else c.lanes &&& (c.view g).pred p

/-- Every thread of the path has room for a push: on the chip, or in its area (R253). -/
def stacksHaveRoom (s : State) (c : Issue) (g : Group) : Prop :=
  ∀ l, c.lanes.getLsbD l = true → (g.thread l).rstack.length < 4 ∨ (g.thread l).rsd < (s.gridAt g.grid).depth

/-- What the pushes of the lanes of a list write to their areas: the oldest entry of a full stack (R253). -/
def pushesWritten (s : State) (g : Group) : List Nat → State
  | [] => s
  | l :: ls =>
    let t := g.thread l
    pushesWritten (if t.rstack.length < 4 then s else s.spillWrite g (s.returnEntry g l t.tid t.rsd) (bytesOf 8 (t.rstack.getD 3 0))) g ls

/-- What the pops of the lanes of a list read back from their areas: the newest entry there (R253). -/
def popsRead (s : State) (g : Group) : List Nat → Map Nat
  | [] => []
  | l :: ls =>
    let t := g.thread l
    if t.rsd = 0 then popsRead s g ls
    else Map.put (popsRead (s.spillRead g (s.returnEntry g l t.tid (t.rsd - 1)) 8).2 g ls) l ((s.spillRead g (s.returnEntry g l t.tid (t.rsd - 1)) 8).1 % 2 ^ 48)

/-- The path waits for the transfers of its return addresses, and their completion is due (R253). -/
def HeldForReturn (c : Issue) (t : State) (g' : Group) (m : Lanes) : Prop :=
  (∀ l, m.getLsbD l = true → (g'.thread l).stall = .retAddr) ∧ t.inFlight (.returnAddressSpillComplete c.g m.toNat) = true

/-- A call: every lane stands at its target with the next header on its return stack. A full stack's oldest entry goes to the thread's area, and
the path then waits for the transfers (R252, R253). -/
def CallGives (i : Instr) (o : Opnds) (pc : State → Issue → Group → Nat → Nat) : Prop :=
  ∀ s c g, Stands s c g → Ready s c g o → goodTargets s c g c.lanes (pc s c g) → stacksHaveRoom s c g →
    Completes i s c fun t g' =>
      StandsAt c g' (pc s c g) ∧
      (∀ l, c.lanes.getLsbD l = true →
        if (g.thread l).rstack.length < 4 then (g'.thread l).rstack = nextHeader c (c.head g) :: (g.thread l).rstack ∧ (g'.thread l).rsd = (g.thread l).rsd
        else (g'.thread l).rstack = nextHeader c (c.head g) :: (g.thread l).rstack.take 3 ∧ (g'.thread l).rsd = (g.thread l).rsd + 1) ∧
      ((∃ l, c.lanes.getLsbD l = true ∧ 4 ≤ (g.thread l).rstack.length) → HeldForReturn c t g' c.lanes) ∧
      ((∀ l, c.lanes.getLsbD l = true → (g.thread l).rstack.length < 4) → OnlyGroup s t c.g) ∧
      t.hbm = (pushesWritten s g (lanesOf c.lanes)).hbm ∧ t.scratch = s.scratch ∧ t.team = s.team ∧ t.tiles = s.tiles

/-- The lanes of a path whose return stack holds an entry. -/
def returning (c : Issue) (g : Group) : Lanes := maskOf fun l => c.lanes.getLsbD l && decide ((g.thread l).rstack ≠ [])

/-- A lane counts as present for the threads that wait at a JOIN with a top entry, as the path arrives there with the same top entry or not
(R257). -/
def presentAt (c : Issue) (g : Group) (top : Lanes × Nat) (m : Nat) : Prop :=
  (g.thread m).live = false ∨ (c.lanes.getLsbD m = true ∧ (g.thread m).join.head? = some top) ∨
  (c.lanes.getLsbD m = false ∧ (g.thread m).join.head? = some top ∧ ∃ since b, (g.thread m).park = .join (c.head g).pc since b) ∨
  ∀ e ∈ (g.thread m).join, e.2 ≠ top.2

/-- The image-relative target of a lane (R252). -/
def imageTarget (a : Nat) (s : State) (c : Issue) (g : Group) (l : Nat) : Nat :=
  ((s.gridAt g.grid).image + ((c.view g).read a l).toNat) % 2 ^ 48

/-- The next clause of a path lies in a segment of its travel launch (R269). -/
def nextInSegment (s : State) (c : Issue) (g : Group) : Prop := strayFault s g c.lanes (fun _ => nextHeader c (c.head g)) = none

end Sys2Proof.Machine

/-- R20, R29, R249, R250, R252: the branches and jumps. -/
def Obligations.BranchesGo : Prop :=
  (∀ (o : BitVec 19) (n : BitVec 1) (p : BitVec 3), BranchGives (.br o n p) { preds := [p.toNat] } (fun c g => takenLanes c g p.toNat n)
    (fun c g => targetOf c g o)) ∧
  (∀ (o : BitVec 19) (p : BitVec 3) (m : BitVec 2), m ≠ 3 → BranchGives (.bru o p m) { preds := [p.toNat] }
    (fun c g =>
      let x := c.lanes &&& (c.view g).pred p.toNat
      if (m = 0 ∧ x ≠ 0) ∨ (m = 1 ∧ x = c.lanes) ∨ (m = 2 ∧ x = 0) then c.lanes else 0)
    (fun c g => targetOf c g o)) ∧
  (∀ o : BitVec 23, BranchGives (.jmp o) {} (fun c _ => c.lanes) (fun c g => targetOf c g o)) ∧
  (∀ (a : BitVec 7) s c g, Stands s c g → Ready s c g { reads := [a.toNat], first := relOf a.toNat } →
    goodTargets s c g c.lanes (imageTarget a.toNat s c g) →
    Completes (.jmpi a) s c fun t g' => StandsAt c g' (imageTarget a.toNat s c g) ∧ OnlyGroup s t c.g)

/-- R252, R253, R264: calls push the next header, with the spill of a full stack's oldest entry; a RET goes where the newest entry says,
with the refill of the stack's bottom from the area; a call whose stack and area are full takes the call-depth fault; and a RET with an
empty stack or an EXIT ends the thread. -/
def Obligations.CallsReturn : Prop :=
  (∀ o : BitVec 23, CallGives (.call o) {} (fun _ c g _ => targetOf c g o)) ∧
  (∀ a : BitVec 7, CallGives (.calli a) { reads := [a.toNat], first := relOf a.toNat } (imageTarget a.toNat)) ∧
  (∀ (o : BitVec 23) s c g l, Stands s c g → goodTargets s c g c.lanes (fun _ => targetOf c g o) →
    c.lanes.getLsbD l = true → 4 ≤ (g.thread l).rstack.length → (s.gridAt g.grid).depth ≤ (g.thread l).rsd →
    ∃ lanes, lanes.getLsbD l = true ∧ exec (.call o) s = .next (s.takePrecise c g { cls := .callDepth, lanes := lanes })) ∧
  (∀ s c g (pc : Nat → Nat), Stands s c g → Ready s c g {} →
    (∀ l, (returning c g).getLsbD l = true → (g.thread l).rstack.head? = some (pc l)) →
    targetFault s g (returning c g) pc = none → strayFault s g (returning c g) pc = none →
    Completes .ret s c fun t g' =>
      StandsAt { c with lanes := returning c g } g' pc ∧
      (∀ l, (returning c g).getLsbD l = true →
        if (g.thread l).rsd = 0 then (g'.thread l).rstack = (g.thread l).rstack.tail ∧ (g'.thread l).rsd = 0
        else (g'.thread l).rstack = (g.thread l).rstack.tail ++ [Map.get (popsRead s g (lanesOf (returning c g))) 0 l] ∧
          (g'.thread l).rsd = (g.thread l).rsd - 1) ∧
      ((∃ l, (returning c g).getLsbD l = true ∧ (g.thread l).rsd ≠ 0) → HeldForReturn c t g' (returning c g)) ∧
      (∀ l, c.lanes.getLsbD l = true → (g.thread l).rstack = [] → (g'.thread l).live = false) ∧ SameMemory s t ∧
      ((∀ l, c.lanes.getLsbD l = true → (g.thread l).rstack ≠ [] ∧ (g.thread l).rsd = 0) → OnlyGroup s t c.g)) ∧
  (∀ s c g, Stands s c g → Ready s c g {} →
    Completes .exit s c fun t g' =>
      (∀ l, c.lanes.getLsbD l = true → (g'.thread l).live = false) ∧
      (∀ l, c.lanes.getLsbD l = false → (g'.thread l).live = (g.thread l).live) ∧ SameMemory s t)

/-- R254 to R258, R261, R263: JOIN.O opens a join set over the path's lanes, a JOIN takes the path to the next header; it holds back a
thread while a lane of its open set is on its way, and releases every thread of the set, each a set poorer, once all of them are present;
YIELD puts an active group at the tail of its quarter's ready FIFO, and a regroup point parks the path with its directions or keys; the
register that a REGROUP reads last is kept until its pool has closed (log 99, the model's reading). -/
def Obligations.PathsWait : Prop :=
  (∀ s c g, Stands s c g → Ready s c g {} → fallFault s c g = none →
    Completes .joinO s c fun t g' =>
      StandsAt c g' (fun _ => nextHeader c (c.head g)) ∧
      (∀ l, c.lanes.getLsbD l = true → (g'.thread l).join = ((c.lanes, (g.openCount + 1) % 65536) :: (g.thread l).join).take 4) ∧ OnlyGroup s t c.g) ∧
  (∀ (b : BitVec 20) s c g, Stands s c g → Ready s c g {} → nextInSegment s c g →
    Completes (.join b) s c fun t g' =>
      StandsAt c g' (fun _ => nextHeader c (c.head g)) ∧
      (∀ l, c.lanes.getLsbD l = true → (g.thread l).join = [] → (g'.thread l).park = .none ∨ (g'.thread l).park = .depart) ∧
      (∀ l m top, c.lanes.getLsbD l = true → (g.thread l).join.head? = some top → top.1.getLsbD m = true → c.lanes.getLsbD m = false →
        (g.thread m).live = true → (∀ a since x, (g.thread m).park ≠ .join a since x) → (∃ e ∈ (g.thread m).join, e.2 = top.2) →
        (g'.thread l).park = .join (c.head g).pc (s.die g.die).clock b.toNat ∧ (g'.thread l).join = (g.thread l).join) ∧
      (∀ l top, c.lanes.getLsbD l = true → (g.thread l).join.head? = some top → g.set ≠ .halted →
        (∀ m, top.1.getLsbD m = true → presentAt c g top m) →
        ((g'.thread l).park = .none ∨ (g'.thread l).park = .depart) ∧ (g'.thread l).join = (g.thread l).join.tail ∧
        ∀ m, c.lanes.getLsbD m = false → (g.thread m).join.head? = some top → (∃ since x, (g.thread m).park = .join (c.head g).pc since x) →
          ((g'.thread m).park = .none ∨ (g'.thread m).park = .depart) ∧ (g'.thread m).join = (g.thread m).join.tail) ∧
      OnlyGroup s t c.g) ∧
  (∀ s c g, Stands s c g → Ready s c g {} → fallFault s c g = none →
    Completes .yield s c fun t g' =>
      StandsAt c g' (fun _ => nextHeader c (c.head g)) ∧
      (g.set = .active → g'.set = .ready ∧
        (t.quarterAt (coreKey g.die g.core * 4 + g.quarter)).ready.getLast? = some c.g ∧
        c.g ∉ (t.quarterAt (coreKey g.die g.core * 4 + g.quarter)).active) ∧
      (g.set ≠ .active → g'.set = g.set ∧ OnlyGroup s t c.g) ∧ SameMemory s t) ∧
  (∀ (o : BitVec 19) (n : BitVec 1) (p : BitVec 3) s c g, Stands s c g → Ready s c g { preds := [p.toNat], scalars := [15] } →
    s.inTravel g = false → g.latch = none → (c.view g).scalar 15 ≠ 0 →
    targetFault s g (takenLanes c g p.toNat n) (fun _ => targetOf c g o) = none →
    Completes (.brRg o n p) s c fun t g' =>
      StandsAt c g' (fun l => if (takenLanes c g p.toNat n).getLsbD l then targetOf c g o else nextHeader c (c.head g)) ∧
      (∀ l, c.lanes.getLsbD l = true → (g'.thread l).park = .regroup (c.head g).pc ∧ (g'.thread l).taken = (takenLanes c g p.toNat n).getLsbD l) ∧
      OnlyGroup s t c.g) ∧
  (∀ (a : BitVec 7) (sl : BitVec 6) s c g, a ≠ 104 → Stands s c g →
    Ready s c g { reads := [a.toNat], scalars := [sl.toNat] } →
    s.inTravel g = false → g.latch = none → (c.view g).scalar sl.toNat ≠ 0 →
    Completes (.regroup a sl) s c fun t g' =>
      StandsAt c g' (fun _ => nextHeader c (c.head g)) ∧
      (∀ l, c.lanes.getLsbD l = true → (g'.thread l).park = .regroup (c.head g).pc ∧ (g'.thread l).key = ((c.view g).read a.toNat l).toNat) ∧
      g'.poolRel = releaseList { first := relOf a.toNat } c g ∧ (∀ n l, g'.regs.read n l = g.regs.read n l) ∧ OnlyGroup s t c.g)

/-- R19, R22, R26, R315: a path enters its clause once all its bytes are held and the flags that the wait mask names read zero; a clause of
which a line is missing raises nothing, and the path only ages; the no-operations move on and nothing else; ISYNC leaves the core no code
line but the pinned ones, which is how the model reads R315 (log entry 51). -/
def Obligations.ClausesAndNops : Prop :=
  (∀ s c g h0 h1, Stands s c g → g.pend = [] →
    (s.coreAt (coreKey g.die g.core)).codeWord g.ctx (c.head g).clause = some h0 →
    (s.coreAt (coreKey g.die g.core)).codeWord g.ctx ((c.head g).clause + 4) = some h1 →
    g.maskClear (BitVec.ofNat 32 h0) = true →
    (∃ e early, (s.coreAt (coreKey g.die g.core)).scan g.ctx (c.head g).clause = .done e early) →
    clauseFault s g (c.head g).clause (BitVec.ofNat 32 h0) ((s.coreAt (coreKey g.die g.core)).scan g.ctx (c.head g).clause) = none →
    Completes .clauseBegin s c fun t g' =>
      (∀ l, c.lanes.getLsbD l = true → (g'.thread l).entered = true ∧ (g'.thread l).pc = ((c.head g).clause + 8) % 2 ^ 48 ∧
        (g'.thread l).cpos = 0 ∧ (g'.thread l).hdr0 = BitVec.ofNat 32 h0 ∧ (g'.thread l).hdr1 = BitVec.ofNat 32 h1) ∧
      g'.regs = g.regs ∧ OnlyGroup s t c.g) ∧
  (∀ s c g va, Stands s c g → g.pend = [] → (s.coreAt (coreKey g.die g.core)).scan g.ctx (c.head g).clause = .missing va →
    Completes .clauseBegin s c fun t g' =>
      (∀ l, c.lanes.getLsbD l = true → g'.thread l = { g.thread l with age := (g.thread l).age + 1 }) ∧ g'.regs = g.regs ∧ OnlyGroup s t c.g) ∧
  (∀ s c g, Stands s c g → Clear s c g {} →
    Completes .nop s c fun t g' => MovedOn c g g' ∧ RegFrame c g g' {} [] 0 0 [] [] ∧ g'.fflags = g.fflags ∧ OnlyGroup s t c.g) ∧
  (∀ s c g, Stands s c g → Clear s c g {} →
    Completes .nop32 s c fun t g' => MovedOn c g g' ∧ RegFrame c g g' {} [] 0 0 [] [] ∧ g'.fflags = g.fflags ∧ OnlyGroup s t c.g) ∧
  (∀ s c g, Stands s c g → Clear s c g {} → s.inTravel g = false →
    Completes .isync s c fun t g' =>
      MovedOn c g g' ∧ (∀ x ∈ (t.coreAt (coreKey g.die g.core)).istore, x.pinned = true) ∧
      (∀ k, k ≠ coreKey g.die g.core → t.coreAt k = s.coreAt k) ∧ RegFrame c g g' {} [] 0 0 [] [] ∧ SameMemory s t)

/-- R282, R283: what the TRAVEL instructions read, and the hint of a thread. -/
def Obligations.TravelInstructions : Prop :=
  (∀ d : BitVec 6, ScalarGives (.tseg d) {} d.toNat (fun s g => s.inTravel g = true)
    (fun s _ g => BitVec.ofNat 32 (((s.gridAt g.grid).segAt g.core).getD 0))) ∧
  (∀ a d : BitVec 6, ScalarGives (.tsegAddr a d) { scalars := [a.toNat] } d.toNat (fun s g => s.inTravel g = true)
    (fun s c g => match (s.gridAt g.grid).segOf (((s.gridAt g.grid).image + ((c.view g).scalar a.toNat).toNat) % 2 ^ 48) with
      | some n => BitVec.ofNat 32 n
      | none => 0xFFFFFFFF)) ∧
  (∀ (sl : BitVec 4) (a d : BitVec 6) s c g, sl.toNat ≤ 3 → badPair d.toNat = false → (sl ≠ 1 → a = 0) → s.inTravel g = true →
    (sl = 1 → ((c.view g).scalar a.toNat).toNat < 64 ∧ (Map.get (s.gridAt g.grid).segs {} ((c.view g).scalar a.toNat).toNat).valid = true) →
    Stands s c g → Clear s c g { scalars := if sl = 1 then [a.toNat] else [] } →
    Completes (.tstat sl a d) s c fun t g' =>
      let v := s.travelStat g sl.toNat ((c.view g).scalar a.toNat).toNat
      g'.regs.scalar d.toNat = v.1 ∧ g'.regs.scalar (d.toNat + 1) = v.2 ∧ MovedOn c g g' ∧
      RegFrame c g g' { scalars := if sl = 1 then [a.toNat] else [] } [] 0 0 [d.toNat, d.toNat + 1] [] ∧ OnlyGroup s t c.g) ∧
  (∀ (h : BitVec 4) s c g, h.toNat ≤ 2 → s.inTravel g = true → Stands s c g → Clear s c g {} →
    Completes (.thint h) s c fun t g' =>
      (∀ l, c.lanes.getLsbD l = true → (g'.thread l).hint = h.toNat) ∧ MovedOn c g g' ∧ RegFrame c g g' {} [] 0 0 [] [] ∧ OnlyGroup s t c.g)

namespace Sys2Proof.Machine

/-! ### Rings, barriers, witnesses -/

/-- A ring instruction's conditions: no travel launch, the ring is configured, and the group's team is listed (R86, R87). -/
def usesRing (k : Nat) (s : State) (g : Group) : Prop :=
  s.inTravel g = false ∧ (s.ringAt g.team k).conf = true ∧ (Map.find s.teams g.team).isSome = true

/-- An RWAIT takes the path on and parks it on the stage, whose index is the scalar plus the offset in 32 bits; the wait itself is judged at
the end of the clock (R87, R298). -/
def WaitsOnRing (i : BitVec 3 → BitVec 1 → BitVec 4 → BitVec 6 → Instr) (full : Bool) : Prop :=
  ∀ k p im a s c g, Stands s c g → Clear s c g { scalars := [a.toNat] } → usesRing k.toNat s g →
    Completes (i k p im a) s c fun t g' =>
      (∀ l, c.lanes.getLsbD l = true →
        (g'.thread l).park = .ring k.toNat full (p = 1) ((c.view g).scalar a.toNat + im.zeroExtend 32).toNat) ∧
      MovedOn c g g' ∧ RegFrame c g g' { scalars := [a.toNat] } [] 0 0 [] [] ∧ OnlyGroup s t c.g

/-- The barrier of an owner after the arrivals of the path's threads (R122). -/
def arrived (s : State) (c : Issue) (g : Group) (plot : Bool) (owner id : Nat) : Barrier :=
  (lanesOf c.lanes).foldl (fun b l => b.arrive (g.team, (g.thread l).tid)) (s.barrier plot owner id)

/-- Who owns the barriers that a group names: its team, or its team's plot (R121). -/
def ownerOf (s : State) (g : Group) (plot : Bool) : Nat := if plot then (s.teamAt g.team).plot else g.team

def ownerListed (s : State) (g : Group) (plot : Bool) : Prop :=
  if plot then (Map.find s.plots (ownerOf s g plot)).isSome = true else (Map.find s.teams (ownerOf s g plot)).isSome = true

/-- A barrier instruction records the arrival of every thread of the path. While some covered thread is missing a BAR parks each
thread for the phase it has arrived in; the last arrival turns the phase and starts the next one with the arrivals it has, which may complete
that one too (R122, R123). -/
def BarrierGives (i : Instr) (plot wait : Bool) (id : Nat) : Prop :=
  ∀ s c g, Stands s c g → Clear s c g {} → s.inTravel g = false → ownerListed s g plot →
    Completes i s c fun t g' =>
      MovedOn c g g' ∧ RegFrame c g g' {} [] 0 0 [] [] ∧
      (barrierDone (arrived s c g plot (ownerOf s g plot) id) (s.covered plot (ownerOf s g plot)) = false →
        t.barrier plot (ownerOf s g plot) id = arrived s c g plot (ownerOf s g plot) id ∧
        (wait = true → ∀ l, c.lanes.getLsbD l = true → (g'.thread l).park = .barrier plot id
          (if (s.barrier plot (ownerOf s g plot) id).cur.contains (g.team, (g.thread l).tid) then !(s.barrier plot (ownerOf s g plot) id).phase
           else (s.barrier plot (ownerOf s g plot) id).phase))) ∧
      (barrierDone (arrived s c g plot (ownerOf s g plot) id) (s.covered plot (ownerOf s g plot)) = true →
        let b : Barrier := { phase := !(s.barrier plot (ownerOf s g plot) id).phase, cur := (arrived s c g plot (ownerOf s g plot) id).nxt, nxt := [] }
        t.barrier plot (ownerOf s g plot) id =
          (if barrierDone b (s.covered plot (ownerOf s g plot)) then { phase := !b.phase, cur := [], nxt := [] } else b)) ∧
      SameMemory s t

/-- The operands of an instruction that presents pair a. -/
def pairOperands (a : Nat) : Opnds := ({} : Opnds).present a

/-- The witness that an active lane presents through pair a. -/
def witOf (a : Nat) (c : Issue) (g : Group) (l : Nat) : Wit := (c.view g).wit a l

/-- No lane of the path presents a witness that R189 refuses. -/
def presentable (a : Nat) (c : Issue) (g : Group) : Prop := presentFault g.die true c.lanes (witOf a c g) = none

end Sys2Proof.Machine

/-- R86 to R89, R121 to R123: the ring instructions, and the barriers of a team and of a plot, waited on or only arrived at. RCFG waits
while a copy that names the ring is in flight, and RCFG_COMPLETE lets it take effect. A full stage turns its phase when it is released and
fills at once where the arrivals for the next round are there; an arrival fills an empty stage when it is the last one needed. That the
index of a stage is the sum in 32 bits, taken modulo the number of stages, is the model's reading (log entry 38). -/
def Obligations.RingsAndBarriersWork : Prop :=
  (∀ (k : BitVec 3) (a b : BitVec 6) s c g, Stands s c g → Clear s c g { scalars := [a.toNat, b.toNat] } → s.inTravel g = false →
    (Map.find s.teams g.team).isSome = true →
    ((c.view g).scalar a.toNat).toNat % 128 = 0 → ((c.view g).scalar b.toNat).extractLsb' 16 16 ≠ 0 →
    ((c.view g).scalar b.toNat).extractLsb' 12 4 = 0 → ((c.view g).scalar b.toNat).extractLsb' 4 4 = 0 →
    (let r := ringOf ((c.view g).scalar a.toNat).toNat ((c.view g).scalar b.toNat).toNat
     r.base + r.n * r.size ≤ (s.teamAt g.team).size) →
    k.toNat < (s.teamAt g.team).nrings → s.ringBusy g.team k.toNat = false →
    Completes (.rcfg k a b) s c fun t g' =>
      t.ringAt g.team k.toNat = ringOf ((c.view g).scalar a.toNat).toNat ((c.view g).scalar b.toNat).toNat ∧
      (∀ j, j ≠ k.toNat → t.ringAt g.team j = s.ringAt g.team j) ∧ MovedOn c g g' ∧
      RegFrame c g g' { scalars := [a.toNat, b.toNat] } [] 0 0 [] [] ∧ SameMemory s t) ∧
  (∀ s k gr m l n base geom, Map.find s.groups k = some gr → gr.set ≠ .halted → gr.saved = false →
    (Map.find s.teams gr.team).isSome = true → (gr.thread l).live = true → (gr.thread l).stall = .rcfg n base geom → s.ringBusy gr.team n = false →
    m = maskOf (fun j => match (gr.thread j).stall with
      | .rcfg r _ _ => (gr.thread j).live && !s.ringBusy gr.team r
      | _ => false) → l = lowLane m → m ≠ 0 →
    Happens (.rcfgComplete k) s fun t => t.ringAt gr.team n = ringOf base geom ∧ SameMemory s t) ∧
  WaitsOnRing .rwaitF true ∧ WaitsOnRing .rwaitE false ∧
  (∀ (k : BitVec 3) (im : BitVec 4) (a : BitVec 6) s c g, Stands s c g → Clear s c g { scalars := [a.toNat] } → usesRing k.toNat s g →
    Completes (.rrel k im a) s c fun t g' =>
      let r := s.ringAt g.team k.toNat
      t.ringAt g.team k.toNat = r.release (((c.view g).scalar a.toNat + im.zeroExtend 32).toNat % r.n) ∧ MovedOn c g g' ∧
      RegFrame c g g' { scalars := [a.toNat] } [] 0 0 [] [] ∧ SameMemory s t) ∧
  (∀ (k : BitVec 3) (im : BitVec 4) (a : BitVec 6) s c g, Stands s c g → Clear s c g { scalars := [a.toNat] } → usesRing k.toNat s g →
    Completes (.rarv k im a) s c fun t g' =>
      let r := s.ringAt g.team k.toNat
      t.ringAt g.team k.toNat = { r with arr := r.arr ++ [((c.view g).scalar a.toNat + im.zeroExtend 32).toNat % r.n] } ∧
      MovedOn c g g' ∧ RegFrame c g g' { scalars := [a.toNat] } [] 0 0 [] [] ∧ SameMemory s t) ∧
  (∀ (k : BitVec 3) (a b : BitVec 6), ScalarGives (.rstat k a b) {} b.toNat (usesRing k.toNat)
    (fun s _ g =>
      let r := s.ringAt g.team k.toNat
      maskOf fun i => if i < 16 then decide (i < r.n) && (r.stage i).full else decide (i - 16 < r.n) && (r.stage (i - 16)).phase)) ∧
  (∀ (r : Ring) (i : Nat), (r.stage i).full = true → (r.stage i).count < r.need →
    (r.release i).stage i = { full := false, phase := !(r.stage i).phase, count := (r.stage i).count }) ∧
  (∀ (r : Ring) (i : Nat), (r.stage i).full = true → r.need ≤ (r.stage i).count →
    (r.release i).stage i = { full := true, phase := !(r.stage i).phase, count := (r.stage i).count - r.need }) ∧
  (∀ (r : Ring) (i : Nat), (r.stage i).full = false → r.release i = r) ∧
  (∀ (r : Ring) (i : Nat), (r.stage i).full = false → r.need ≤ (r.stage i).count + 1 →
    (r.arrive i).stage i = { (r.stage i) with full := true, count := (r.stage i).count + 1 - r.need }) ∧
  (∀ (r : Ring) (i : Nat), ((r.stage i).full = true ∨ (r.stage i).count + 1 < r.need) →
    (r.arrive i).stage i = { (r.stage i) with count := (r.stage i).count + 1 }) ∧
  (∀ (r : Ring) (i j : Nat), j ≠ i → (r.arrive i).stage j = r.stage j ∧ (r.release i).stage j = r.stage j) ∧
  (∀ im : BitVec 4, BarrierGives (.bar im) false true im.toNat) ∧ (∀ im : BitVec 2, BarrierGives (.barP im) true true im.toNat) ∧
  (∀ im : BitVec 4, BarrierGives (.barArv im) false false im.toNat) ∧ (∀ im : BitVec 2, BarrierGives (.barPArv im) true false im.toNat)

/-- R193, R198 to R201: the instructions on witnesses. A merge that needs no ticket writes what Merge gives; WALL takes one ticket that
names the group's writes; WWAIT goes on where every lane's witness is satisfied and else parks; WTEST says which are. A parked set goes on
when all its witnesses are satisfied, and the oldest ticket settles when its requirements hold. -/
def Obligations.WitnessInstructions : Prop :=
  (∀ (p : BitVec 3) (b a d : BitVec 6) s c g (w : Nat → Wit), d.toNat < 48 → Stands s c g →
    Clear s c g (((({ preds := [p.toNat], dests := witCodes d.toNat } : Opnds).presentIn (guardLanes c g p.toNat) a.toNat).presentIn
      (guardLanes c g p.toNat) b.toNat)) →
    (∀ l, (guardLanes c g p.toNat).getLsbD l = true →
      mergeSet g.die g.core (s.die g.die).inc [witOf a.toNat c g l, witOf b.toNat c g l] = .wit (w l)) →
    Completes (.wmerge p b a d) s c fun t g' =>
      (∀ l, (guardLanes c g p.toNat).getLsbD l = true → g'.regs.wit d.toNat l = w l) ∧ MovedOn c g g' ∧
      RegFrame c g g' (((({ preds := [p.toNat], dests := witCodes d.toNat } : Opnds).presentIn (guardLanes c g p.toNat) a.toNat).presentIn
        (guardLanes c g p.toNat) b.toNat)) (witCodes d.toNat) (guardLanes c g p.toNat) 0 [] [] ∧ OnlyGroup s t c.g) ∧
  (∀ (p : BitVec 3) (a d : BitVec 6) s c g w, 48 ≤ d.toNat → d.toNat < 63 → a.toNat ≠ 63 → Stands s c g →
    Clear s c g (({ preds := [p.toNat] } : Opnds).presentIn (guardLanes c g p.toNat) a.toNat) →
    mergeSet g.die g.core (s.die g.die).inc ((lanesOf (guardLanes c g p.toNat)).map (witOf a.toNat c g)) = .wit w →
    Completes (.wreduce p a d) s c fun t g' => (∀ l, g'.regs.wit d.toNat l = w) ∧ MovedOn c g g' ∧
      RegFrame c g g' (({ preds := [p.toNat] } : Opnds).presentIn (guardLanes c g p.toNat) a.toNat) [] 0 0 (witScalars d.toNat) [] ∧ OnlyGroup s t c.g) ∧
  (∀ (d : BitVec 6) s c g, d.toNat ≠ 63 → Stands s c g → Clear s c g { dests := witCodes d.toNat } →
    0 < s.freeTickets (coreKey g.die g.core) →
    Completes (.wall d) s c fun t g' =>
      let k := (s.coreAt (coreKey g.die g.core)).ticketNext
      (∀ l, c.lanes.getLsbD l = true → g'.regs.wit d.toNat l = frontierWit g.die (s.die g.die).inc g.core k) ∧
      Map.find (t.coreAt (coreKey g.die g.core)).tickets k = some { drain := s.drainOf c.g, ctx := g.ctx } ∧
      (t.coreAt (coreKey g.die g.core)).ticketNext = k + 1 ∧ MovedOn c g g' ∧
      RegFrame c g g' { dests := witCodes d.toNat } (witCodes d.toNat) c.lanes 0 (witScalars d.toNat) [] ∧ SameMemory s t) ∧
  (∀ (a : BitVec 6) s c g, a.toNat ≠ 63 → Stands s c g → Clear s c g (pairOperands a.toNat) → presentable a.toNat c g →
    Completes (.wwait a) s c fun t g' =>
      MovedOn c g g' ∧ RegFrame c g g' (pairOperands a.toNat) [] 0 0 [] [] ∧
      ((∀ l, c.lanes.getLsbD l = true → s.satisfied g.die g.core (witOf a.toNat c g l) = true) → OnlyGroup s t c.g ∧
        (atLast (c.head g) = false → ∀ l, c.lanes.getLsbD l = true → (g'.thread l).park = (g.thread l).park)) ∧
      ((∃ l, c.lanes.getLsbD l = true ∧ s.satisfied g.die g.core (witOf a.toNat c g l) = false) →
        ∃ set, ∀ l, c.lanes.getLsbD l = true → (g'.thread l).park = .witness (witOf a.toNat c g l) set)) ∧
  (∀ (p : BitVec 3) (a : BitVec 6) s c g, a.toNat ≠ 63 → Stands s c g → Clear s c g (pairOperands a.toNat) → presentable a.toNat c g →
    Completes (.wtest p a) s c fun t g' =>
      (∀ l, c.lanes.getLsbD l = true → p ≠ 0 → g'.regs.predAt p.toNat l = s.satisfied g.die g.core (witOf a.toNat c g l)) ∧
      (∀ l, l < 32 → c.lanes.getLsbD l = false → g'.regs.predAt p.toNat l = g.regs.predAt p.toNat l) ∧
      MovedOn c g g' ∧ RegFrame c g g' (pairOperands a.toNat) [] 0 0 [] [p.toNat] ∧ OnlyGroup s t c.g) ∧
  (∀ s k gr l w set, Map.find s.groups k = some gr → gr.set ≠ .halted → gr.saved = false → (Map.find gr.threads l).isSome = true →
    (gr.thread l).park = .witness w set → s.setSatisfied gr set = true →
    Happens (.witnessWake k) s fun t =>
      ((t.groupAt k).thread l).park = .none ∨ ((t.groupAt k).thread l).park = .depart) ∧
  (∀ s core x, Map.find (s.coreAt core).tickets ((s.coreAt core).settled + 1) = some x → s.ticketReady (core / 24) (core % 24) x = true →
    Happens (.ticketSettle core) s fun t =>
      (t.coreAt core).settled = (s.coreAt core).settled + 1 ∧ Map.find (t.coreAt core).tickets ((s.coreAt core).settled + 1) = none ∧
      (∀ k, k ≠ core → t.coreAt k = s.coreAt k) ∧ SameMemory s t ∧ t.groups = s.groups)

/-- R102, R192, R194: what a core knows of a home is the home table, to which the announcements taken at a window become two windows later;
a point of this incarnation is satisfied exactly when its count is not ahead of what the core knows of its home, by less than 2^20 in serial
order; the core's own home is always known; a frontier of this incarnation is satisfied exactly when its ticket is not ahead of the settled
count that its core has announced, by less than 2^20, on that core itself too; a witness of another incarnation, the empty witness and a
token are satisfied. -/
def Obligations.SatisfactionRule : Prop :=
  (∀ (s : Sys2Proof.Machine.State) (die core : Nat) (w : Wit), witForm w = 1 → witInc w = (s.die die).inc % 16 → pointHome w ≠ coreHome core →
    (s.satisfied die core w = true ↔
      ((witCount w + 2 ^ 48 - (s.die die).tableOf (pointHome w) % 2 ^ 48) % 2 ^ 48 = 0 ∨
       2 ^ 20 ≤ (witCount w + 2 ^ 48 - (s.die die).tableOf (pointHome w) % 2 ^ 48) % 2 ^ 48))) ∧
  (∀ (s : Sys2Proof.Machine.State) (die core : Nat) (w : Wit), witForm w = 1 → pointHome w = coreHome core → s.satisfied die core w = true) ∧
  (∀ (s : Sys2Proof.Machine.State) (die core : Nat) (w : Wit), witForm w = 2 → witInc w = (s.die die).inc % 16 →
    (s.satisfied die core w = true ↔
      ((witCount w + 2 ^ 48 - (s.die die).tableOf (settledEntry (witHome w)) % 2 ^ 48) % 2 ^ 48 = 0 ∨
       2 ^ 20 ≤ (witCount w + 2 ^ 48 - (s.die die).tableOf (settledEntry (witHome w)) % 2 ^ 48) % 2 ^ 48))) ∧
  (∀ (s : Sys2Proof.Machine.State) (die core : Nat) (w : Wit), (witForm w = 1 ∨ witForm w = 2) → witInc w ≠ (s.die die).inc % 16 → s.satisfied die core w = true) ∧
  (∀ (s : Sys2Proof.Machine.State) (die core : Nat) (w : Wit), (w = 0 ∨ witForm w = 3) → s.satisfied die core w = true) ∧
  (∀ s die, Happens (.flueSnapshot die) s fun t =>
    (∃ m, ((s.die die).clock / 32, m) ∈ (t.die die).snaps ∧ (∀ h, h < 50 → Map.get m 0 h = (s.die die).visibleOf h) ∧
      (∀ c, c < 24 → Map.get m 0 (settledEntry c) = (s.coreAt (coreKey die c)).settled ∧ Map.get m 0 (depthEntry c) = s.depthOf die c)) ∧
    (t.die die).table = (s.die die).table ∧ SameMemory s t ∧ t.groups = s.groups) ∧
  (∀ s die w m, (s.die die).snaps.find? (fun e => decide (e.1 + 2 = (s.die die).clock / 32)) = some (w, m) →
    Happens (.flueApply die) s fun t => (t.die die).table = m)

namespace Sys2Proof.Machine

/-! ### The matrix unit -/

/-- Outside the registers that the last-read bits release, every register keeps its value. -/
structure RegsKept (c : Issue) (g g' : Group) (o : Opnds) : Prop where
  codes : ∀ n l, n < 104 → l < 32 → n ∉ releaseList o c g → g'.regs.read n l = g.regs.read n l
  latch : ∀ l, g'.regs.latch l = g.regs.latch l
  scalars : ∀ n, g'.regs.scalar n = g.regs.scalar n
  preds : ∀ n, g'.regs.pred n = g.regs.pred n

/-- The operands of an MMA: the A block where no latch serves it, whose residues are tested as they are read (R177), and the scalar that gives
B's address. -/
def mmaOperands (x : MmaArgs) (g : Group) : Opnds :=
  { whole := mmaReads g x, scalars := [x.sb], first := mmaReleases g x, bases := [(16 * x.ab, 16)], sends := true }

/-- B's team-memory address. -/
def mmaBase (x : MmaArgs) (c : Issue) (g : Group) : Nat := ((c.view g).scalar x.sb).toNat

/-- The conditions of an MMA beside those of every instruction (R43, R169, R174 to R178). -/
structure MmaMay (s : State) (c : Issue) (g : Group) (x : MmaArgs) : Prop where
  travel : s.inTravel g = false
  role : g.role = .unified ∨ g.role = .matrix
  base : x.ab < 6 ∧ (x.sc = true → x.ab < 5)
  tile : x.tile < (s.teamAt g.team).tiles
  latch : ∀ l, g.latch = some l → l.base = 16 * x.ab ∧ (x.sc = true → l.scales.isSome = true)
  yoke : x.yoke = true → ∃ f, s.follower g = some f ∧ f ≠ g.team
  block : (s.localTeam g (mmaBase x c g) (mmaBytes (mmaClass s g x) x.sc)).isSome = true
  aligned : mmaBase x c g % 128 = 0
  format : mmaFormat s g x = none
  free : mmaStall s c g x (mmaBytes (mmaClass s g x) x.sc) = none
  sound : s.bad = []

/-- The bytes of A with the scale bytes that an MMA uses: from the latch while it is held, else from the registers (R176, R177). -/
def mmaBytesOfA (c : Issue) (g : Group) (x : MmaArgs) : List Byte × Option (List Byte) :=
  match g.latch with
  | some l => (l.a, if x.sc then l.scales else none)
  | none => ((block (16 * x.ab) 16).flatMap (c.view g).bytes, if x.sc then some ((c.view g).bytes (16 * x.ab + 16)) else none)

/-- Element (i, j) of a team's tile, accumulated from the rows of A and the columns of B at an offset of the team's memory (R167, R170,
R171), with its flags. -/
def accumulates (s : State) (m : MClass) (a : List (List (FVal × Int))) (fdB : Word) (scaled : Bool) (team tile b i j : Nat) : Word × FFlags :=
  let bytes := readBytes s.team (s.teamByte team b) (mmaBytes m scaled)
  let cols := mmaCols m (descOf fdB) (bytes.take 4096) (if scaled then some (bytes.drop 4096) else none)
  mmaElem (a.getD i []) (cols.getD j []) (s.tile (tileKey team tile i j))

/-- What an MMA makes of element (i, j) of its team's tile, with its flags (R171). -/
def mmaCell (s : State) (c : Issue) (g : Group) (x : MmaArgs) (i j : Nat) : Word × FFlags :=
  accumulates s (mmaClass s g x) (mmaRows (mmaClass s g x) (descOf (s.fd g x.fdA)) (mmaBytesOfA c g x).1 (mmaBytesOfA c g x).2) (s.fd g x.fdB)
    x.sc g.team x.tile (mmaBase x c g) i j

/-- Every word of tile memory outside n words from k on is as it was. -/
def TilesKept (s t : State) (k n : Nat) : Prop := ∀ j, (j < k ∨ k + n ≤ j) → t.tile j = s.tile j

/-- What a yoked MMA leaves for its follower core at the end of the clock (R180, R182): team and tile, the class with the descriptors, A and
B's offset, for group k, whose flags are raised with the tile write. -/
def LeavesYoke (s : State) (c : Issue) (g : Group) (x : MmaArgs) (f : Nat) (y : YokeRun) : Prop :=
  y.g = c.g ∧ y.team = f ∧ y.tile = x.tile ∧ y.b = mmaBase x c g ∧ y.cls = mmaClass s g x ∧ y.fdA = s.fd g x.fdA ∧ y.fdB = s.fd g x.fdB ∧
  y.a = (mmaBytesOfA c g x).1 ∧ y.scales = (mmaBytesOfA c g x).2

/-- An MMA: every element of its tile is the exact-sum result, every other cell of tile memory stays, the flags of all elements are raised
for the tile write, and the latch keeps the block where KEEP asks for it, else is let go; a yoked one leaves its follower's part to the end of the
clock (R53, R171, R176, R177, R180). -/
def MmaGives (i : Instr) (x : MmaArgs) : Prop :=
  ∀ s c g, Stands s c g → Clear s c g (mmaOperands x g) → MmaMay s c g x →
    Completes i s c fun t g' =>
      (∀ r j, r < 64 → j < 128 → t.tile (tileKey g.team x.tile r j) = (mmaCell s c g x r j).1) ∧
      TilesKept s t (tileKey g.team x.tile 0 0) 8192 ∧
      g'.flagsNow = g.flagsNow ||| orFlags ((List.range 8192).map fun n => (mmaCell s c g x (n / 128) (n % 128)).2) ∧ g'.fflags = g.fflags ∧
      (∀ f, x.yoke = true → s.follower g = some f → ∃ y, LeavesYoke s c g x f y ∧
        (t.coreAt (coreKey g.die g.core + 1)).yokes = (s.coreAt (coreKey g.die g.core + 1)).yokes ++ [y]) ∧
      (x.yoke = false → ∀ k, (t.coreAt k).yokes = (s.coreAt k).yokes) ∧
      (g'.latch.isSome = x.keep) ∧
      (x.keep = true → (∀ l, g.latch = some l → g'.latch = some l) ∧
        (g.latch = none → g'.latch.map (·.base) = some (16 * x.ab) ∧
          g'.latch.map (·.a) = some ((block (16 * x.ab) 16).flatMap (c.view g).bytes))) ∧
      t.hbm = s.hbm ∧ t.scratch = s.scratch ∧ t.team = s.team ∧ MovedOn c g g' ∧ RegsKept c g g' (mmaOperands x g)

/-- The follower's part at the end of the clock: the same accumulation with the follower's own tile and memory, its flags raised in the
leader's group (R180). -/
def FollowerGives : Prop :=
  ∀ (s : Sys2Proof.Machine.State) ck y g, (s.coreAt ck).yokes = [y] → s.bad = [] → Map.find s.groups y.g = some g →
    let t := s.runYokes ck
    let cell := fun i j => accumulates s y.cls (mmaRows y.cls (descOf y.fdA) y.a y.scales) y.fdB y.scales.isSome y.team y.tile y.b i j
    (∀ r j, r < 64 → j < 128 → t.tile (tileKey y.team y.tile r j) = (cell r j).1) ∧
    TilesKept s t (tileKey y.team y.tile 0 0) 8192 ∧
    (∃ g', Map.find t.groups y.g = some g' ∧ g'.flagsNow = g.flagsNow ||| orFlags ((List.range 8192).map fun n => (cell (n / 128) (n % 128)).2) ∧
      g'.regs = g.regs ∧ g'.threads = g.threads) ∧
    t.hbm = s.hbm ∧ t.scratch = s.scratch ∧ t.team = s.team ∧ (t.coreAt ck).yokes = []

/-- What the tile instructions have in common: no travel launch and a tile that the team has (R184). -/
def hasTile (s : State) (g : Group) (t : Nat) : Prop := s.inTravel g = false ∧ t < (s.teamAt g.team).tiles

/-- The slice that a TMOV names (R183). -/
def sliceIndex (c : Issue) (g : Group) (sl : BitVec 6) (im : BitVec 5) : Nat := ((c.view g).scalar sl.toNat + im.zeroExtend 32).toNat

/-- The rows that TLDT and TSTT move: the first and how many (R186). -/
def movesRows (c : Issue) (g : Group) (x : BitVec 6) (row n : Nat) : Prop := rowScalar ((c.view g).scalar x.toNat) = some (row, n)

/-- The team-memory bytes of a tile instruction: n of them at the address that scalar a gives, from key on, aligned to m, which no copy in
flight holds, no earlier access still has to reach and, where they are written, no command ahead has still to read as its index list (R84, R98,
R186, R187). -/
structure TileRange (s : State) (c : Issue) (g : Group) (a : BitVec 6) (key n m : Nat) (write : Bool) : Prop where
  inside : s.localTeam g ((c.view g).scalar a.toNat).toNat n = some key
  aligned : ((c.view g).scalar a.toNat).toNat % m = 0
  free : rangeStall s g .team key n write = none
  turn : (if write then s.turnStallAt g key n else s.turnStall g) = none
  sound : s.bad = []

/-- The codes of slice i of a tile under a descriptor (R150, R187). -/
def epiCodes (s : State) (g : Group) (tile i : Nat) (d : Desc) (e : Int) : List (Nat × FFlags) :=
  (List.range 32).map fun k =>
    toNarrow d e (fp32.value (s.tile (tileKey g.team tile (i / 4) (32 * (i % 4) + k))).toNat) (RMode.ofCode d.round)

end Sys2Proof.Machine

/-- R171, R174 to R178, R180: the three forms of MMA, every class, scaled or not, yoked or not, with the latch; and the follower's part of a
yoked one. That the values are taken at issue, and a yoked follower's part at the end of the clock, is the model's choice (log entry 81). -/
def Obligations.MatrixAccumulates : Prop :=
  (∀ (t : BitVec 6) (sl : BitVec 5) (b a : BitVec 3) (c y r : BitVec 1) (v : BitVec 3),
    MmaGives (.mma t sl b a c y r v)
      { tile := t.toNat, sb := sl.toNat, wide := none, fdA := a.toNat, fdB := b.toNat, sc := c = 1, yoke := y = 1, keep := r = 1, ab := v.toNat }) ∧
  (∀ (t : BitVec 6) (sl : BitVec 5) (y r : BitVec 1) (v : BitVec 3),
    MmaGives (.mmaF16 t sl y r v) { tile := t.toNat, sb := sl.toNat, wide := some .f16, yoke := y = 1, keep := r = 1, ab := v.toNat }) ∧
  (∀ (t : BitVec 6) (sl : BitVec 5) (y r : BitVec 1) (v : BitVec 3),
    MmaGives (.mmaBf16 t sl y r v) { tile := t.toNat, sb := sl.toNat, wide := some .bf16, yoke := y = 1, keep := r = 1, ab := v.toNat }) ∧
  FollowerGives

/-- R183 to R187: tiles to and from registers and team memory. -/
def Obligations.TilesMove : Prop :=
  (∀ (tl : BitVec 6) (x : BitVec 1) (sl : BitVec 6) (im v : BitVec 5) s c g, s.bad = [] → hasTile s g tl.toNat → sliceIndex c g sl im ≤ 255 →
    Stands s c g → Clear s c g { scalars := [sl.toNat], dests := [v.toNat] } →
    Completes (.tmovToReg tl x sl im v) s c fun t g' =>
      (∀ l, c.lanes.getLsbD l = true → g'.regs.read v.toNat l = s.tile (sliceKey g tl.toNat (x = 1) (sliceIndex c g sl im) l) ∧
        g'.regs.latch l = s.tile (sliceKey g tl.toNat (x = 1) (sliceIndex c g sl im) l)) ∧
      MovedOn c g g' ∧ RegFrame c g g' { scalars := [sl.toNat], dests := [v.toNat] } [v.toNat] c.lanes c.lanes [] [] ∧
      g'.fflags = g.fflags ∧ g'.flagsNow = g.flagsNow ∧ OnlyGroup s t c.g) ∧
  (∀ (tl : BitVec 6) (x : BitVec 1) (sl : BitVec 6) (im v : BitVec 5) s c g, hasTile s g tl.toNat → sliceIndex c g sl im ≤ 255 →
    Stands s c g → Clear s c g { scalars := [sl.toNat], reads := [v.toNat], first := [v.toNat] } →
    Completes (.tmovToTile tl x sl im v) s c fun t g' =>
      (∀ l, c.lanes.getLsbD l = true → t.tile (sliceKey g tl.toNat (x = 1) (sliceIndex c g sl im) l) = (c.view g).read v.toNat l) ∧
      (∀ k, (∀ l, c.lanes.getLsbD l = true → k ≠ sliceKey g tl.toNat (x = 1) (sliceIndex c g sl im) l) → t.tile k = s.tile k) ∧
      t.hbm = s.hbm ∧ t.scratch = s.scratch ∧ t.team = s.team ∧ MovedOn c g g' ∧
      RegsKept c g g' { scalars := [sl.toNat], reads := [v.toNat], first := [v.toNat] }) ∧
  (∀ (tl : BitVec 6) s c g, hasTile s g tl.toNat → Stands s c g → Clear s c g {} →
    Completes (.tzero tl) s c fun t g' =>
      (∀ i j, i < 64 → j < 128 → t.tile (tileKey g.team tl.toNat i j) = 0) ∧ TilesKept s t (tileKey g.team tl.toNat 0 0) 8192 ∧
      t.hbm = s.hbm ∧ t.scratch = s.scratch ∧ t.team = s.team ∧ MovedOn c g g' ∧ RegsKept c g g' {}) ∧
  (∀ (tl a x : BitVec 6) s c g row n key, hasTile s g tl.toNat → movesRows c g x row n → TileRange s c g a key (512 * n) 16 false →
    Stands s c g → Clear s c g { scalars := [a.toNat, x.toNat] } →
    Completes (.tldt tl a x) s c fun t g' =>
      (∀ j, j < 128 * n →
        (t.tile (tileKey g.team tl.toNat (row + j / 128) (j % 128))).toNat = readNat s.team (key + 4 * j) 4) ∧
      TilesKept s t (tileKey g.team tl.toNat row 0) (128 * n) ∧
      t.hbm = s.hbm ∧ t.scratch = s.scratch ∧ t.team = s.team ∧ MovedOn c g g' ∧ RegsKept c g g' {}) ∧
  (∀ (tl a x : BitVec 6) s c g row n key, hasTile s g tl.toNat → movesRows c g x row n → TileRange s c g a key (512 * n) 16 true →
    s.homeRoom g.die (coreHome g.core) (4 * n + 1) = true →
    Stands s c g → Clear s c g { scalars := [a.toNat, x.toNat] } →
    Completes (.tstt tl a x) s c fun t g' =>
      (∀ j, j < 128 * n →
        readNat t.team (key + 4 * j) 4 = (s.tile (tileKey g.team tl.toNat (row + j / 128) (j % 128))).toNat) ∧
      (∀ j, (j < key ∨ key + 512 * n ≤ j) → Map.get t.team 0 j = Map.get s.team 0 j) ∧
      t.hbm = s.hbm ∧ t.scratch = s.scratch ∧ t.tiles = s.tiles ∧ MovedOn c g g' ∧ RegsKept c g g' {}) ∧
  (∀ (tl a x : BitVec 6) (f : BitVec 3) s c g e i n key, hasTile s g tl.toNat → epiScalar ((c.view g).scalar x.toNat) = some (e, i, n) →
    descValid (s.fd g f.toNat) = true →
    (let d := descOf (s.fd g f.toNat)
     let m := if d.layout = 1 then 16 else 32
     TileRange s c g a key (m * n) m true → s.homeRoom g.die (coreHome g.core) n = true →
     Stands s c g → Clear s c g { scalars := [a.toNat, x.toNat] } →
     Completes (.tepi tl a x f) s c fun t g' =>
      (∀ q, q < n → readBytes t.team (key + m * q) m = packCodes d.layout ((epiCodes s g tl.toNat (i + q) d e).map (·.1))) ∧
      (∀ j, (j < key ∨ key + m * n ≤ j) → Map.get t.team 0 j = Map.get s.team 0 j) ∧
      g'.flagsNow = g.flagsNow ||| orFlags ((List.range n).flatMap fun q => (epiCodes s g tl.toNat (i + q) d e).map (·.2)) ∧ g'.fflags = g.fflags ∧
      t.hbm = s.hbm ∧ t.scratch = s.scratch ∧ t.tiles = s.tiles ∧ MovedOn c g g' ∧ RegsKept c g g' {}))

namespace Sys2Proof.Machine

/-! ### Copies and base-die commands -/

/-- The shape record of a command after substitution (R37, R78). -/
def copyShape (h : BitVec 128) (c : Issue) (g : Group) : Shape := shapeOf (shapeFields h (c.view g))

/-- The operands of a command: n scalars from a, the scalars that ls and the markers name, and the pair w. -/
def copyOperands (a n : Nat) (ls : List Nat) (h : BitVec 128) (w : Nat) : Opnds :=
  ({ scalars := (upto a n ++ (ls ++ markers h)).filter (· < 64), bases := [(scalarNo a, n)] } : Opnds).present w

/-- What every command asks of the state: a copy or unified group, a flag with room, a witness without token, a place in the engine
(R43, R70, R71, R84, R189). -/
structure CopyMay (s : State) (c : Issue) (g : Group) (f : BitVec 1) (k : Nat) (w : BitVec 6) (entry : Bool) : Prop where
  role : g.role = .unified ∨ g.role = .copy
  flag : namesFlag c g f k
  pair : 48 ≤ w.toNat
  witness : presentFault g.die false (laneBit (lowLane c.lanes)) (fun l => (c.view g).wit w.toNat l) = none
  room : copyStall s g entry = none

/-- A shape that a command accepts: no reserved value, a row of whole bytes, and a valid descriptor where it is narrow (R71, R78, R79). -/
def goodShape (s : State) (g : Group) (sh : Shape) : Prop :=
  sh.illegal false = false ∧ shapeLimits sh (sh.elemOf (fdOf s g sh)) = none ∧ (sh.narrow = true → descValid (fdOf s g sh) = true)

/-- A command in the state t: number k, queued at the start of its box, with the fields p tells, counting on flag n; its flag has
risen, its witness pair is owed, its retirement is under way, and no memory has changed (R21, R23, R70, R73). -/
def CopyStarts (i : Instr) (s : State) (c : Issue) (g : Group) (n : Nat) (w : BitVec 6) (p : Cmd → Prop) : Prop :=
  Completes i s c fun t g' =>
    (∃ x, Map.find t.cmds s.fresh = some x ∧ x.stage = .queued ∧ x.pos = 0 ∧ x.counts = [] ∧ x.g = c.g ∧ x.flag = n ∧ x.wp = w.toNat ∧
      x.wit = (c.view g).wit w.toNat 0 ∧ p x) ∧
    (∀ k, k ≠ s.fresh → Map.find t.cmds k = Map.find s.cmds k) ∧
    t.inFlight (.copyRetire s.fresh) = true ∧ g'.flagOf n = g.flagOf n + 1 ∧
    (w.toNat < 63 → ∀ l, l < 32 →
      (g'.owedLanes (scalarNo (2 * (w.toNat - 48)))).getLsbD l = true ∧ (g'.owedLanes (scalarNo (2 * (w.toNat - 48) + 1))).getLsbD l = true) ∧
    MovedOn c g g' ∧ SameMemory s t

/-- The box of CPY or CPYO on die: in the scratchpad, in team memory, or in a stage of a ring, whose place scalar gives the stage and the
offset (R80, R82, R86). -/
def boxBase (s : State) (g : Group) (r : BitVec 1) (k : BitVec 3) (x : Nat) : Nat :=
  if r = 1 then (s.ringAt g.team k.toNat).base + x % 16 * (s.ringAt g.team k.toNat).size + x / 16 * 16 else x

/-- CPY and CPYO take their command (R71, R82, R83). -/
def CpyStarts (i : BitVec 1 → BitVec 1 → BitVec 1 → BitVec 3 → BitVec 6 → BitVec 6 → BitVec 6 → BitVec 128 → Instr) (kind : CmdKind) : Prop :=
  ∀ f p r k a d w h n va s c g, CopyMay s c g f n w true → goodShape s g (copyShape h c g) →
    (let sp : Space := if p = 1 then .scratch else .team
     let sh := copyShape h c g
     let e := sh.elemOf (fdOf s g sh)
     let x := ((c.view g).scalar d.toNat).toNat
     let base := boxBase s g r k x
     let size := sh.pitch e * sh.e1 * sh.e2 * sh.e3
     pairAddr (c.view g) a.toNat = some va → hbmAlign sh va = none → dieAlign sh base = none →
     (p = 0 → s.inTravel g = false) →
     dieRange s g sp base size = none → (r = 0 → k = 0) →
     (r = 1 → kind = .cpy ∧ p = 0 ∧ k.toNat < (s.teamAt g.team).nrings ∧ (s.ringAt g.team k.toNat).conf = true ∧
       x % 16 < (s.ringAt g.team k.toNat).n ∧ x / 16 * 16 + size ≤ (s.ringAt g.team k.toNat).size) →
     Stands s c g → Clear s c g (copyOperands a.toNat 2 [d.toNat] h w.toNat) →
     CopyStarts (i f p r k a d w h) s c g n w fun y =>
      y.kind = kind ∧ y.space = sp ∧ y.va = va ∧ y.base = base ∧ y.shape = shapeFields h (c.view g) ∧ y.fd = fdOf s g sh ∧
      y.ring = if r = 1 then some (k.toNat, x % 16) else none)

/-- GATH and RDCE take their command (R90, R91): a list of rows by index. -/
def RowsStart (i : BitVec 1 → BitVec 1 → BitVec 6 → BitVec 6 → BitVec 6 → BitVec 128 → Instr) (kind : CmdKind) : Prop :=
  ∀ f p a d w h n va s c g, CopyMay s c g f n w true →
    (let sp : Space := if p = 1 then .scratch else .team
     let sh : Shape := { copyShape h c g with e1 := 1, e2 := 1, e3 := 1 }
     let e := sh.elemOf (fdOf s g sh)
     let base := ((c.view g).scalar d.toNat).toNat
     let index := ((c.view g).scalar (a.toNat + 2)).toNat
     let rows := ((c.view g).scalar (a.toNat + 3)).toNat
     goodShape s g sh → sh.rank = 2 → rows ≤ 65536 → rows ≠ 0 → (kind = .rdce → sh.narrow = false ∧ (sh.elem = 1 ∨ sh.elem = 2)) →
     a.toNat + 3 ≤ 63 → pairAddr (c.view g) a.toNat = some va → hbmAlign sh va = none → dieAlign sh base = none → index % 4 = 0 →
     (p = 0 → s.inTravel g = false) → dieRange s g sp base (sh.pitch e * rows) = none → dieRange s g sp index (4 * rows) = none →
     Stands s c g → Clear s c g (copyOperands a.toNat 4 [d.toNat] h w.toNat) →
     CopyStarts (i f p a d w h) s c g n w fun y =>
      y.kind = kind ∧ y.space = sp ∧ y.va = va ∧ y.base = base ∧ y.index = index ∧ y.rows = rows ∧ y.fd = fdOf s g sh ∧
      y.shape = shapeFields h (c.view g))

/-- With no rows they retire at once: a null witness in their pair, and no command (R90). -/
def NoRows (i : BitVec 1 → BitVec 1 → BitVec 6 → BitVec 6 → BitVec 6 → BitVec 128 → Instr) (kind : CmdKind) : Prop :=
  ∀ f p a d w h n va s c g, CopyMay s c g f n w true →
    (let sp : Space := if p = 1 then .scratch else .team
     let sh : Shape := { copyShape h c g with e1 := 1, e2 := 1, e3 := 1 }
     let base := ((c.view g).scalar d.toNat).toNat
     let index := ((c.view g).scalar (a.toNat + 2)).toNat
     goodShape s g sh → sh.rank = 2 → (c.view g).scalar (a.toNat + 3) = 0 → (kind = .rdce → sh.narrow = false ∧ (sh.elem = 1 ∨ sh.elem = 2)) →
     a.toNat + 3 ≤ 63 → pairAddr (c.view g) a.toNat = some va → hbmAlign sh va = none → dieAlign sh base = none → index % 4 = 0 →
     (p = 0 → s.inTravel g = false) → dieRange s g sp base 0 = none → dieRange s g sp index 0 = none →
     Stands s c g → Clear s c g (copyOperands a.toNat 4 [d.toNat] h w.toNat) →
     Completes (i f p a d w h) s c fun t g' =>
      (w.toNat < 63 → g'.regs.scalar (2 * (w.toNat - 48)) = 0 ∧ g'.regs.scalar (2 * (w.toNat - 48) + 1) = 0) ∧ g'.cf = g.cf ∧
      MovedOn c g g' ∧ OnlyGroup s t c.g)

/-- A command that moves one element of whole bytes between HBM and the die, from the start of its box: n bytes at virtual address va
(aligned, on one page) and key on die. -/
structure OneElement (s : State) (k : Nat) (x : Cmd) (kind : CmdKind) (n : Nat) : Prop where
  listed : Map.find s.cmds k = some x
  kind : x.kind = kind
  runs : s.ctxRuns x.die x.ctx = true
  queued : x.stage = .queued ∧ x.pos = 0 ∧ x.counts = [] ∧ x.block = none ∧ x.cancel = false
  satisfied : s.satisfied x.die x.core x.wit = true
  /-- What it reads and writes in team memory has its turn (R72, R98). -/
  turn : s.cmdTurn k x = true
  /-- Nothing waits at the slices before it (R100). -/
  clear : s.slicesClear x = true
  shape : (shapeOf x.shape).narrow = false ∧ (shapeOf x.shape).packed = false ∧ (shapeOf x.shape).elem < 5 ∧ n = 2 ^ (shapeOf x.shape).elem ∧
    (shapeOf x.shape).count = 1 ∧ (shapeOf x.shape).inBounds 0 0 = true ∧ (shapeOf x.shape).swizzle = 0
  place : x.va % n = 0 ∧ x.va < 2 ^ 48 ∧ x.base % n = 0
  lead : ∀ h, h < 50 → s.homeRoom x.die h 1 = true
  sound : s.bad = []

end Sys2Proof.Machine

/-- R71, R82, R83, R90 to R94: what the copy instructions issue, and what CPYX reads and stops: a command whose turn falls in the same clock
is stopped after it, for what it then completes completes normally. -/
def Obligations.CopiesIssue : Prop :=
  CpyStarts .cpy .cpy ∧ CpyStarts .cpyo .cpyo ∧ RowsStart .hbxGath .gath ∧ RowsStart .hbxRdce .rdce ∧ NoRows .hbxGath .gath ∧
  NoRows .hbxRdce .rdce ∧
  (∀ (f p : BitVec 1) (a d w : BitVec 6) (h : BitVec 128) n va vb vc src dst s c g, CopyMay s c g f n w false →
    (let sh := copyShape h c g
     let x := (c.view g).scalar d.toNat
     let fd := s.fd g (x.toNat / 2 ^ (if x.toNat / 256 % 32 < 8 then 0 else 8) % 8)
     p = 0 → sh.illegal true = false → a.toNat + 5 ≤ 63 →
     pairAddr (c.view g) a.toNat = some va → pairAddr (c.view g) (a.toNat + 2) = some vb → pairAddr (c.view g) (a.toNat + 4) = some vc →
     sh.e0 ≠ 0 → x.toNat / 2 ^ 13 = 0 → x.toNat / 32 % 8 = 0 →
     convFmt (x.toNat / 256 % 32) = src → convFmt (x.toNat % 32) = dst →
     ((∃ m q y, src = .narrow m q ∧ dst = .wide y) ∨ (∃ m q y, src = .wide y ∧ dst = .narrow m q)) →
     (∀ m, (src = .narrow m false ∨ dst = .narrow m false) → (descOf fd).pitch = 4 → sh.e0 % 2 = 0) →
     convAlign src va = none → convAlign dst vb = none → (sh.swizzle = 1 → sh.pad = 1) → descValid fd = true →
     Stands s c g → Clear s c g (copyOperands a.toNat 6 [d.toNat] h w.toNat) →
     CopyStarts (.hbxConv f p a d w h) s c g n w fun y =>
      y.kind = .conv ∧ y.va = va ∧ y.va2 = vb ∧ y.va3 = vc ∧ y.format = x ∧ y.fd = fd ∧ y.shape = shapeFields h (c.view g))) ∧
  (∀ (f p : BitVec 1) (a d w : BitVec 6) (h : BitVec 128) n va s c g, CopyMay s c g f n w false → goodShape s g (copyShape h c g) →
    p = 0 → d = 0 → a.toNat + 3 ≤ 63 → pairAddr (c.view g) a.toNat = some va → hbmAlign (copyShape h c g) va = none →
    ((copyShape h c g).swizzle = 1 → (copyShape h c g).pad = 1) →
    Stands s c g → Clear s c g (copyOperands a.toNat 3 [] h w.toNat) →
    CopyStarts (.hbxFillz f p a d w h) s c g n w fun y =>
      y.kind = .fillz ∧ y.va = va ∧ y.pattern = (c.view g).scalar (a.toNat + 2) ∧ y.shape = shapeFields h (c.view g)) ∧
  (∀ (k : BitVec 4) (d : BitVec 6), k.toNat < 12 → ScalarGives (.cpyxStat k d) {} d.toNat (fun _ g => g.role = .unified ∨ g.role = .copy)
    (fun s c _ =>
      let l := s.cmdsOn c.g k.toNat
      BitVec.ofNat 32 (l.length + if l.any (fun e => decide (e.2.stage = .suspended)) then 65536 else 0))) ∧
  (∀ (k : BitVec 4) s c g, k.toNat < 12 → (g.role = .unified ∨ g.role = .copy) → Stands s c g → Clear s c g {} →
    (s.cmds.map (·.1)).Nodup →
    Completes (.cpyxCancel k) s c fun t g' =>
      (∀ n x, Map.find s.cmds n = some x → x.g = c.g → x.flag = k.toNat →
        if ∃ d ∈ s.pending, d.at_ ≤ s.now ∧ d.ev = .copyRetire n then Map.find t.cmds n = some { x with cancel := true }
        else if x.stage = .queued ∨ x.stage = .suspended then Map.find t.cmds n = some { x with stage := .stopped }
        else Map.find t.cmds n = some x) ∧
      (∀ n x, Map.find s.cmds n = some x → (x.g ≠ c.g ∨ x.flag ≠ k.toNat) → Map.find t.cmds n = some x) ∧
      MovedOn c g g' ∧ RegFrame c g g' {} [] 0 0 [] [] ∧ SameMemory s t)

/-- R72 to R76, R82, R83, R93: a command in the engine. A one-element CPY writes the bytes it reads in HBM to the die and nothing else, a
CPYO the other way round, and a FILLZ its pattern; a missing translation suspends it at its checkpoint and a forbidden one ends it, and each
raises its fault; once its writes are visible it retires, with its flag dropped and its witness in its pair. A command moves all its data in
one step by the model's choice (log entry 17). -/
def Obligations.CopiesRetire : Prop :=
  (∀ s k x n pa, OneElement s k x .cpy n → (x.space = .team ∨ x.space = .scratch) →
    (s.translate (coreKey x.die x.core) x.die x.ctx x.va .read).1 = .ok pa →
    Happens (.copyRetire k) s fun t =>
      readNat (t.memOf x.space) (x.dieKey s x.base) n = readNat s.hbm (hbmKey x.die pa) n ∧
      (∀ j, (j < x.dieKey s x.base ∨ x.dieKey s x.base + n ≤ j) → Map.get (t.memOf x.space) 0 j = Map.get (s.memOf x.space) 0 j) ∧
      t.hbm = s.hbm ∧ t.tiles = s.tiles ∧ ∀ y, Map.find t.cmds k = some y → y.stage = .written ∧ y.pos = 1) ∧
  (∀ s k x n pa, OneElement s k x .cpyo n → (x.space = .team ∨ x.space = .scratch) →
    (s.translate (coreKey x.die x.core) x.die x.ctx x.va .write).1 = .ok pa →
    Happens (.copyRetire k) s fun t =>
      readNat t.hbm (hbmKey x.die pa) n = readNat (s.memOf x.space) (x.dieKey s x.base) n ∧
      (∀ j, (j < hbmKey x.die pa ∨ hbmKey x.die pa + n ≤ j) → Map.get t.hbm 0 j = Map.get s.hbm 0 j) ∧
      t.scratch = s.scratch ∧ t.team = s.team ∧ t.tiles = s.tiles) ∧
  (∀ s k x n pa, OneElement s k x .fillz n → (s.translate (coreKey x.die x.core) x.die x.ctx x.va .write).1 = .ok pa →
    Happens (.copyRetire k) s fun t =>
      readNat t.hbm (hbmKey x.die pa) n = (x.pattern ++ x.pattern ++ x.pattern ++ x.pattern).toNat % 256 ^ n ∧
      (∀ j, (j < hbmKey x.die pa ∨ hbmKey x.die pa + n ≤ j) → Map.get t.hbm 0 j = Map.get s.hbm 0 j) ∧
      t.scratch = s.scratch ∧ t.team = s.team ∧ t.tiles = s.tiles) ∧
  (∀ s k x n, OneElement s k x .cpy n → (x.space = .team ∨ x.space = .scratch) →
    (s.translate (coreKey x.die x.core) x.die x.ctx x.va .read).1 = .missing →
    Happens (.copyRetire k) s fun t =>
      t.inFlight (.copyTranslationFault k) = true ∧ SameMemory s t ∧
      ∃ y, Map.find t.cmds k = some y ∧ y.stage = .suspended ∧ y.pos = 0 ∧ y.faulted = some x.va) ∧
  (∀ s k x n, OneElement s k x .cpy n → (x.space = .team ∨ x.space = .scratch) →
    (s.translate (coreKey x.die x.core) x.die x.ctx x.va .read).1 = .prot →
    Happens (.copyRetire k) s fun t =>
      t.inFlight (.copyProtectionFault k) = true ∧ SameMemory s t ∧
      ∃ y, Map.find t.cmds k = some y ∧ y.stage = .stopped ∧ y.faulted = some x.va) ∧
  (∀ s k x g, Map.find s.cmds k = some x → x.stage = .suspended → Map.find s.groups x.g = some g → (g.set = .ready ∨ g.set = .active) →
    s.ctxHeld g.die g.ctx = false →
    Happens (.copyTranslationFault k) s fun t =>
      (t.groupAt x.g).pend = g.pend ++ [{ info := x.faultInfo .copyTranslation, ins := x.ins, since := (s.die g.die).clock }] ∧ t.cmds = s.cmds ∧ SameMemory s t) ∧
  (∀ s k x g, Map.find s.cmds k = some x → x.stage = .stopped → x.faulted.isSome = true → Map.find s.groups x.g = some g →
    (g.set = .ready ∨ g.set = .active) → s.ctxHeld g.die g.ctx = false →
    Happens (.copyProtectionFault k) s fun t =>
      (t.groupAt x.g).pend = g.pend ++ [{ info := x.faultInfo .copyProtection, ins := x.ins, since := (s.die g.die).clock }] ∧
      t.cmds = s.cmds ∧ t.inFlight (.copyRetire k) = true ∧ SameMemory s t) ∧
  (∀ s k x g h q, Map.find s.cmds k = some x → s.ctxRuns x.die x.ctx = true → (x.stage = .written ∨ x.stage = .stopped) →
    x.counts = [(h, q)] → q ≤ (s.die x.die).visibleOf h → x.ring = none → x.flags = 0 → 48 ≤ x.wp → x.wp < 63 →
    Map.find s.groups x.g = some g → s.inTravel g = false →
    (g.landing k (scalarNo (2 * (x.wp - 48))) ≠ 0) → (g.landing k (scalarNo (2 * (x.wp - 48) + 1)) ≠ 0) →
    Happens (.copyRetire k) s fun t =>
      let w := pointWit x.die (s.die x.die).inc h q
      Map.find t.cmds k = none ∧ (t.groupAt x.g).flagOf x.flag = g.flagOf x.flag - 1 ∧
      (t.groupAt x.g).regs.scalar (2 * (x.wp - 48)) = w.extractLsb' 0 32 ∧
      (t.groupAt x.g).regs.scalar (2 * (x.wp - 48) + 1) = w.extractLsb' 32 32 ∧ SameMemory s t)

namespace Sys2Proof.Machine

/-! ### Queue instructions -/

/-- The value x names a handle that the core holds as the entry e, and the checks of R206 and R224 pass it. -/
structure Names (s : State) (g : Group) (x : Nat) (r : Right) (multi : Bool) (e : BitVec 64) : Prop where
  held : s.entry g (x % 65536) = some e
  passes : handleFault s g x r multi = none

/-- A 64-bit scalar destination: an even pair other than 62 (R34). -/
def goodPair (d : BitVec 6) : Prop := d.toNat % 2 = 0 ∧ d.toNat ≠ 62

/-- Some copy that the ports retain is as p tells (R215). -/
def Retains (t : State) (p : Retained → Prop) : Prop := ∃ n r, Map.find t.retained n = some r ∧ p r

/-- A queue operation starts: it is outstanding under number n, its flag has risen, what it writes is owed, no memory changes (R21, R23). -/
structure Starts (s t : State) (g g' : Group) (n : Nat) (flag : Option Nat) (regs : List Nat) (m : Lanes) (p : QOp → Prop) : Prop where
  op : ∃ o, Map.find t.qops n = some o ∧ o.flag = flag ∧ p o
  flag : ∀ k, flag = some k → g'.flagOf k = g.flagOf k + 1
  owed : ∀ r ∈ regs, ∀ l, m.getLsbD l = true → (g'.owedLanes r).getLsbD l = true
  memory : SameMemory s t

/-- The pair of a scalar destination as register numbers (R303). -/
def pairRegs (d : BitVec 6) : List Nat := [scalarNo d.toNat, scalarNo (d.toNat + 1)]

/-- QRES and QRES.A: a request for n slots is on its way to the queue's home (R225). -/
def ReserveGives (i : BitVec 1 → BitVec 1 → BitVec 6 → BitVec 6 → Instr) (count : Issue → Nat) : Prop :=
  ∀ f tr h d k e s c g, namesFlag c g f k → goodPair d → Names s g ((c.view g).scalar h.toNat).toNat .produce false e →
    Stands s c g → Clear s c g { scalars := [h.toNat] } →
    Completes (i f tr h d) s c fun t g' =>
      Starts s t g g' s.fresh (some k) (pairRegs d) c.lanes (fun o => o.kind = .qres ∧ o.want = count c ∧ o.dst = d.toNat) ∧
      Retains t (fun r => r.msg.kind = .request ∧ r.handle = s.fresh ∧ r.msg.qid = entQid e ∧ r.msg.cnt = count c ∧
        r.msg.try_ = decide (tr = 1) ∧ r.g = c.g) ∧ MovedOn c g g'

/-- The elements that a sending form reads: of each active lane by rank, of the whole group, or in team memory (R226, R227). -/
def sentElems (s : State) (c : Issue) (g : Group) (form code : Nat) (e : BitVec 64) : List (List Byte) :=
  let n := eszBytes (entEsz e)
  if form = 0 then (lanesOf c.lanes).map (laneElem (c.view g) code n)
  else if form = 1 then [groupElem (c.view g) code n]
  else [readBytes s.team ((s.localTeam g ((c.view g).scalar (code % 64)).toNat n).getD 0) n]

/-- What a sending form asks of its source: a block that suits the element, or team memory that no copy in flight writes and no earlier
access of the core still has to reach (R84, R98, R224). -/
def goodSource (s : State) (c : Issue) (g : Group) (form code : Nat) (e : BitVec 64) : Prop :=
  let n := eszBytes (entEsz e)
  (form < 2 → queueBlock form n code = true) ∧
  (form = 2 → s.inTravel g = false ∧ elemAddrFault s g ((c.view g).scalar (code % 64)).toNat n = none ∧
    rangeStall s g .team ((s.localTeam g ((c.view g).scalar (code % 64)).toNat n).getD 0) n false = none ∧ s.turnStall g = none ∧
    s.bad = [])

/-- The operands that a sending form reads beside the scalars ls. -/
def sendOperands (form code : Nat) (e : BitVec 64) (ls : List Nat) (bs : List (Nat × Nat)) : Opnds :=
  let codes := block code (elemRegs form (eszBytes (entEsz e)))
  if form = 2 then { scalars := ls ++ [code % 64], bases := bs, sends := true }
  else { reads := if form = 0 then codes else [], whole := if form = 1 then codes else [], first := codes, scalars := ls, bases := bs ++ baseOf codes, sends := true }

/-- The handle, base and count that a reservation pair holds (R225). -/
def pairHandle (r : Regs) (p : Nat) : Nat := (r.scalar (p + 1)).toNat / 65536
def pairSlots (r : Regs) (p : Nat) : Nat := (r.scalar (p + 1)).toNat / 256 % 64
def pairFirst (r : Regs) (p : Nat) : Nat := (r.scalar (p + 1)).toNat % 256 * 2 ^ 32 + (r.scalar p).toNat

/-- QENQ: element j goes to slot base + k + j of the grant, a number of 40 bits, with its check code (R209, R216, R226). -/
def EnqueueGives (form : Nat) (i : BitVec 5 → BitVec 6 → Instr) (code : Nat) : Prop :=
  ∀ k p e s c g, goodPair p → Names s g (pairHandle (c.view g) p.toNat) .produce false e → goodSource s c g form code e →
    k.toNat + (if form = 0 then countLanes c.lanes else 1) ≤ pairSlots (c.view g) p.toNat →
    s.retainedBytes g.die (servingPort g.core) + bytesIn (sentElems s c g form code e) ≤ Config.retentionBytes →
    Stands s c g → Clear s c g (sendOperands form code e [p.toNat, p.toNat + 1] [(scalarNo p.toNat, 2)]) →
    Completes (i k p) s c fun t g' =>
      (∀ j x, (sentElems s c g form code e)[j]? = some x →
        Retains t (fun r => r.msg.kind = .element ∧ r.msg.qid = entQid e ∧ r.msg.key = (pairFirst (c.view g) p.toNat + k.toNat + j) % 2 ^ 40 ∧
          r.msg.data = x ∧ r.msg.crc = checkCode (entQid e) r.msg.key x ∧ r.g = c.g)) ∧
      (∀ n r, Map.find s.retained n = some r → n < s.fresh → Map.find t.retained n = some r) ∧
      MovedOn c g g' ∧ SameMemory s t

/-- The number that the port serving a group's core gives next to a post of the group's context to a queue, which keeps its stream of numbers
when it moves (R214, R217). -/
def nextNumber (s : State) (g : Group) (qid : Nat) : Nat :=
  let p := s.portAt (portKey g.die (servingPort g.core))
  Map.get p.seqs 0 (p.stream (g.ctx * 2 * 2 ^ 32 + qid))

/-- QPOST: each element is sent as a post under the next number of its queue, or one copy of it to every member of a multicast group
(R214, R221, R227). -/
def PostGives (form : Nat) (i : BitVec 6 → Instr) (code : Nat) : Prop :=
  ∀ h e s c g, Names s g ((c.view g).scalar h.toNat).toNat .post (form ≠ 0) e → goodSource s c g form code e →
    s.retainedBytes g.die (servingPort g.core) +
      (if entMulti e then (s.members g e).length else 1) * bytesIn (sentElems s c g form code e) ≤ Config.retentionBytes →
    Stands s c g → Clear s c g (sendOperands form code e [h.toNat] []) →
    Completes (i h) s c fun t g' =>
      (entMulti e = false → ∀ j x, (sentElems s c g form code e)[j]? = some x →
        Retains t (fun r => r.msg.kind = .post ∧ r.msg.qid = entQid e ∧ r.msg.data = x ∧ r.member = none ∧
          r.msg.key % 2 ^ 32 = (nextNumber s g (entQid e) + j) % 2 ^ 32)) ∧
      (entMulti e = true → ∀ m ∈ s.members g e, ∀ x ∈ sentElems s c g form code e,
        Retains t (fun r => r.msg.kind = .post ∧ r.msg.qid = m.2 ∧ r.member = some m.1 ∧ r.msg.data = x)) ∧
      MovedOn c g g' ∧ SameMemory s t

/-- The token that a QDEQ presents (R228). -/
def deqTok (w : BitVec 4) (c : Issue) (g : Group) : Wit :=
  if w.toNat = 15 then 0 else (c.view g).scalar (2 * w.toNat + 1) ++ (c.view g).scalar (2 * w.toNat)

/-- The registers that a QDEQ writes: its block in the active lanes or the whole group, and "got" (R228). -/
def deqOperands (form code : Nat) (h : BitVec 6) (w : BitVec 4) (e : BitVec 64) : Opnds :=
  { scalars := h.toNat :: (if form = 2 then [code % 64] else []) ++ (if w.toNat = 15 then [] else [2 * w.toNat, 2 * w.toNat + 1])
    dests := if form = 2 then [] else block code (elemRegs form (eszBytes (entEsz e)))
    bases := if w.toNat = 15 then [] else [(scalarNo (2 * w.toNat), 2)] }

/-- QDEQ: the claim is on its way to the home; a sleepy one, or one that presents a token, parks its path on it (R219, R228). The memory
form lists its write from issue on (R201). -/
def DequeueGives (form : Nat) (i : BitVec 1 → BitVec 1 → BitVec 3 → BitVec 6 → BitVec 4 → Instr) (code : Nat) : Prop :=
  ∀ f sl p h w k e s c g, namesFlag c g f k → Names s g ((c.view g).scalar h.toNat).toNat .consume false e →
    deqToken (deqTok w c g) (entQid e) = none →
    (let n := eszBytes (entEsz e)
     let a := ((c.view g).scalar (code % 64)).toNat
     let parks := sl = 1 ∨ deqTok w c g ≠ 0
     (form < 2 → queueBlock form n code = true) →
     (form = 2 → s.inTravel g = false ∧ elemAddrFault s g a n = none ∧
       rangeStall s g .team ((s.localTeam g a n).getD 0) n true = none) →
     (parks → sleeperStall s g (entQid e) = none) →
     Stands s c g → Clear s c g (deqOperands form code h w e) →
     Completes (i f sl p h w) s c fun t g' =>
      let num := if form = 2 then s.fresh + 1 else s.fresh
      Starts s t g g' num (some k) (if form = 2 then [] else block code (elemRegs form n)) (if form = 0 then c.lanes else 0xFFFFFFFF)
        (fun o => o.kind = .qdeq ∧ o.g = c.g ∧ o.qid = entQid e ∧ o.want = (if form = 0 then countLanes c.lanes else 1) ∧
          o.form = form ∧ o.sleepy = decide (sl = 1) ∧ o.token = deqTok w c g ∧ o.pd = p.toNat ∧ o.dst = code ∧ o.lanes = c.lanes) ∧
      (p ≠ 0 → ∀ l, c.lanes.getLsbD l = true → (g'.owedLanes (predNo p.toNat)).getLsbD l = true) ∧
      (form = 2 → ∃ r, Map.find t.wrecs s.fresh = some r ∧ r.groups = [c.g] ∧ r.count = none) ∧
      t.inFlight (.qdeqClaim num) = true ∧
      (parks → ∀ l, c.lanes.getLsbD l = true → (g'.thread l).park = .queue num) ∧ MovedOn c g g')

end Sys2Proof.Machine

/-- R224 to R227, R229: reservations, elements, posts and QVOID. The message of a QVOID is the model's choice (log entry 45). -/
def Obligations.QueueSends : Prop :=
  (∀ cn : BitVec 5, ReserveGives (fun f t h d => .qres f t cn h d) (fun _ => cn.toNat + 1)) ∧
  ReserveGives .qresA (fun c => countLanes c.lanes) ∧
  (∀ b : BitVec 7, EnqueueGives 0 (fun k r => .qenqL k b r) b.toNat ∧ EnqueueGives 1 (fun k r => .qenqG k b r) b.toNat) ∧
  (∀ a : BitVec 6, EnqueueGives 2 (fun k r => .qenqM k a r) a.toNat) ∧
  (∀ b : BitVec 7, PostGives 0 (fun h => .qpostL b h) b.toNat ∧ PostGives 1 (fun h => .qpostG b h) b.toNat) ∧
  (∀ a : BitVec 6, PostGives 2 (fun h => .qpostM a h) a.toNat) ∧
  (∀ (a h : BitVec 6) e s c g, goodPair h → Names s g (pairHandle (c.view g) h.toNat) .produce false e →
    (let x := ((c.view g).scalar a.toNat).toNat
     x / 2 ^ 13 = 0 → x / 32 % 8 = 0 → x % 32 + (x / 256 % 32 + 1) ≤ pairSlots (c.view g) h.toNat →
     Stands s c g → Clear s c g { scalars := [h.toNat, h.toNat + 1, a.toNat], bases := [(scalarNo h.toNat, 2)] } →
     Completes (.qvoid a h) s c fun t g' =>
      Retains t (fun r => r.msg.kind = .void ∧ r.msg.qid = entQid e ∧ r.msg.key = (pairFirst (c.view g) h.toNat + x % 32) % 2 ^ 40 ∧
        r.msg.cnt = x / 256 % 32 + 1) ∧ MovedOn c g g' ∧ SameMemory s t))

/-- R219, R220, R222, R228, R229: the consumer instructions and the reads of a queue. That a sleepy QDEQ, or one that presents a token,
parks from its issue until its claim is the model's reading (log entry 42). -/
def Obligations.QueueTakes : Prop :=
  (∀ d : BitVec 7, DequeueGives 0 (fun f sl p h w => .qdeqL f sl p d h w) d.toNat ∧ DequeueGives 1 (fun f sl p h w => .qdeqG f sl p d h w) d.toNat) ∧
  (∀ a : BitVec 6, DequeueGives 2 (fun f sl p h w => .qdeqM f sl p a h w) a.toNat) ∧
  (∀ (a h : BitVec 6) e s c g, Names s g ((c.view g).scalar h.toNat).toNat .consume false e →
    (((c.view g).scalar a.toNat).toNat ≠ 0 → sleeperStall s g (entQid e) = none) →
    Stands s c g → Clear s c g { scalars := [h.toNat, a.toNat] } →
    Completes (.qwait a h) s c fun t g' =>
      (((c.view g).scalar a.toNat).toNat = 0 → t.qops = s.qops) ∧
      (((c.view g).scalar a.toNat).toNat ≠ 0 →
        (∃ o, Map.find t.qops s.fresh = some o ∧ o.kind = .qwait ∧ o.want = ((c.view g).scalar a.toNat).toNat ∧ o.qid = entQid e) ∧
        t.inFlight (.qdeqClaim s.fresh) = true ∧ ∀ l, c.lanes.getLsbD l = true → (g'.thread l).park = .queue s.fresh) ∧
      MovedOn c g g' ∧ SameMemory s t) ∧
  (∀ (f : BitVec 1) (h d : BitVec 6) k e s c g, namesFlag c g f k → goodPair d →
    Names s g ((c.view g).scalar h.toNat).toNat .post true e → Stands s c g → Clear s c g { scalars := [h.toNat] } →
    Completes (.qflush f h d) s c fun t g' =>
      Starts s t g g' s.fresh (some k) (pairRegs d) c.lanes (fun o => o.kind = .qflush ∧ o.qid = entQid e ∧ o.dst = d.toNat ∧
        ∀ n ∈ o.waitFor, ∃ r, (n, r) ∈ s.retained ∧ r.g = c.g ∧ (r.msg.kind = .element ∨ r.msg.kind = .post) ∧ r.msg.hw = false) ∧
      ((∀ x ∈ s.retained, x.2.g ≠ c.g) → t.inFlight (.qflushComplete s.fresh) = true) ∧
      MovedOn c g g') ∧
  (∀ (f : BitVec 1) (a h d : BitVec 6) k e s c g, namesFlag c g f k → goodPair d →
    Names s g ((c.view g).scalar h.toNat).toNat .any false e → statSelector ((c.view g).scalar a.toNat).toNat = true →
    Stands s c g → Clear s c g { scalars := [h.toNat, a.toNat] } →
    Completes (.qstat f a h d) s c fun t g' =>
      Starts s t g g' s.fresh (some k) (pairRegs d) c.lanes (fun o => o.kind = .qstat ∧ o.qid = entQid e ∧ o.dst = d.toNat ∧
        o.sel = ((c.view g).scalar a.toNat).toNat) ∧
      t.inFlight (.qstatComplete s.fresh) = true ∧ MovedOn c g g')

namespace Sys2Proof.Machine

/-! ### Homes and source ports -/

/-- An answer a to the message m is on its way to a producer of the same die (R215). -/
def Answered (t : State) (m : QMsg) (a : Nat) : Prop :=
  ∃ n y, Map.find t.qmsgs n = some y ∧ y.kind = .answer ∧ y.ans = a ∧ y.id = m.id ∧ y.qid = m.qid

/-- A queue message of kind k from a producer of the home's own die arrives at an open queue that does not turn it away (R207, R208). -/
structure AtHome (s : State) (n : Nat) (m : QMsg) (k : QKind) : Prop where
  listed : Map.find s.qmsgs n = some m
  kind : m.kind = k
  here : m.smod = s.module ∧ m.sdie = qidDie m.qid ∧ qidModule m.qid = s.module
  passes : (s.queueAt (qidKey m.qid)).turnsAway m = none

/-- Nobody sleeps on the queue k, and its port holds no post out of sequence: a step changes it by its own effect alone. -/
structure Still (s : State) (k : Nat) : Prop where
  awake : (s.queueAt k).sleepers = []
  unheld : (s.portAt (k / 4096)).held = []

/-- The same, with the pointers in order (R210). -/
structure Quiet (s : State) (k : Nat) : Prop extends Still s k where
  order : (s.queueAt k).f ≤ (s.queueAt k).h ∧ (s.queueAt k).h ≤ (s.queueAt k).c ∧ (s.queueAt k).c ≤ (s.queueAt k).t

/-- A queue operation is outstanding for a group that is not saved: what comes for it takes effect (R220). -/
structure OpOf (s : State) (n : Nat) (o : QOp) (g : Group) : Prop where
  listed : Map.find s.qops n = some o
  group : Map.find s.groups o.g = some g
  here : g.saved = false

/-- A result pair lands: no later write has reached either scalar (R23, R127). -/
def pairLands (g : Group) (op d : Nat) : Prop := g.landing op (scalarNo d) ≠ 0 ∧ g.landing op (scalarNo (d + 1)) ≠ 0

/-- The operation n is over with the pair x in scalars d and d + 1, and its flag has dropped (R21). -/
def EndsWith (t : State) (n : Nat) (o : QOp) (g : Group) (x : Word × Word) : Prop :=
  Map.find t.qops n = none ∧ (t.groupAt o.g).regs.scalar o.dst = x.1 ∧ (t.groupAt o.g).regs.scalar (o.dst + 1) = x.2 ∧
  (∀ k, o.flag = some k → (t.groupAt o.g).flagOf k = g.flagOf k - 1)

/-- An answer to a retained copy r reaches its source port. -/
structure Answers (s : State) (n : Nat) (m : QMsg) (r : Retained) : Prop where
  listed : Map.find s.qmsgs n = some m
  copy : Map.find s.retained m.id = some r

/-- Two copies of posts of one producer to one queue, which a port resends in their order (R215). -/
def SameProducer (r x : Retained) : Prop :=
  x.die = r.die ∧ x.port = r.port ∧ x.msg.ctx = r.msg.ctx ∧ x.msg.qid = r.msg.qid ∧ x.msg.hw = r.msg.hw ∧ x.msg.kind = .post ∧ x.waiting = false

/-- A fault of class c waits for its delivery in group k, after those that g already holds (R305). -/
def Raised (t : State) (k : Nat) (g : Group) (c : FaultClass) : Prop :=
  ∃ p, (t.groupAt k).pend = g.pend ++ [p] ∧ p.info.cls = c

/-- A group that is in its quarter's sets and whose context runs. -/
def inService (s : State) (k : Nat) (g : Group) : Prop :=
  Map.find s.groups k = some g ∧ (g.set = .ready ∨ g.set = .active) ∧ s.ctxHeld g.die g.ctx = false

end Sys2Proof.Machine

/-- R209 to R216, R219, R220, R225, R228, R229: what the home of a queue does with what reaches it, and what it gives back. E passes the
elements of the spill region one by one, each tested as it enters the window, and everything else at once. -/
def Obligations.HomesJudge : Prop :=
  (∀ s n m, AtHome s n m .request → (s.queueAt (qidKey m.qid)).fifo = [] →
    (let k := qidKey m.qid
     let q := s.queueAt k
     Happens (.qresRequest n) s fun t =>
      (q.fits m.cnt = true → (t.queueAt k).t = q.t + m.cnt ∧
        ∀ i, q.t ≤ i → i < q.t + m.cnt → (t.queueAt k).slot i = some (.reserved m.owner)) ∧
      (q.fits m.cnt = false → m.try_ = true → (t.queueAt k).t = q.t ∧ (t.queueAt k).slots = q.slots) ∧
      (q.fits m.cnt = false → m.try_ = false → (t.queueAt k).t = q.t ∧ (t.queueAt k).fifo = [m]) ∧
      SameMemory s t ∧ t.groups = s.groups)) ∧
  (∀ s k m rest, (s.queueAt k).fifo = m :: rest → (s.queueAt k).state = 1 → (s.queueAt k).fits m.cnt = true →
    Happens (.qresDeferredGrant k) s fun t =>
      (t.queueAt k).t = (s.queueAt k).t + m.cnt ∧ (t.queueAt k).fifo = rest ∧ SameMemory s t ∧ t.groups = s.groups) ∧
  (∀ s n m r o g, Answers s n m r → r.msg.kind = .request → OpOf s r.handle o g → pairLands g r.handle o.dst →
    Happens (.qresGrantReceive n) s fun t =>
      EndsWith t r.handle o g (if m.cnt = 0 then (0, BitVec.ofNat 32 (o.handle * 65536))
        else (BitVec.ofNat 32 m.key, BitVec.ofNat 32 (o.handle * 65536 + m.cnt % 64 * 256 + m.key / 2 ^ 32 % 256))) ∧
      Map.find t.retained m.id = none ∧ SameMemory s t) ∧
  (∀ s n m i, AtHome s n m .element →
    (let k := qidKey m.qid
     let q := s.queueAt k
     Quiet s k → q.named m.key = some i → q.h ≤ i → i < q.e → q.slot i = some (.reserved m.owner) → m.crc = checkCode m.qid m.key m.data →
     Happens (.elementArrival n) s fun t =>
      (t.queueAt k).slot i = some (.filled m.owner m.data m.crc m.qid m.key true) ∧ (t.queueAt k).t = q.t ∧ q.c ≤ (t.queueAt k).c ∧
      Answered t m 0 ∧ SameMemory s t ∧ t.groups = s.groups)) ∧
  (∀ s n m i, AtHome s n m .element →
    (let q := s.queueAt (qidKey m.qid)
     q.named m.key = some i → q.slot i = some (.reserved m.owner) → m.crc ≠ checkCode m.qid m.key m.data →
     Happens (.elementArrival n) s fun t => t.queues = s.queues ∧ Answered t m 4 ∧ SameMemory s t ∧ t.groups = s.groups)) ∧
  (∀ s n m i, AtHome s n m .element →
    (let k := qidKey m.qid
     let q := s.queueAt k
     q.named m.key = some i → q.slot i = none →
     Happens (.elementArrival n) s fun t =>
      Answered t m (if Map.find q.past i = some 0 ∨ Map.find q.past i = some (m.owner + 1) then 0 else 5) ∧
      (t.queueAt k).slots = q.slots ∧ (t.queueAt k).t = q.t ∧ SameMemory s t ∧ t.groups = s.groups)) ∧
  (∀ s n m, AtHome s n m .post →
    (let k := qidKey m.qid
     let q := s.queueAt k
     Quiet s k → m.key % 2 ^ 32 = (Map.get q.prods {} m.producer).next → q.fits 1 = true → q.t < q.e →
     m.crc = checkCode m.qid m.key m.data →
     Happens (.postArrival n) s fun t =>
      (t.queueAt k).slot q.t = some (.filled m.owner m.data m.crc m.qid m.key true) ∧ (t.queueAt k).t = q.t + 1 ∧
      (Map.get (t.queueAt k).prods {} m.producer).next = (m.key + 1) % 2 ^ 32 ∧ Answered t m 0 ∧ SameMemory s t ∧ t.groups = s.groups)) ∧
  (∀ s n o g, OpOf s n o g → o.kind = .qdeq → o.sleepy = false → o.registered = false → o.want = 1 → s.bad = [] →
    (let k := qidKey o.qid
     let q := s.queueAt k
     ∀ own d crc qid key, q.state = 1 → q.kind < 2 → Quiet s k → q.h < min q.c q.e → q.slot q.h = some (.filled own d crc qid key true) →
     Happens (.qdeqClaim n) s fun t =>
      (∃ x, Map.find t.qops n = some x ∧ x.got = [(q.h, d)] ∧ x.delivering = true) ∧ (t.queueAt k).h = q.h + 1 ∧
      (t.queueAt k).slot q.h = some (.claimed own n false) ∧ t.inFlight (.qdeqDeliveryComplete n) = true ∧ SameMemory s t)) ∧
  (∀ s n o g b d, OpOf s n o g → o.kind = .qdeq → Still s (qidKey o.qid) → o.form = 0 → o.got = [(b, d)] → o.dst + eszBytes o.esz / 4 ≤ 96 →
    Happens (.qdeqDeliveryComplete n) s fun t =>
      (∀ i l, i < eszBytes o.esz / 4 → l = lowLane o.lanes → o.lanes ≠ 0 → (g.landing n (o.dst + i)).getLsbD l = true →
        (t.groupAt o.g).regs.read (o.dst + i) l = BitVec.ofNat 32 (ofBytes ((d.drop (4 * i)).take 4))) ∧
      (∀ l, o.pd ≠ 0 → o.lanes.getLsbD l = true → (g.landing n (predNo o.pd)).getLsbD l = true →
        (t.groupAt o.g).regs.predAt o.pd l = decide (l = lowLane o.lanes)) ∧
      Map.find t.qops n = none ∧ (∀ k, o.flag = some k → (t.groupAt o.g).flagOf k = g.flagOf k - 1) ∧ SameMemory s t) ∧
  (∀ s n o g v, OpOf s n o g → o.form = 0 → o.high = some v → pairLands g n o.dst →
    Happens (.qflushComplete n) s fun t =>
      EndsWith t n o g ((tokenWit (o.qid % 2 ^ 30) ((v + 1) % 2 ^ 32)).extractLsb' 0 32,
        (tokenWit (o.qid % 2 ^ 30) ((v + 1) % 2 ^ 32)).extractLsb' 32 32) ∧ SameMemory s t) ∧
  (∀ s n o g, OpOf s n o g → o.sel = 0 → qidModule o.qid = s.module → (s.queueAt (qidKey o.qid)).state = 1 → pairLands g n o.dst →
    (let q := s.queueAt (qidKey o.qid)
     Happens (.qstatComplete n) s fun t =>
      EndsWith t n o g (sat32 (q.waitingTo q.c), sat32 (q.capacity - (q.t - q.f))) ∧ t.queues = s.queues ∧ SameMemory s t)) ∧
  (∀ s k own old crc qid key,
    (let q := s.queueAt k
     q.state = 1 → q.e < q.f + q.win → Still s k → q.h ≤ q.e → q.slot q.e = some (.filled own old crc qid key false) →
     Happens (.refillStep k) s fun t =>
      let data := (s.readSpill (k / 16384) q q.e).1
      let u := t.queueAt k
      u.slot q.e = some (if crc = checkCode qid key data then .filled own data crc qid key true else .broken own) ∧
      q.e < u.e ∧ u.e ≤ max (q.e + 1) (u.f + q.win) ∧ (∀ i x, q.e < i → i < u.e → (i, x) ∈ u.slots → x.isSpilled = false) ∧
      (u.e < u.f + q.win → ∃ x, (u.e, x) ∈ u.slots ∧ x.isSpilled = true) ∧ SameMemory s t ∧ t.groups = s.groups)) ∧
  (∀ q : Queue, (∀ x ∈ q.slots, x.2.isSpilled = false) → q.advanceEdge.e = max q.e (q.f + q.win))

/-- R206, R215 to R217, R222: the source port. An entry that a core asked for is held there; each answer to a retained copy frees it, sends
it again, sends it to the queue's new place, where the stream of posts goes on with its numbers, or ends it with the refusal told to its
issuer; a copy without an answer is resent. The response of an enqueue command is log entry 75; which number a post has at a queue's new
place is log entry 102. -/
def Obligations.PortsAnswer : Prop :=
  (∀ s core h, Happens (.handleTranslationReply core h) s fun t =>
    Map.find (t.coreAt core).handles h = some (Map.get (s.ctxAt (ctxKey (core / 24) (h / 65536))).trans 0 (h % 65536)) ∧
    (∀ k, k ≠ core → t.coreAt k = s.coreAt k) ∧ SameMemory s t ∧ t.groups = s.groups) ∧
  (∀ s n m r, Answers s n m r → Happens (.answerAck n) s fun t =>
    Map.find t.retained m.id = none ∧
    (∀ j, j ≠ m.id → (Map.find t.retained j).map Retained.msg = (Map.find s.retained j).map Retained.msg) ∧
    SameMemory s t ∧ t.groups = s.groups) ∧
  (∀ s n m r, Answers s n m r → (m.ans ≠ 1 ∨ r.msg.hw = false ∨ qidIndex r.msg.qid < 4088) → Happens (.answerRetry n) s fun t =>
    (∃ x, Map.find t.retained m.id = some x ∧ x.msg = r.msg ∧
      ((r.msg.kind = .post → r.waiting = false ∧ ∀ e ∈ s.retained, SameProducer r e.2 → e.1 = m.id ∨ e.2.again = true) → x.sent = s.now)) ∧
    SameMemory s t ∧ t.groups = s.groups) ∧
  (∀ s n m r g, Answers s n m r → m.ans = 1 → r.msg.hw = true → 4088 ≤ qidIndex r.msg.qid → inService s r.g g →
    Happens (.answerRetry n) s fun t => Raised t r.g g .arrivalSpill ∧ (Map.find t.retained m.id).isSome = true ∧ SameMemory s t) ∧
  (∀ s n m r, Answers s n m r → r.member = none → r.chim = none → r.msg.hw = false → (r.msg.kind = .element ∨ r.msg.kind = .post) →
    (let e := Map.get (s.ctxAt (ctxKey r.die r.msg.ctx)).trans 0 r.handle
     e.getLsbD 32 = true → entMulti e = false → entQid e ≠ r.msg.qid →
     Happens (.answerMoved n) s fun t =>
      (∃ x, Map.find t.retained m.id = some x ∧ x.msg.qid = entQid e ∧ x.msg.key = r.msg.key ∧ x.msg.data = r.msg.data ∧
        x.msg.crc = checkCode (entQid e) r.msg.key r.msg.data ∧ x.sent = s.now) ∧
      (let p := s.portAt (portKey r.die r.port)
       let k := fun qid => r.msg.ctx * 2 * 2 ^ 32 + qid
       ∀ v, Map.find p.seqs (p.stream (k r.msg.qid)) = some v → p.stream (k r.msg.qid) ≠ k (entQid e) →
        Map.find (t.portAt (portKey r.die r.port)).seqs (k (entQid e)) = some v) ∧ SameMemory s t ∧ t.groups = s.groups)) ∧
  (∀ s n m r, Answers s n m r → r.checks < 3 → Happens (.answerCheck n) s fun t =>
    (∃ x, Map.find t.retained m.id = some x ∧ x.checks = r.checks + 1 ∧ x.msg = r.msg ∧ x.sent = s.now) ∧ SameMemory s t ∧ t.groups = s.groups) ∧
  (∀ s n m r g, Answers s n m r → r.member = none → r.chim = none → (r.msg.kind = .element ∨ r.msg.kind = .post) → r.msg.hw = false →
    r.g ≠ 0 → inService s r.g g →
    Happens (.answerRefused n) s fun t => Map.find t.retained m.id = none ∧ Raised t r.g g .queueRefusal ∧ SameMemory s t) ∧
  (∀ s n m r i, Answers s n m r → r.member = some i → r.msg.kind ≠ .request → Happens (.answerRefused n) s fun t =>
    Map.find t.retained m.id = none ∧ SameMemory s t ∧ t.groups = s.groups ∧
    Map.get (t.portAt (portKey r.die r.port)).masks 0 (r.g * 65536 + r.handle) =
      (Map.get (s.portAt (portKey r.die r.port)).masks 0 (r.g * 65536 + r.handle) ||| (1#64 <<< i))) ∧
  (∀ s n r, Map.find s.retained n = some r → r.waiting = false → r.again = false → r.sent + 16384 ≤ s.now → r.msg.kind ≠ .request →
    Happens (.retentionTimeout n) s fun t =>
      (∃ x, Map.find t.retained n = some x ∧ x.msg = r.msg ∧ x.sent = s.now) ∧ SameMemory s t ∧ t.groups = s.groups)

namespace Sys2Proof.Machine

/-! ### The package network and the fabric -/

/-- No memory, group or queue changes: what the network does by itself (R230). -/
def Carried (s t : State) : Prop := SameMemory s t ∧ t.groups = s.groups ∧ t.queues = s.queues

/-- The stream of a message. -/
def NetMsg.key (m : NetMsg) : Nat := streamKey m.src m.dst m.cls

/-- The flit that a link's receiver awaits is f, number q, which its sender keeps. -/
structure Awaited (s : State) (k q : Nat) (f : Flit) : Prop where
  expected : (s.linkAt k).expected = q
  kept : (s.linkAt k).unacked.find? (fun e => decide (e.1 = q)) = some (q, f)
  whole : (s.linkAt k).missing.contains q = false

/-- The flit q of link k is accepted: the next one is awaited, and it is acknowledged where it goes no further and none before it still
stands in a buffer entry (R236). -/
def Accepted (s t : State) (k q : Nat) (f : Flit) : Prop :=
  (t.linkAt k).expected = q + 1 ∧ (t.linkAt k).ladder = .normal ∧
  (neighbour (k / 3) (k % 3) = f.dst → (s.linkAt k).standing = [] → (s.linkAt k).withdrawn = false → t.inFlight (.linkAck k q) = true)

/-- The receiver of link k asks for the further parity of flit q, which the errors d have struck, once (R236). -/
def Asked (s t : State) (k q : Nat) (d : List (Nat × Byte)) : Prop :=
  (t.linkAt k).asked = (s.linkAt k).asked.filter (fun e => decide (e.1 ≠ q)) ++ [(q, d)]

/-- The flits on channel A that wait for a link. -/
def waitingA (s : State) (k : Nat) : Nat := ((s.linkAt k).waiting.filter (fun f => !f.chanB)).length

/-- The oldest packet at a fabric port: it is for the port's UDP destination, and its domain has the key it was sent under, or not both
(R241, R245). -/
structure Arrived (s : State) (port : Nat) (p : Packet) (rest : List Packet) (good : Bool) : Prop where
  inbox : (s.fabricAt port).inbox = p :: rest
  key : (p.dport = (s.fabricAt port).udp ∧
    ((Map.get (s.die (port / 2)).keys {} p.domain).slot0 = some p.auth ∨ (Map.get (s.die (port / 2)).keys {} p.domain).slot1 = some p.auth)) ↔ good = true

end Sys2Proof.Machine

/-- R231, R233 to R239: streams, the recovery of flits on a link, retraining, retired buffer entries, withdrawal and the fallback tables. -/
def Obligations.StreamsAndLinks : Prop :=
  (∀ s n m q, Map.find s.netMsgs n = some m → m.body = .queue q → (s.streamAt m.key).expected = m.sseq → (s.streamAt m.key).held = [] →
    (s.die (endDie m.dst)).mode ≠ .dumped → (s.die (endDie q.dst)).mode ≠ .dumped → q.known = true →
    Happens (.streamMessageArrival n) s fun t =>
      (t.streamAt m.key).expected = (m.sseq + 1) % 65536 ∧ (∃ j, Map.find t.qmsgs j = some q ∧ t.inFlight (q.event j) = true) ∧ Carried s t) ∧
  (∀ s n m q, Map.find s.netMsgs n = some m → m.body = .queue q → 64 ≤ (m.sseq + 65536 - (s.streamAt m.key).expected) % 65536 →
    Happens (.streamMessageArrival n) s fun t =>
      (t.streamAt m.key).expected = (s.streamAt m.key).expected ∧ t.qmsgs = s.qmsgs ∧ Carried s t) ∧
  (∀ s n m src dst cls upto, Map.find s.netMsgs n = some m → m.body = .deliveryAck src dst cls upto →
    Happens (.streamDeliveryAck n) s fun t =>
      (t.streamAt (streamKey src dst cls)).kept =
        (s.streamAt (streamKey src dst cls)).kept.filter (fun e => decide (32768 ≤ (upto + 65536 - e.1) % 65536)) ∧ Carried s t) ∧
  (∀ s k e, e ∈ (s.streamAt k).kept → e.2.2 + 65536 ≤ s.now → Happens (.streamResendTimeout k) s fun t =>
    (∀ x ∈ (s.streamAt k).kept, (x.1, x.2.1, s.now) ∈ (t.streamAt k).kept) ∧ t.inFlight (.streamResendTimeout k) = true ∧ Carried s t) ∧
  (∀ s k q f rest, Awaited s k q f → reservedFlit f = false → (s.linkAt k).flying = q :: rest → (s.linkAt k).ladder = .normal →
    f.errors ((s.linkAt k).noise.headD []) ≤ 4 → Happens (.flitReceive k) s fun t => Accepted s t k q f ∧ Carried s t) ∧
  (∀ s k q f rest, Awaited s k q f → (s.linkAt k).flying = q :: rest → (s.linkAt k).ladder = .normal →
    4 < f.errors ((s.linkAt k).noise.headD []) →
    Happens (.flitReceive k) s fun t =>
      (t.linkAt k).expected = q ∧ (t.linkAt k).ladder = .parity ∧ Asked s t k q ((s.linkAt k).noise.headD []) ∧
      t.inFlight (.parityRequest k) = true ∧ Carried s t) ∧
  (∀ s k q f rest, Awaited s k q f → reservedFlit f = true → (s.linkAt k).flying = q :: rest → (s.linkAt k).ladder = .normal →
    f.errors ((s.linkAt k).noise.headD []) ≤ 4 → Happens (.flitReceive k) s fun t =>
      (t.linkAt k).expected = q ∧ (t.linkAt k).drops = (s.linkAt k).drops + 1 ∧ (t.linkAt k).ladder = .replay ∧
      t.inFlight (.replayRequest k) = true ∧ Carried s t) ∧
  (∀ s k, (s.linkAt k).training = false → Happens (.parityRequest k) s fun t =>
    t.inFlight (.parityResponse k) = true ∧ t.links = s.links ∧ Carried s t) ∧
  (∀ s k q f d rest, Awaited s k q f → reservedFlit f = false → (s.linkAt k).training = false → (s.linkAt k).ladder = .parity →
    (s.linkAt k).asked = (q, d) :: rest → f.errors d ≤ 8 → (s.linkAt k).heldBack = [] →
    Happens (.parityResponse k) s fun t => Accepted s t k q f ∧ Carried s t) ∧
  (∀ s k q f d rest, Awaited s k q f → (s.linkAt k).training = false → (s.linkAt k).ladder = .parity →
    (s.linkAt k).asked = (q, d) :: rest → 8 < f.errors d →
    Happens (.parityResponse k) s fun t =>
      (t.linkAt k).ladder = .replay ∧ (t.linkAt k).heldBack = [] ∧ t.inFlight (.replayRequest k) = true ∧ Carried s t) ∧
  (∀ s k q f d rest, Awaited s k q f → (s.linkAt k).training = false → (s.linkAt k).ladder = .resentParity →
    (s.linkAt k).asked = (q, d) :: rest → 8 < f.errors d →
    Happens (.parityResponse k) s fun t => ((t.linkAt k).training = true ∨ (t.linkAt k).withdrawn = true) ∧ Carried s t) ∧
  (∀ s k upto, (s.linkAt k).training = true → Happens (.parityRequest k) s (fun t => t = s) ∧ Happens (.replayRequest k) s (fun t => t = s) ∧
    Happens (.linkAck k upto) s (fun t => t = s)) ∧
  (∀ s k, (s.linkAt k).training = false → Happens (.replayRequest k) s fun t =>
    (t.linkAt k).flying = (s.linkAt k).flying ++ ((s.linkAt k).unacked.filter
      (fun e => decide ((s.linkAt k).missing.foldl min (s.linkAt k).expected ≤ e.1))).map (·.1) ∧ Carried s t) ∧
  (∀ s k upto, (s.linkAt k).training = false → Happens (.linkAck k upto) s fun t =>
    (t.linkAt k).unacked = (s.linkAt k).unacked.filter (fun e => decide (upto < e.1)) ∧ (∀ j, j ≠ k → t.linkAt j = s.linkAt j) ∧ Carried s t) ∧
  (∀ s k, (s.linkAt k).training = true → Happens (.linkRetrainComplete k) s fun t =>
    ((t.linkAt k).training = false ∨ (t.linkAt k).withdrawn = true) ∧ Carried s t) ∧
  (∀ s k, (s.linkAt k).withdrawn = false → Happens (.bufferEntryError k) s fun t =>
    (13 ≤ (s.linkAt k).good → (t.linkAt k).good = (s.linkAt k).good - 1 ∧ (t.linkAt k).withdrawn = false) ∧
    ((s.linkAt k).good < 13 → (t.linkAt k).withdrawn = true) ∧ Carried s t) ∧
  (∀ s die k, (s.die die).fallbackFor.contains (min k (reverseLink k)) = false → Happens (.withdrawalAnnounce die k) s fun t =>
    (t.die die).fallbackFor = withGone k (s.die die).fallbackFor ∧
    ((spread (withGone k (s.die die).fallbackFor) 8 [0]).length < 8 → t.inFlight (.fatalDieError die 1) = true) ∧
    (8 ≤ (spread (withGone k (s.die die).fallbackFor) 8 [0]).length → t.inFlight (.fallbackTableSwitch die) = true) ∧ Carried s t) ∧
  (∀ s die, Happens (.fallbackTableSwitch die) s fun t =>
    (t.die die).fallback = true ∧ (t.die die).loaded = (s.die die).fallbackFor ∧ (∀ d, d ≠ die → t.die d = s.die d) ∧ Carried s t) ∧
  (∀ s k, (s.die (k / 3)).fallback = false → Happens (.channelATimeout k) s fun t => t = s) ∧
  (∀ s k f, (s.die (k / 3)).fallback = true → f ∈ (s.linkAt k).waiting → f.chanB = false → f.since + 32 ≤ s.now →
    Happens (.channelATimeout k) s fun t =>
      waitingA t k + 1 ≤ waitingA s k ∧ f ∉ (t.linkAt k).waiting ∧
      (∀ x ∈ (s.linkAt k).waiting, x.chanB = false → x.key = f.key → f.key ≠ none → x ∉ (t.linkAt k).waiting) ∧ Carried s t)

/-- R232: normal routing is dimension-ordered. A flit takes every x hop first, one or two on x+ or one on x−, then at most one y hop, in the
destination's column; its links depend on nothing but the two dies, so that every message of a stream follows one path. -/
def Obligations.RoutesInOrder : Prop :=
  (∀ (s : Sys2Proof.Machine.State) (f : Flit) die, die < 8 → f.dst < 8 → (∀ d, (s.die d).fallback = false) →
    s.walkLinks 8 die f =
      (match (f.dst % 4 + 4 - die % 4) % 4 with
        | 0 => []
        | 1 => [linkKey die 0]
        | 2 => [linkKey die 0, linkKey (4 * (die / 4) + (die % 4 + 1) % 4) 0]
        | _ => [linkKey die 1]) ++
      (if die / 4 = f.dst / 4 then [] else [linkKey (4 * (die / 4) + f.dst % 4) 2])) ∧
  (∀ (s : Sys2Proof.Machine.State) (f : Flit) die, die < 8 → f.dst < 8 → (∀ d, (s.die d).fallback = false) →
    (s.hopOf die f).map (·.1) = (s.walkLinks 8 die f).head?)

/-- R240 to R245: what a fabric port does with what reaches it, and with what is not acknowledged. That R231's acknowledgement between
modules rides on a packet's answer is the model's choice (log entry 107). -/
def Obligations.FabricPorts : Prop :=
  (∀ s port p rest, Arrived s port p rest false → Happens (.fabricPacketReceive port) s fun t =>
    (t.fabricAt port).inbox = rest ∧ (t.fabricAt port).drops = (s.fabricAt port).drops + 1 ∧ (t.fabricAt port).sent = (s.fabricAt port).sent ∧
    t.qmsgs = s.qmsgs ∧ Carried s t) ∧
  (∀ s port p rest m, Arrived s port p rest true → p.msg.body = .queue m →
    (s.streamAt (streamKey m.src m.dst m.cls)).held = [] → Happens (.fabricPacketReceive port) s fun t =>
    (t.fabricAt port).inbox = rest ∧
    (∃ a, (t.fabricAt port).sent = (s.fabricAt port).sent ++ [a] ∧ a.psn = p.psn ∧ a.echo = p.ecn ∧
      a.msg.body = .deliveryAck p.msg.src p.msg.dst p.msg.cls
        (((t.streamAt (streamKey p.msg.src p.msg.dst p.msg.cls)).expected + 65535) % 65536)) ∧ Carried s t) ∧
  (∀ s port p rest u a b k n, Arrived s port p rest true → p.msg.body = .deliveryAck a b k n →
    (s.fabricAt port).unacked.find? (fun u => decide (u.psn = p.psn)) = some u → Happens (.fabricPacketReceive port) s fun t =>
    (t.fabricAt port).inbox = rest ∧ (t.fabricAt port).unacked = (s.fabricAt port).unacked.filter (fun u => decide (u.psn ≠ p.psn)) ∧
    (t.streamAt (streamKey a b k)).kept = (s.streamAt (streamKey a b k)).kept.filter (fun e => decide (32768 ≤ (n + 65536 - e.1) % 65536)) ∧
    Carried s t) ∧
  (∀ s port u rest, (s.fabricAt port).unacked = u :: rest → Happens (.pdsRetransmit port) s fun t =>
    ((t.fabricAt port).unacked = rest ∨
      ∃ v, v.psn = u.psn ∧ v.msg = u.msg ∧ (t.fabricAt port).unacked = rest ++ [v] ∧ (t.fabricAt port).sent = (s.fabricAt port).sent ++ [v]) ∧
    t.retained = s.retained ∧ Carried s t) ∧
  (∀ s port, Happens (.pauseFrameReceive port) s fun t =>
    (t.fabricAt port).pauses = (s.fabricAt port).pauses + 1 ∧ (t.fabricAt port).sent = (s.fabricAt port).sent ∧ t.qmsgs = s.qmsgs ∧ Carried s t) ∧
  (∀ s port up, Happens (.fabricPortLinkChange port up) s fun t => (t.fabricAt port).up = decide (up ≠ 0) ∧ Carried s t)

namespace Sys2Proof.Machine

/-! ### Device events of travelling threads and regrouping -/

/-- Room for what a departure or an eviction of up to 32 threads needs: tickets for the drain and the merges (R271). -/
def ticketsFree (s : State) (g : Group) : Prop := 33 ≤ s.freeTickets (coreKey g.die g.core)

/-- The record of lane l has been handed to a source port: its header gives pc and cpos, and it goes to the arrival queue of a core
(R272, R273). -/
def RecordSent (t : State) (g : Group) (l pc cpos core : Nat) : Prop :=
  Retains t fun r => (∃ w, r.msg.data = (recordOf g l pc cpos w).bytes) ∧ r.msg.hw = true ∧ qidKey r.msg.qid = arrivalKey g.die core

/-- A bin that stands ready at the packer of a core, with the launch and the slot that its group takes (R275, R276). -/
structure BinReady (s : State) (ck : Nat) (b : Nat × Nat × Nat) (recs : List TRecord) (gid slot : Nat) (x : Grid) : Prop where
  only : (s.coreAt ck).packer.ready = [b]
  records : recs = (((s.coreAt ck).packer.bin b.1 b.2.1).map (·.1)).take 32
  some_ : recs ≠ []
  launch : s.travelGrid (ck / 24) (ck % 24) = some (gid, x)
  slot : s.freeSlot (ck / 24) (ck % 24) (s.leastQuarter (ck / 24) (ck % 24)) = some slot
  few : ((s.coreAt ck).packer.bin b.1 b.2.1).length ≤ 32
  runs : s.packs (ck / 24) (ck % 24) = true
  room : max (x.field 356 7) (popcount 96 (liveUnion recs).toNat) ≤ s.poolFree (ck / 24) (ck % 24)

end Sys2Proof.Machine

/-- R257 to R260: a join whose bound has expired, a group that arrives at a pool, an output group that is released. -/
def Obligations.JoinsAndPools : Prop :=
  (∀ s k g l, Map.find s.groups k = some g → g.saved = false → g.set ≠ .halted → (Map.find g.threads l).isSome = true →
    (∀ e ∈ g.threads, joinFull g e.2 = false) → joinExpired g (s.die g.die).clock (g.thread l) = true →
    Happens (.joinBoundExpiry k) s fun t =>
      ((t.groupAt k).thread l).join = (g.thread l).join.drop 1 ∧
      (((t.groupAt k).thread l).park = .none ∨ ((t.groupAt k).thread l).park = .depart) ∧ SameMemory s t) ∧
  (∀ s k g a j x, Map.find s.groups k = some g → s.poolDue g = true → g.regroupAt = some a → s.pools = [] → 2 ≤ g.poolN →
    (j, x) ∈ s.groups → j ≠ k → x.die = g.die → x.core = g.core → x.quarter = g.quarter → x.team = g.team → x.liveLanes ≠ 0 →
    Happens (.poolArrival k) s fun t =>
      (t.groupAt k).pooled = true ∧ (t.groupAt k).set = .fallow ∧
      (∃ p, t.pools = [(s.fresh, p)] ∧ p.addr = a ∧ p.n = g.poolN ∧ p.isBr = g.poolBr ∧ p.arrivals = [k] ∧ p.closed = false) ∧ SameMemory s t) ∧
  (∀ s n p k rest g, Map.find s.pools n = some p → p.outputs = k :: rest → Map.find s.groups k = some g → s.ctxRuns p.die g.ctx = true →
    Happens (.regroupRelease n) s fun t =>
      (t.groupAt k).pooled = false ∧ (t.groupAt k).set = g.set ∧ t.inFlight (.fallowReturn k) = true ∧
      (rest = [] → Map.find t.pools n = none) ∧
      (rest ≠ [] → Map.find t.pools n = some { p with outputs := rest } ∧ t.inFlight (.regroupRelease n) = true) ∧ SameMemory s t)

/-- R264, R270 to R279: threads depart, records are staged and packed, a standby core is loaded, and a waiting group is evicted. That an
evicted group's spilled registers go straight into the records is the model's reading (log entry 115). -/
def Obligations.ThreadsTravel : Prop :=
  (∀ s k g pc seg core, Map.find s.groups k = some g → s.departing k g ≠ 0 → pc = (g.thread (lowLane (s.departing k g))).pc →
    (∀ l, poisonedLane g l = none) → s.replicaFor g pc = some (seg, core) → core < 24 → g.die < 8 →
    s.retainedBytes g.die (servingPort g.core) + 512 * 32 ≤ Config.retentionBytes → ticketsFree s g →
    g.regs.spilled = 0 →
    Happens (.threadDepart k) s fun t =>
      (∀ l, (s.departing k g).getLsbD l = true → (g.thread l).pc = pc →
        ((t.groupAt k).thread l).live = false ∧ RecordSent t g l pc 0 core) ∧ SameMemory s t) ∧
  (∀ s ck o d crc qid key, (s.coreAt ck).packer.staged.length < 128 → (s.coreAt ck).packer.ready = [] → s.packs (ck / 24) (ck % 24) = true →
    (let k := arrivalKey (ck / 24) (ck % 24)
     let q := s.queueAt k
     let r := TRecord.read q.h d
     Quiet s k → q.h < min q.c q.e → q.slot q.h = some (.filled o d crc qid key true) → ((s.coreAt ck).packer.bin r.pc r.cpos).length < 31 →
     Happens (.packerStage ck) s fun t =>
      (t.coreAt ck).packer.staged = (s.coreAt ck).packer.staged ++ [(r, (s.die (ck / 24)).clock / 32)] ∧ (t.queueAt k).h = q.h + 1 ∧
      SameMemory s t ∧ t.groups = s.groups)) ∧
  (∀ s ck b recs gid slot x, (s.die (ck / 24)).clock % 32 ≠ 0 → BinReady s ck b recs gid slot x →
    Happens (.packerWindowEmit ck) s fun t =>
      (∃ k g, Map.find t.groups k = some g ∧ g.grid = gid ∧ g.slot = slot ∧ g.set = .ready ∧
        (∀ i r, recs[i]? = some r → (g.thread i).live = true ∧ (g.thread i).tid = r.tid ∧ (g.thread i).clause = r.pc ∧
          (g.thread i).rstack = r.rstack ∧ (g.thread i).carry = r.wit)) ∧
      (t.coreAt ck).packer.ready = [] ∧ SameMemory s t) ∧
  (∀ s gid n x core rest, Map.find s.grids gid = some x → x.stage = .running → (Map.find x.segs n).isSome = true →
    (Map.get x.segs {} n).loading = core :: rest →
    Happens (.segmentLoadComplete gid n) s fun t =>
      (Map.get (t.gridAt gid).segs {} n).loading = rest ∧
      (Map.get (t.gridAt gid).segs {} n).loaded = (Map.get x.segs {} n).loaded ++ [core] ∧
      (t.queueAt (arrivalKey x.die core)).desc = arrivalDesc x core ∧ (t.queueAt (arrivalKey x.die core)).e = 512 ∧
      SameMemory s t ∧ t.groups = s.groups) ∧
  (∀ s ck k, (s.die (ck / 24)).clock % 32 = 0 → (s.coreAt ck).packer.starved (s.die (ck / 24)).clock = true →
    s.packs (ck / 24) (ck % 24) = true → s.victim (ck / 24) (ck % 24) = some k → (s.groupAt k).die < 8 → ticketsFree s (s.groupAt k) →
    (∀ l, poisonedLane (s.groupAt k) l = none) →
    s.retainedBytes (ck / 24) (servingPort (ck % 24)) + 512 * 32 ≤ Config.retentionBytes →
    (let g := (s.refillRegs k).groupAt k
     Happens (.groupEvict ck) s fun t =>
      (t.groupAt k).set = .ended ∧ (∀ n o, Map.find t.qops n = some o → o.g ≠ k) ∧
      (t.coreAt ck).packer.evictions = (s.coreAt ck).packer.evictions + 1 ∧
      (∀ l, l < 32 → (g.thread l).live = true → RecordSent t g l (g.thread l).wpc (g.thread l).wcpos (ck % 24)) ∧ SameMemory s t))

namespace Sys2Proof.Machine

/-! ### Scheduling and launches -/

/-- The address at which every thread of a launch starts (R286, R295). -/
def Grid.start (x : Grid) : Nat := (x.image + x.entry) % 2 ^ 48

/-- The launch queue k of a die is the one that the launch unit takes next, with the packet d of the context ctx at its head (R284, R285). -/
structure PacketAt (s : State) (die k ctx : Nat) (d : List Byte) : Prop where
  due : s.launchDue die = true
  next : s.nextLaunch die = some k
  still : Still s k
  head : ∃ o crc qid key, (s.queueAt k).slot (s.queueAt k).h = some (.filled o d crc qid key true) ∧
    s.domainCtx die (o / 65536 / 64 / 8192) = some ctx

/-- The packet's grid before it is started. -/
def packetGrid (die ctx : Nat) (d : List Byte) : Grid := { die := die, ctx := ctx, packet := BitVec.ofNat 2048 (ofBytes d) }

/-- The segment map of a travel launch's packet, as the launch unit reads it; a team launch has none (R266, R287). -/
def packetMap (s : State) (die ctx : Nat) (d : List Byte) : List Byte :=
  if (packetGrid die ctx d).travel then (s.readVirtual die ctx (packetGrid die ctx d).segmap 1024 .any).getD [] else []

/-- What the launch unit finds wrong with a packet, as the number of R287's reason; 0 where it finds nothing. -/
def packetReason (s : State) (die ctx : Nat) (d : List Byte) (reason : Nat) : Prop :=
  ∀ x : Grid, x.die = die → x.ctx = ctx → x.packet = (packetGrid die ctx d).packet →
    (x.travel = true → x.segs = readSegments (packetMap s die ctx d)) → s.launchReason x (packetMap s die ctx d) = reason

/-- A record of class launch-refused with a reason is on its way to a queue (R287, R304). -/
def RefusalPosted (t : State) (qid reason : Nat) : Prop :=
  Retains t fun r => r.msg.hw = true ∧ r.msg.qid = qid ∧ r.msg.data.length = 64 ∧
    ofBytes r.msg.data / 2 ^ 208 % 2 ^ 8 = FaultClass.launchRefused.code ∧ ofBytes r.msg.data / 2 ^ 200 % 2 ^ 8 = reason

/-- A register request at the head of a core's queue that stands, waits for no halted group, and whose registers are free (R130 to R132). -/
structure RequestMet (s : State) (ck : Nat) (r : RegReq) (rest : List RegReq) (g : Group) : Prop where
  head : (s.coreAt ck).regReqs = r :: rest
  stands : s.requestStands r = true
  awake : s.requestRests r = false
  free : s.requestNeed r ≤ s.poolFree (ck / 24) (ck % 24)
  group : Map.find s.groups r.g = some g

/-! ### The context area -/

/-- A core's part of a context's area is mapped in one page that the core's TLB holds, for the hardware and outside the dump; its first byte
stands at the physical address pa; the context is halted, and no write of the hardware waits at a home. -/
structure AreaMaps (s : State) (die ctx core pa : Nat) (e : TlbEntry) : Prop where
  first : ∃ l, (s.coreAt (coreKey die core)).tlb = e :: l
  mine : e.ctx = ctx
  covers : e.base ≤ s.areaBase die ctx core ∧ s.areaBase die ctx core + 2 ^ 24 ≤ e.base + e.size
  system : pteAllows .system e.pte = true
  place : pa = pteAddr e.pte + (s.areaBase die ctx core - e.base)
  live : ∀ i, i < 2 ^ 24 → s.inDump die (pa + i) = false
  held : s.ctxHeld die ctx = true
  none_ : (s.die die).writeWait = []

/-- Every section of a core's part has the room that R311 gives it, and the core's groups are named once. -/
structure AreaFits (s : State) (die ctx core : Nat) : Prop where
  named : ∀ e ∈ s.areaGroups die ctx core, Map.find s.groups e.1 = some e.2
  once : ((s.areaGroups die ctx core).map (·.1)).Nodup
  phys : (areaRegs (s.areaGroups die ctx core)).length ≤ 32768
  tiles : ∀ x ∈ s.areaTeams die ctx core, x.2.2 + x.2.1.tiles ≤ 64
  team : ∀ x ∈ s.areaTeams die ctx core, x.2.1.base + x.2.1.size ≤ 2 ^ 21
  teams : (s.areaTeams die ctx core).length ≤ 1024
  rings : (s.areaTeams die ctx core).foldl (fun n x => n + x.2.1.nrings) 0 + (s.areaTeams die ctx core).length ≤ 2048
  last : s.areaTail die ctx core + 128 * (s.areaGroups die ctx core).foldl (fun n x => n + x.2.regs.opEntries.length) 0 +
    2304 * ((s.areaGroups die ctx core).filter (fun x => x.2.latch.isSome)).length ≤ 2 ^ 24

/-- What stands in n bytes of a core's part of the area, from an offset on, once the part is written: the lower byte lies lower. -/
def inArea (s : State) (die ctx core pa off n : Nat) : Nat :=
  readNat ((s.saveCore die ctx core).hbmArrived die) (hbmKey die (pa + off)) n

/-- The thread entry of lane l, as R312 lays it out: PC, exited, parked, %lr valid, p1 to p7, return stack with its height and spilled depth,
join stack, %lr. That a stack's oldest entry stands first is the model's choice (log entry 104). -/
def ThreadStands (r : Nat → Nat → Nat) (g : Group) (l : Nat) : Prop :=
  r 0 6 = (g.thread l).pc % 2 ^ 48 ∧ ((r 6 2).testBit 0 = true ↔ (g.thread l).live = false) ∧
  ((r 6 2).testBit 1 = true ↔ (g.thread l).park ≠ .none) ∧ (r 6 2).testBit 8 = g.regs.lrValid.getLsbD l ∧
  (∀ p, 0 < p → p < 8 → (r 8 1).testBit (p - 1) = g.regs.predAt p l) ∧ r 9 1 = (g.thread l).rstack.length % 256 ∧ r 10 2 = (g.thread l).rsd % 65536 ∧
  (∀ i, i < 4 → r (12 + 6 * i) 6 = (g.thread l).rstack.reverse.getD i 0 % 2 ^ 48) ∧
  (∀ i m a, i < 4 → (g.thread l).join.reverse[i]? = some (m, a) → r (36 + 6 * i) 4 = m.toNat ∧ r (40 + 6 * i) 2 = a % 65536) ∧
  r 60 4 = (g.regs.latch l).toNat

end Sys2Proof.Machine

/-- R311, R312: what one core's part of the context area holds in HBM once microcode has written it: at the offsets of R311 the physical
registers that the rename maps name, the tiles, the teams' memory and their records, the groups' records with the fields of R312, the
operand-file entries written since dispatch, and the numbers of the unsettled tickets; CONTEXT_SAVE writes every such part and nothing else.
Bits for which the manual gives a record but no place are not said here; their places are the model's choice (log entry 104). -/
def Obligations.ContextArea : Prop :=
  (∀ s ck, s.saveDue ck = true → Happens (.contextSave ck) s fun t =>
    let u := (s.ctxCores (ck / 65536) (ck % 65536)).foldl (fun s core => s.saveCore (ck / 65536) (ck % 65536) core) s
    t.hbm = u.hbm ∧ ∀ d, (t.die d).writeWait = (u.die d).writeWait) ∧
  (∀ s die ctx core pa e, AreaMaps s die ctx core pa e → AreaFits s die ctx core → ∀ i k g, (s.areaGroups die ctx core)[i]? = some (k, g) →
    (let r := fun off n => inArea s die ctx core pa (0x81C000 + 2560 * i + off) n
     r 0 2 = g.slot % 65536 ∧ r 3 1 = g.floor % 256 ∧ r 4 1 = g.ceil % 256 ∧ r 5 1 % 8 = g.rmode % 8 ∧ r 6 1 = g.flagsNow.toNat ∧
     (∀ n, n < 12 → r (8 + n) 1 = g.flagOf n % 256) ∧ (g.regs.failing = [] → r 22 1 = g.pend.length % 256) ∧
     (∀ n, n < 96 → g.regs.spilled.getLsbD n = true → r (64 + 2 * n) 2 = 0xFFFE) ∧
     (∀ n, n < 96 → g.regs.spilled.getLsbD n = false → g.regs.vmap.getLsbD n = false → r (64 + 2 * n) 2 = 0xFFFF) ∧
     (∀ n, n < 96 → g.regs.spilled.getLsbD n = false → g.regs.vmap.getLsbD n = true →
       r (64 + 2 * n) 2 < 0xFFFE ∧
       ∀ l, l < 32 → inArea s die ctx core pa (0x4000 + 128 * r (64 + 2 * n) 2 + 4 * l) 4 = (g.regs.main n l).toNat) ∧
     (∀ n, n < 64 → r (256 + 4 * n) 4 = (g.regs.scalar n).toNat) ∧
     (∀ l, l < 32 → ThreadStands (fun off n => r (512 + 64 * l + off) n) g l) ∧
     (∀ j n, g.regs.opEntries[j]? = some n → ∀ l, l < 32 →
       inArea s die ctx core pa (s.areaTail die ctx core + 128 * ((((s.areaGroups die ctx core).take i).foldl (fun n e => n + e.2.regs.opEntries.length) 0) + j) + 4 * l) 4 =
         (g.regs.opfile n l).toNat))) ∧
  (∀ s die ctx core pa e, AreaMaps s die ctx core pa e → AreaFits s die ctx core → ∀ i k m tile, (s.areaTeams die ctx core)[i]? = some (k, m, tile) →
    (inArea s die ctx core pa (0x804000 + 64 * i) 4 = m.base % 2 ^ 32 ∧
     (∀ n, n < 8 → inArea s die ctx core pa (0x804000 + 64 * i + 32 + 4 * n) 4 = (Map.get m.fds 0 n).toNat) ∧
     (∀ a row col, a < m.tiles → row < 64 → col < 128 →
       inArea s die ctx core pa (0x404000 + (tile + a) * 32768 + row * 512 + 4 * col) 4 = (s.tile (tileKey k a row col)).toNat) ∧
     (s.areaPacker die ctx core = false → ∀ j, j < m.size →
       inArea s die ctx core pa (0x604000 + m.base + j) 1 = (Map.get s.team 0 (teamKey (coreKey die core) (m.base + j))).toNat))) ∧
  (∀ s die ctx core pa e, AreaMaps s die ctx core pa e → AreaFits s die ctx core → ∀ i n, i < 128 →
    (((s.coreAt (coreKey die core)).tickets.filter (fun e => decide (e.2.ctx = ctx))).map (·.1))[i]? = some n →
    inArea s die ctx core pa (14336 + 8 * i) 8 = n % 2 ^ 64)

/-- R130, R131, R253, R290: what a core grants, refills and fetches. That a fetch drops no line while the store has room follows log entry
13. -/
def Obligations.CoreResources : Prop :=
  (∀ s ck r rest g, RequestMet s ck r rest g → r.refill = false → s.waitingPool r.g = none →
    Happens (.registerGrant ck) s fun t =>
      (t.coreAt ck).regReqs = rest ∧ Map.get (t.groupAt r.g).grants 0 r.pc = max (Map.get g.grants 0 r.pc) r.n ∧
      (∀ l n, (g.thread l).pc = r.pc → (g.thread l).stall = .register n → ((t.groupAt r.g).thread l).stall = .none) ∧
      t.inFlight (.fallowReturn r.g) = true ∧ SameMemory s t) ∧
  (∀ s ck r rest g n, RequestMet s ck r rest g → r.refill = true → n < 96 → g.regs.spilled = 1#96 <<< n →
    Happens (.registerRefill ck) s fun t =>
      (t.coreAt ck).regReqs = rest ∧ (t.groupAt r.g).regs.spilled = 0 ∧ (t.groupAt r.g).regs.vmap = g.regs.vmap ||| (1#96 <<< n) ∧
      (∀ l, l < 32 → (t.groupAt r.g).regs.main n l = BitVec.ofNat 32 ((s.spillRead g (s.registerArea g + 128 * n) 128).1 / 2 ^ (32 * l))) ∧
      (∀ i l, i ≠ n → l < 32 → (t.groupAt r.g).regs.main i l = g.regs.main i l) ∧ t.inFlight (.fallowReturn r.g) = true ∧ SameMemory s t) ∧
  (∀ s ck ctx a pa, (s.translate ck (ck / 24) ctx (a / 128 * 128) .code).1 = .ok pa → (s.coreAt ck).istore.length < Config.istoreLines →
    Happens (.codeLineFill ck ctx a) s fun t =>
      (∃ x ∈ (t.coreAt ck).istore, x.ctx = ctx ∧ x.addr = a / 128 * 128 ∧ x.data = readBytes s.hbm (hbmKey (ck / 24) pa) 128) ∧
      SameMemory s t ∧ t.groups = s.groups) ∧
  (∀ s ck ctx a k g, s.groups = [(k, g)] → inService s k g → g.die = ck / 24 → g.core = ck % 24 → g.ctx = ctx → g.pend = [] →
    s.linesWanted g (a / 128 * 128) ≠ 0 →
    ((s.translate ck (ck / 24) ctx (a / 128 * 128) .code).1 = .missing →
      Happens (.codeLineFill ck ctx a) s fun t => Raised t k g .codeTranslation ∧ SameMemory s t) ∧
    ((s.translate ck (ck / 24) ctx (a / 128 * 128) .code).1 = .prot →
      Happens (.codeLineFill ck ctx a) s fun t => Raised t k g .codeProtection ∧ SameMemory s t)) ∧
  (∀ s k g m l, Map.find s.groups k = some g → (BitVec.ofNat 32 m).getLsbD l = true → (g.thread l).stall = .retAddr →
    Happens (.returnAddressSpillComplete k m) s fun t =>
      ((t.groupAt k).thread l).stall = .none ∧ ((t.groupAt k).thread l).pc = (g.thread l).pc ∧ OnlyGroup s t k)

/-- R264, R296 to R298: the sets of a quarter, and the end of a group. Which groups return from the fallow set, and on what, is the model's
reading (log entry 98); that records stay listed is log entry 59. -/
def Obligations.QuarterSets : Prop :=
  (∀ s qk, Happens (.activeEntry qk) s fun t =>
    let q := s.quarterAt qk
    let n := min 2 q.room
    (t.quarterAt qk).active = q.active ++ q.ready.take n ∧ (t.quarterAt qk).ready = q.ready.drop n ∧
    (t.quarterAt qk).room = q.room - (q.ready.take n).length ∧
    (∀ k ∈ q.ready.take n, (Map.find s.groups k).isSome = true → (t.groupAt k).set = .active) ∧ SameMemory s t) ∧
  (∀ s k g, Map.find s.groups k = some g → g.set = .active → 1024 ≤ g.issues →
    (let qk := coreKey g.die g.core * 4 + g.quarter
     (s.quarterAt qk).ready ≠ [] →
     Happens (.timeSliceExpiry k) s fun t =>
      (t.groupAt k).set = .ready ∧ (t.quarterAt qk).ready = (s.quarterAt qk).ready ++ [k] ∧
      (t.quarterAt qk).active = (s.quarterAt qk).active.filter (· ≠ k) ∧ SameMemory s t)) ∧
  (∀ s k g l, Map.find s.groups k = some g → s.fallowDue k g = true → l < 32 → (g.thread l).live = true → (g.thread l).park = .none →
    Happens (.fallowReturn k) s fun t =>
      (g.regs.spilled = 0 → (t.groupAt k).set = .ready ∧ k ∈ (t.quarterAt (coreKey g.die g.core * 4 + g.quarter)).ready) ∧
      (g.regs.spilled ≠ 0 → (t.coreAt (coreKey g.die g.core)).regReqs = (s.coreAt (coreKey g.die g.core)).regReqs ++ [⟨k, true, 0, 0⟩] ∧
        t.groups = s.groups) ∧ SameMemory s t) ∧
  (∀ s k g x, Map.find s.groups k = some g → s.groupDone g = true → g.pend = [] → s.pools = [] → Map.find s.grids g.grid = some x →
    Happens (.groupEnd k) s fun t =>
      (t.groupAt k).set = .ended ∧ (t.groupAt k).regs = {} ∧ (t.gridAt g.grid).flags = x.flags ||| g.flagsNow ∧ SameMemory s t)

/-- R285 to R290, R293, R294, R300: a packet that fails a check is refused with the reason's record and, where it asks for one, its
completion record; one that passes becomes a grid, that of a travel launch waits for its cores and starts; plots are dispatched, teams
complete and the grid ends. The core of a team's drain ticket is log entry 58; which completion handles are valid is log entry 122, and that
a travel launch awaits its writes log entry 118. -/
def Obligations.LaunchesRun : Prop :=
  (∀ s die k ctx d reason, PacketAt s die k ctx d → packetReason s die ctx d reason → 0 < reason → reason < 8 →
    Happens (.launchStart die) s fun t =>
      (∀ gid x, Map.find t.grids gid = some x → Map.find s.grids gid = some x) ∧ (t.queueAt k).h = (s.queueAt k).h + 1 ∧
      (∃ x, Map.find s.contexts (ctxKey die ctx) = some x ∧ RefusalPosted t (qidOf s.module die 0 x.faultIndex) reason) ∧
      (reason ≠ 6 → (reason = 2 → (packetGrid die ctx d).limitsBad = true) → (packetGrid die ctx d).posts = true →
        ∀ e, s.completionEntry die ctx (packetGrid die ctx d).chandle = some e →
          Retains t (fun r => r.msg.kind = .post ∧ r.msg.qid = entQid e ∧ r.msg.data.length = 64 ∧ ofBytes r.msg.data / 2 ^ 32 % 2 ^ 32 = 2)) ∧
      SameMemory s t ∧ t.groups = s.groups) ∧
  (∀ s die k d o crc qid key, s.launchDue die = true → s.nextLaunch die = some k → Still s k →
    (s.queueAt k).slot (s.queueAt k).h = some (.filled o d crc qid key true) → s.domainCtx die (o / 65536 / 64 / 8192) = none →
    Map.find s.contexts (ctxKey die 0xFFFF) = none →
    Happens (.launchStart die) s fun t =>
      (∀ gid x, Map.find t.grids gid = some x → Map.find s.grids gid = some x) ∧ RefusalPosted t (qidOf s.module die 0 16) 6 ∧
      (t.die die).refusals = (s.die die).refusals + 1 ∧ SameMemory s t ∧ t.groups = s.groups) ∧
  (∀ s die k ctx d, PacketAt s die k ctx d → (packetGrid die ctx d).travel = true → packetReason s die ctx d 0 →
    Happens (.launchStart die) s fun t =>
      (∃ gid x, Map.find t.grids gid = some x ∧ x.die = die ∧ x.ctx = ctx ∧ x.packet = (packetGrid die ctx d).packet ∧ x.prio = k % 4096 ∧
        x.stage = .waiting ∧ x.segs = readSegments (packetMap s die ctx d)) ∧ (t.queueAt k).h = (s.queueAt k).h + 1 ∧
      SameMemory s t ∧ t.groups = s.groups) ∧
  (∀ s die k ctx d, PacketAt s die k ctx d → (packetGrid die ctx d).travel = false → packetReason s die ctx d 0 →
    Happens (.launchStart die) s fun t =>
      (∃ gid x, Map.find t.grids gid = some x ∧ x.die = die ∧ x.ctx = ctx ∧ x.packet = (packetGrid die ctx d).packet ∧ x.prio = k % 4096 ∧
        x.stage = .running ∧ x.nextPlot = 0 ∧ x.done = []) ∧ (t.queueAt k).h = (s.queueAt k).h + 1 ∧ SameMemory s t ∧ t.groups = s.groups) ∧
  (∀ s die gid x pos, s.nextPlot die = some (gid, x, pos) → Map.find s.grids gid = some x →
    Happens (.plotDispatch die) s fun t =>
      (t.gridAt gid).nextPlot = x.nextPlot + 1 ∧
      (∃ p, Map.find t.plots s.fresh = some p ∧ p.grid = gid ∧ p.index = x.nextPlot ∧ p.top = pos ∧ p.teams.length = x.plotW * x.plotH ∧
        ∀ k ∈ p.teams, ∃ tm, Map.find t.teams k = some tm ∧ tm.grid = gid ∧ tm.plot = s.fresh ∧ tm.size = x.memPer ∧ tm.tiles = x.tilesPer ∧
          ∀ i, i < x.teamGroups → i < x.groupRoles.length → ∃ j g, Map.find t.groups j = some g ∧ g.team = k ∧ g.gidx = i ∧ g.set = .ready ∧
            ∀ l, l < 32 → (g.thread l).live = true ∧ (g.thread l).pc = x.start ∧ (g.thread l).tid = 32 * i + l)) ∧
  (∀ s gid x, Map.find s.grids gid = some x → s.travelReady gid x = true →
    Happens (.travelLaunchStart gid) s fun t => (t.gridAt gid).stage = .running ∧ (t.gridAt gid).threadsLeft = x.threadCount) ∧
  (∀ s k tm, Map.find s.teams k = some tm → s.teamDue k tm = true →
    Happens (.teamCompletion k) s fun t =>
      (tm.ended = false → (t.teamAt k).ended = true) ∧
      (tm.ended = true → tm.ticket = none → (t.teamAt k).ticket = some (s.coreAt (coreKey tm.die (s.leadCore tm))).ticketNext) ∧
      (tm.ended = true → tm.ticket ≠ none → (Map.find s.grids tm.grid).isSome = true → tm.index ∈ (t.gridAt tm.grid).done) ∧ SameMemory s t) ∧
  (∀ s gid x, Map.find s.grids gid = some x → s.gridDue gid x = true → x.travel = false →
    Happens (.gridEnd gid) s fun t =>
      ((t.gridAt gid).stage = .ended ∨ (t.gridAt gid).stage = .freed) ∧
      (x.posts = true → ∀ e, s.completionEntry x.die x.ctx x.chandle = some e →
        Retains t (fun r => r.msg.kind = .post ∧ r.msg.qid = entQid e ∧ r.msg.data.length = 64)) ∧ SameMemory s t)

namespace Sys2Proof.Machine

/-! ### Contexts, faults and dies -/

/-- A group of a context on a die that has not ended. -/
def ofContext (g : Group) (die ctx : Nat) : Prop := g.die = die ∧ g.ctx = ctx ∧ g.set ≠ .ended

/-- No queue port holds a post out of sequence (R214). -/
def NoneHeld (s : State) : Prop := ∀ p, (s.portAt p).held = []

/-- A halted group: it is in no set of its quarter's and its launch is marked faulted, where it has one (R305, R306). -/
def Halted (t : State) (k : Nat) (g : Group) : Prop :=
  (t.groupAt k).set = .halted ∧ ((Map.find t.grids g.grid).isSome = true → (t.gridAt g.grid).faulted = true)

end Sys2Proof.Machine

/-- R301, R309, R313: a blocked grid pre-empts a context, the context is saved when it has drained, and the launch unit restores it. The
form of the area's unstated parts is the model's choice (log entry 30). -/
def Obligations.ContextsMove : Prop :=
  (∀ s gid x ctx y, Map.find s.grids gid = some x → s.preemptDue gid x = true → s.preemptTarget x = some ctx →
    Map.find s.contexts (ctxKey x.die ctx) = some y →
    Happens (.preemptTrigger gid) s fun t =>
      (t.ctxAt (ctxKey x.die ctx)).stage = .halting (s.die x.die).clock ∧ (t.ctxAt (ctxKey x.die ctx)).byLaunchUnit = true ∧
      (t.gridAt gid).blocked = 0 ∧ SameMemory s t ∧ t.groups = s.groups) ∧
  (∀ s k x, s.saveDue k = true → Map.find s.contexts k = some x →
    Happens (.contextSave k) s fun t =>
      (t.ctxAt k).stage = .saved ∧ (t.ctxAt k).asker = none ∧
      (∀ j g, Map.find s.groups j = some g → ofContext g (k / 65536) (k % 65536) → (t.groupAt j).saved = true) ∧
      (∀ j m, Map.find s.teams j = some m → m.die = k / 65536 → m.ctx = k % 65536 → (t.teamAt j).saved = true) ∧
      t.scratch = s.scratch ∧ t.team = s.team ∧ t.tiles = s.tiles) ∧
  (∀ s k x, s.restoreDue k = true → Map.find s.contexts k = some x → x.fatal = false →
    (∀ j g, Map.find s.groups j = some g → g.pend = []) →
    Happens (.launchUnitRestore k) s fun t =>
      (t.ctxAt k).stage = .running ∧ (t.ctxAt k).byLaunchUnit = false ∧
      (∀ j g, Map.find s.groups j = some g → ofContext g (k / 65536) (k % 65536) → (t.groupAt j).saved = false) ∧
      t.scratch = s.scratch ∧ t.hbm = s.hbm)

/-- R321, R323, R325: a die that resets, droops, recovers its clock, or stops for good. That memory keeps its contents is the model's choice
(log entry 63). -/
def Obligations.DiesReset : Prop :=
  (∀ s die, NoneHeld s → Happens (.dieReset die) s fun t =>
    (t.die die).inc = (s.die die).inc + 1 ∧ ((t.die die).mode = .running ∨ (t.die die).mode = .recovery) ∧ (t.die die).clock = 0 ∧
    (t.die die).given = [] ∧ (t.die die).visible = [] ∧ (t.die die).table = [] ∧ ((t.die die).fallback = true → (s.die die).fallback = true) ∧
    (∀ l ∈ (t.die die).fallbackFor, l / 3 ≠ die) ∧ (∀ dir, dir < 3 → (t.linkAt (linkKey die dir)).withdrawn = false) ∧
    (s.die die).log.length + 1 = (t.die die).log.length ∧
    (∀ k g, Map.find t.groups k = some g → g.die ≠ die) ∧ (∀ k x, Map.find t.contexts k = some x → k / 65536 ≠ die) ∧
    (∀ q, q / 16384 = die → t.queueAt q = Queue.init q) ∧ (∀ p, p / 4 = die → t.portAt p = {}) ∧
    (∀ n r, Map.find t.retained n = some r → r.die ≠ die) ∧ SameMemory s t) ∧
  (∀ s die, Happens (.droopTrip die) s fun t =>
    (t.die die).droop = true ∧ t.inFlight (.damperRelease die) = true ∧ SameMemory s t ∧ t.groups = s.groups) ∧
  (∀ s die, (s.die die).droop = true → Happens (.damperRelease die) s fun t =>
    (64 ≤ (s.die die).damper → (t.die die).droop = false) ∧
    ((s.die die).damper < 64 → (t.die die).droop = true ∧ t.inFlight (.damperRelease die) = true) ∧ SameMemory s t ∧ t.groups = s.groups) ∧
  (∀ s die cause, (s.die die).mode ≠ .dumped → Happens (.fatalDieError die cause) s fun t =>
    (t.die die).mode = .dumped ∧ (∃ r, t.responses = s.responses ++ [r] ∧ r.chan = 0) ∧
    (∀ k g, Map.find t.groups k = some g → g.die ≠ die) ∧ t.scratch = s.scratch ∧ t.team = s.team ∧ t.tiles = s.tiles)

namespace Sys2Proof.Machine

/-! ### Chimney commands -/

/-- The command c, the next of its channel, is whole, in sequence and not reserved, and the die takes it: ev is the row that performs it
(R317, R318, R321, R325). -/
structure AtHead (s : State) (chan : Nat) (c : ChimCmd) (rest : List ChimCmd) (ev : Ev) : Prop where
  head : (s.chanAt chan).inbox = c :: rest
  row : s.chimEvent chan c = ev
  takes : s.dieTakes c = true
  bound : c.len ≤ 65536

/-- One response more, with its status, its payload and a check code over both (R317). -/
def Replies (s t : State) (chan : Nat) (c : ChimCmd) (status : Nat) (payload : List Byte) : Prop :=
  let h := chimHeader c.op c.die c.ctx status (c.addr % 2 ^ 48) payload.length (c.seq % 2 ^ 32)
  t.responses = s.responses ++ [{ chan := chan, hdr := h (crc32c (bytesOf 32 (h 0).toNat ++ payload)).toNat, payload := payload }]

/-- The channel waits for its next command. -/
def NextOf (s t : State) (chan : Nat) (rest : List ChimCmd) : Prop :=
  (t.chanAt chan).inbox = rest ∧ (t.chanAt chan).expect = ((s.chanAt chan).expect + 1) % 2 ^ 32 ∧
  (∀ k, k ≠ chan → t.chanAt k = s.chanAt k)

/-- Nothing of the machine but the channels and the responses is changed. -/
def OnlyPort (s t : State) : Prop := t = { s with channels := t.channels, responses := t.responses }

/-- A command does what p says and is answered with status 0. -/
def CommandDoes (i : Nat → Instr) (ev : Nat → Ev) (ok : State → ChimCmd → Prop) (out : State → ChimCmd → List Byte)
    (p : State → ChimCmd → State → Prop) : Prop :=
  ∀ s chan c rest, AtHead s chan c rest (ev chan) → ok s c →
    Happens (i chan) s fun t => NextOf s t chan rest ∧ Replies s t chan c 0 (out s c) ∧ p s c t

/-- A command is refused with a status and has no other effect. -/
def CommandRefused (i : Nat → Instr) (ev : Nat → Ev) (ok : State → ChimCmd → Prop) (status : Nat) : Prop :=
  ∀ s chan c rest, AtHead s chan c rest (ev chan) → ok s c →
    Happens (i chan) s fun t => NextOf s t chan rest ∧ Replies s t chan c status [] ∧ OnlyPort s t

/-- The physical address of a command's bytes where they are one run: of the die, or within one 128-byte block of a context's space. -/
def oneRun (s : State) (c : ChimCmd) (n pa : Nat) : Prop :=
  (c.ctx = 0xFFFF ∧ c.addr + n ≤ 2 ^ 37 ∧ pa = c.addr) ∨
  (c.ctx ≠ 0xFFFF ∧ c.addr % 128 + n ≤ 128 ∧ 0 < n ∧ s.chimPa c c.addr = some pa)

/-- Every row that performs a command, with the event that it is. -/
noncomputable def chimRows : List ((Nat → Instr) × (Nat → Ev)) :=
  [(.hbmWrite, .hbmWrite), (.hbmRead, .hbmRead), (.enqueue, .enqueue), (.dequeue, .dequeue), (.mgmtRegisterWrite, .mgmtRegisterWrite),
   (.mgmtRegisterRead, .mgmtRegisterRead), (.managementReset, .managementReset), (.contextCreate, .contextCreate),
   (.contextDestroy, .contextDestroy), (.tlbInvalidate, .tlbInvalidate), (.queueTranslationWrite, .queueTranslationWrite),
   (.multicastGroupWrite, .multicastGroupWrite), (.queueDescriptorWrite, .queueDescriptorWrite), (.accessListWrite, .accessListWrite),
   (.queueMove, .queueMove), (.preempt, .preempt), (.restore, .restore), (.haltRetry, .haltRetry), (.haltSkip, .haltSkip),
   (.haltResumeCopy, .haltResumeCopy), (.haltKill, .haltKill), (.keyInstall, .keyInstall), (.counterAssign, .counterAssign),
   (.attestationQuote, .attestationQuote)]

/-- The descriptor that a context or queue command carries. -/
def ctxOf (c : ChimCmd) : Context := { desc := BitVec.ofNat 512 (c.num 0 64) }
def queueOf (c : ChimCmd) : Queue := { desc := BitVec.ofNat 128 (c.num 0 16), owner := c.ctx }

/-- The queue that a command's address names is at a home of the command's die. -/
def ownQueue (s : State) (c : ChimCmd) : Prop :=
  c.addr < 2 ^ 30 ∧ qidModule c.addr = s.module ∧ qidDie c.addr = c.die

/-- What a halt command asks of its form, and that every group that it names accepts it (R307) and has no record under way (log 105). -/
def haltOk (accepts : HaltKind → Bool) (s : State) (c : ChimCmd) : Prop :=
  (s.cmdCtx c).isSome = true ∧ c.payload.length = 20 ∧ c.num 4 4 ≤ 3 ∧ c.arg ≤ 3 ∧ s.ctxHeld c.die c.ctx = false ∧
  ∀ k g, (k, g) ∈ haltsOf s c → accepts g.halt = true ∧ s.recordOut k = false
where
  haltsOf (s : State) (c : ChimCmd) : Map Group := s.haltedIn c.die c.ctx (c.num 0 4) (c.num 4 4) (c.num 8 4) (c.num 12 4) (c.num 16 4)

/-- After a halt command no group that it names is halted. -/
def noneHalted (s : State) (c : ChimCmd) (t : State) : Prop :=
  (∀ k g, (k, g) ∈ haltOk.haltsOf s c → (t.groupAt k).set ≠ .halted) ∧ SameMemory s t

end Sys2Proof.Machine

/-- R318, R322, R324: the commands that read and write memory, registers, counters and keys, ask for a quote, or reset a die. The payloads
of the register and key commands are the model's choice (log entries 27, 28, 69 and 72). -/
def Obligations.ChimneyAccess : Prop :=
  (∀ s chan c rest pa, AtHead s chan c rest (.hbmWrite chan) → oneRun s c c.payload.length pa →
    Happens (.hbmWrite chan) s fun t =>
      NextOf s t chan rest ∧ Replies s t chan c 0 [] ∧ readBytes t.hbm (hbmKey c.die pa) c.payload.length = c.payload ∧
      (∀ k, (k < hbmKey c.die pa ∨ hbmKey c.die pa + c.payload.length ≤ k) → Map.get t.hbm 0 k = Map.get s.hbm 0 k) ∧
      t.scratch = s.scratch ∧ t.team = s.team ∧ t.tiles = s.tiles ∧ t.groups = s.groups) ∧
  (∀ s chan c rest pa, AtHead s chan c rest (.hbmRead chan) → oneRun s c c.len pa →
    Happens (.hbmRead chan) s fun t =>
      NextOf s t chan rest ∧ Replies s t chan c 0 (readBytes (s.hbmArrived c.die) (hbmKey c.die pa) c.len) ∧ OnlyPort s t) ∧
  CommandRefused .hbmRead .hbmRead (fun s c => c.ctx ≠ 0xFFFF ∧ s.cmdCtx c = none ∧ 0 < c.len) 2 ∧
  (∀ s chan c rest, AtHead s chan c rest (.mgmtRegisterWrite chan) → c.payload.length = 8 →
    Happens (.mgmtRegisterWrite chan) s fun t => NextOf s t chan rest ∧
      (if Config.registerCounter c.addr = none ∧ Config.identityRegister c.addr = false then
        Replies s t chan c 0 [] ∧ (∀ x, Map.get (t.die c.die).mgmt x c.addr = BitVec.ofNat 64 (c.num 0 8)) ∧
        (∀ a x, a ≠ c.addr → Map.get (t.die c.die).mgmt x a = Map.get (s.die c.die).mgmt x a) ∧
        (∀ n, Config.fabricRegister c.addr = some (n, 0) → (t.fabricAt (2 * c.die + n % 2)).initWindow = c.num 0 8) ∧
        SameMemory s t ∧ t.groups = s.groups
      else Replies s t chan c 2 [] ∧ OnlyPort s t)) ∧
  CommandDoes .mgmtRegisterRead .mgmtRegisterRead (fun _ _ => True)
    (fun s c => bytesOf 8 (match Config.registerCounter c.addr with
      | none => (Map.get (s.die c.die).mgmt (Config.identity c.die c.addr) c.addr).toNat
      | some n => (s.counter c.die n).value.toNat)) (fun s _ t => OnlyPort s t) ∧
  CommandDoes .managementReset .managementReset (fun _ _ => True) (fun _ _ => [])
    (fun s c t => t.inFlight (.dieReset c.die) = true ∧ SameMemory s t ∧ t.groups = s.groups) ∧
  (∀ s chan c rest, AtHead s chan c rest (.counterAssign chan) →
    Happens (.counterAssign chan) s fun t => NextOf s t chan rest ∧
      (let n := (Config.counterArg c.arg).1
       if n < 360 then Replies s t chan c 0 [] ∧ SameMemory s t ∧ t.groups = s.groups ∧
         t.counter c.die n = {
           value := if (s.counter c.die n).source = (Config.counterArg c.arg).2 then (s.counter c.die n).value else 0
           source := (Config.counterArg c.arg).2, reader := c.addr % 65536 }
       else Replies s t chan c 2 [] ∧ OnlyPort s t)) ∧
  CommandDoes .keyInstall .keyInstall
    (fun _ c => (c.payload.length = 36 ∨ c.payload.length = 4) ∧ c.num 2 1 ≤ 1 ∧ c.arg ≤ 1) (fun _ _ => [])
    (fun s c t =>
      let old := Map.get (s.die c.die).keys {} (c.num 0 2)
      let new := Map.get (t.die c.die).keys {} (c.num 0 2)
      let key := if c.payload.length = 36 then some (BitVec.ofNat 256 (c.num 4 32)) else none
      (if c.num 2 1 = 0 then new.slot0 = key ∧ new.slot1 = old.slot1 else new.slot1 = key ∧ new.slot0 = old.slot0) ∧
      new.current = (if c.arg = 1 then decide (c.num 2 1 = 1) else old.current) ∧ SameMemory s t ∧ t.groups = s.groups) ∧
  CommandDoes .attestationQuote .attestationQuote (fun _ c => c.payload.length = 32)
    (fun s c =>
      let b := c.payload ++ sha3 (s.die c.die).log.flatten ++ bytesOf 1 c.die ++ bytesOf 1 (s.die c.die).inc ++ bytesOf 4 (s.die c.die).fwVersion
      b ++ bytesOf 2420 (Config.sign c.die (sha3 b)).toNat) (fun s _ t => OnlyPort s t)

/-- R204 to R208, R214, R217: the commands on queues and their tables. The payloads are the model's choice (log entries 28, 29), and so is
that the context which the command names owns the queue (log entry 84); that an opened queue keeps its access list is log entry 62. -/
def Obligations.ChimneyQueues : Prop :=
  (∀ s chan c rest x esz, AtHead s chan c rest (.enqueue chan) → s.cmdCtx c = some x → sizeCode c.payload.length = some esz → c.addr < 2 ^ 30 →
    Happens (.enqueue chan) s fun t =>
      NextOf s t chan rest ∧ t.responses = s.responses ∧
      (let k := (s.portAt (portKey c.die 0)).stream (c.ctx * 2 * 2 ^ 32 + c.addr)
       let n := Map.get (s.portAt (portKey c.die 0)).seqs 0 k
       Retains t (fun r => r.msg.kind = .post ∧ r.msg.qid = c.addr ∧ r.msg.data = c.payload ∧ r.msg.domain = x.domain ∧ r.msg.key = 2 ^ 63 + n ∧
         r.chim = some (chan, c.seq)) ∧
       Map.get (t.portAt (portKey c.die 0)).seqs 0 k = (n + 1) % 2 ^ 32) ∧ SameMemory s t) ∧
  (∀ o d b1 b2 b3 b4, CommandDoes .dequeue .dequeue
    (fun s c => ownQueue s c ∧ Still s (qidKey c.addr) ∧
      (let q := s.queueAt (qidKey c.addr)
       q.state = 1 ∧ q.kind = 2 ∧ q.h < min q.c q.e ∧ q.slot q.h = some (.filled o d b1 b2 b3 b4)))
    (fun _ _ => d) (fun s c t => (t.queueAt (qidKey c.addr)).h = (s.queueAt (qidKey c.addr)).h + 1 ∧ SameMemory s t)) ∧
  CommandDoes .dequeue .dequeue
    (fun s c => ownQueue s c ∧ Still s (qidKey c.addr) ∧
      (let q := s.queueAt (qidKey c.addr)
       q.state = 1 ∧ q.kind = 2 ∧ min q.c q.e ≤ q.h))
    (fun _ _ => []) (fun s _ t => SameMemory s t) ∧
  CommandDoes .queueTranslationWrite .queueTranslationWrite
    (fun s c => (∃ x, s.cmdCtx c = some x ∧ c.addr < x.tableSize) ∧ c.payload.length = 8 ∧
      (BitVec.ofNat 64 (c.num 0 8)).extractLsb' 33 7 = 0)
    (fun _ _ => [])
    (fun s c t => Map.get (t.ctxAt (ctxKey c.die c.ctx)).trans 0 c.addr = BitVec.ofNat 64 (c.num 0 8) ∧
      (∀ a, a ≠ c.addr → Map.get (t.ctxAt (ctxKey c.die c.ctx)).trans 0 a = Map.get (s.ctxAt (ctxKey c.die c.ctx)).trans 0 a) ∧
      (∀ k x, Map.find t.cores k = some x → k / 24 = c.die → Map.find x.handles (c.ctx * 65536 + c.addr) = none) ∧ SameMemory s t) ∧
  CommandDoes .multicastGroupWrite .multicastGroupWrite
    (fun s c => (∃ x, s.cmdCtx c = some x ∧ c.addr < x.groupCount) ∧ c.payload.length = 264) (fun _ _ => [])
    (fun s c t => (let g := Map.get (t.ctxAt (ctxKey c.die c.ctx)).mcast {} c.addr
        g.mask = BitVec.ofNat 64 (c.num 0 8) ∧ ∀ i, i < 64 → Map.get g.members 0 i = BitVec.ofNat 32 (c.num (8 + 4 * i) 4 % 2 ^ 30)) ∧ SameMemory s t) ∧
  CommandDoes .queueDescriptorWrite .queueDescriptorWrite
    (fun s c => ownQueue s c ∧ c.payload.length = 16 ∧ s.descriptorBad c.die (qidPort c.addr) (qidIndex c.addr) (queueOf c) = false ∧
      (s.queueAt (qidKey c.addr)).state ≠ 1 ∧ (queueOf c).state = 1)
    (fun _ _ => [])
    (fun s c t =>
      let q := t.queueAt (qidKey c.addr)
      q.desc = (queueOf c).desc ∧ q.owner = c.ctx ∧ q.f = 0 ∧ q.h = 0 ∧ q.c = 0 ∧ q.t = 0 ∧ q.e = (queueOf c).win ∧
      q.acl = (s.queueAt (qidKey c.addr)).acl ∧ (∀ k, k ≠ qidKey c.addr → t.queueAt k = s.queueAt k) ∧ SameMemory s t) ∧
  CommandDoes .queueDescriptorWrite .queueDescriptorWrite
    (fun s c => ownQueue s c ∧ c.payload.length = 16 ∧ s.descriptorBad c.die (qidPort c.addr) (qidIndex c.addr) (queueOf c) = false ∧
      (queueOf c).state = 0)
    (fun _ _ => [])
    (fun s c t =>
      let q := t.queueAt (qidKey c.addr)
      q.desc = (queueOf c).desc ∧ q.state = 0 ∧ ((s.queueAt (qidKey c.addr)).state = 1 → q.fifo = [] ∧
        ((∀ x ∈ (s.queueAt (qidKey c.addr)).slots, ∀ o n, x.2 ≠ .claimed o n false) → q.sleepers = [])) ∧ SameMemory s t) ∧
  CommandRefused .queueDescriptorWrite .queueDescriptorWrite
    (fun s c => ownQueue s c ∧ s.descriptorBad c.die (qidPort c.addr) (qidIndex c.addr) (queueOf c) = true) 2 ∧
  CommandDoes .accessListWrite .accessListWrite
    (fun s c => ownQueue s c ∧ c.arg ≤ 3 ∧ c.payload.length ≤ 32 ∧ c.payload.length % 4 = 0) (fun _ _ => [])
    (fun s c t => (t.queueAt (qidKey c.addr)).acl = (upto 0 (c.payload.length / 4)).map (fun i => BitVec.ofNat 32 (c.num (4 * i) 4)) ∧
      (∀ k, k ≠ qidKey c.addr → t.queueAt k = s.queueAt k) ∧ SameMemory s t ∧ t.groups = s.groups) ∧
  CommandDoes .queueMove .queueMove
    (fun s c => ownQueue s c ∧ c.payload.length = 4 ∧ c.num 0 4 < 2 ^ 30 ∧ qidModule (c.num 0 4) = s.module ∧ c.addr ≠ c.num 0 4 ∧
      (s.portAt (qidKey (c.num 0 4) / 4096)).held = [] ∧
      (let old := s.queueAt (qidKey c.addr)
       old.state = 1 ∧ (s.queueAt (qidKey (c.num 0 4))).state ≠ 1 ∧
       s.descriptorBad (qidDie (c.num 0 4)) (qidPort (c.num 0 4)) (qidIndex (c.num 0 4)) old = false ∧
       (qidDie (c.num 0 4) ≠ c.die → old.sleepers = [] ∧ ∀ x ∈ old.slots, ∀ o n b, x.2 ≠ .claimed o n b)))
    (fun _ _ => [])
    (fun s c t =>
      (t.queueAt (qidKey c.addr)).state = 2 ∧ (t.queueAt (qidKey c.addr)).fifo = [] ∧
      (t.queueAt (qidKey (c.num 0 4))).desc = (s.queueAt (qidKey c.addr)).desc ∧
      (t.queueAt (qidKey (c.num 0 4))).t = (s.queueAt (qidKey c.addr)).t ∧ t.scratch = s.scratch ∧ t.team = s.team)

/-- R218, R305, R307, R309, R313, R314, R320: the commands on contexts, translations and halted groups. Status 1 for a reserved bit of a
descriptor is the model's reading (log entry 71). The payload of the halt commands is the model's choice (log entry 29); what a restore
reads is log entry 30. -/
def Obligations.ChimneyContexts : Prop :=
  CommandDoes .contextCreate .contextCreate
    (fun s c => c.payload.length = 64 ∧ descReserved (ctxOf c).desc = false ∧ s.descInvalid c (ctxOf c) = false) (fun _ _ => [])
    (fun s c t => Map.find t.contexts (ctxKey c.die c.ctx) = some (ctxOf c) ∧
      (∀ k, k ≠ ctxKey c.die c.ctx → Map.find t.contexts k = Map.find s.contexts k) ∧
      (∀ m, (ctxOf c).scratchBase ≤ m → m < (ctxOf c).scratchBase + (ctxOf c).scratchSize →
        Map.get (t.die c.die).parts 0 m = (ctxOf c).domain + 1 ∧
        (∀ a, a / 2 ^ 20 = m → a < 2 ^ 27 → Map.get t.scratch 0 (scratchKey c.die a) =
          (if Map.get (s.die c.die).parts 0 m ≠ 0 ∧ Map.get (s.die c.die).parts 0 m ≠ (ctxOf c).domain + 1 then 0
           else Map.get s.scratch 0 (scratchKey c.die a)))) ∧ t.team = s.team ∧ t.tiles = s.tiles) ∧
  CommandRefused .contextCreate .contextCreate (fun _ c => c.payload.length = 64 ∧ descReserved (ctxOf c).desc = true) 1 ∧
  CommandRefused .contextCreate .contextCreate
    (fun s c => c.payload.length = 64 ∧ descReserved (ctxOf c).desc = false ∧ s.descInvalid c (ctxOf c) = true) 2 ∧
  CommandDoes .contextDestroy .contextDestroy (fun s c => c.arg = 1 ∧ (s.cmdCtx c).isSome = true ∧ NoneHeld s ∧
      (s.ctxAt (ctxKey c.die c.ctx)).asker = none ∧ ∀ x ∈ s.retained, x.2.msg.ctx = c.ctx → x.2.chim = none) (fun _ _ => [])
    (fun s c t => Map.find t.contexts (ctxKey c.die c.ctx) = none ∧
      (∀ k g, Map.find t.groups k = some g → ¬ (g.die = c.die ∧ g.ctx = c.ctx)) ∧
      (∀ k x, Map.find t.grids k = some x → ¬ (x.die = c.die ∧ x.ctx = c.ctx)) ∧ SameMemory s t) ∧
  (∀ s chan c rest k q, AtHead s chan c rest (.contextDestroy chan) → c.arg = 1 → (s.cmdCtx c).isSome = true →
    (s.ctxAt (ctxKey c.die c.ctx)).asker = some (k, q) →
    Happens (.contextDestroy chan) s fun t =>
      Map.find t.contexts (ctxKey c.die c.ctx) = none ∧ s.responses.length + 2 ≤ t.responses.length ∧ ∃ r ∈ t.responses, r.chan = k) ∧
  CommandDoes .tlbInvalidate .tlbInvalidate (fun s c => (s.cmdCtx c).isSome = true ∧ c.payload.length = 16) (fun _ _ => [])
    (fun s c t =>
      let hit := fun (e : TlbEntry) => e.ctx = c.ctx ∧ e.base < c.num 0 8 + c.num 8 8 ∧ c.num 0 8 < e.base + e.size
      (∀ k x, Map.find t.cores k = some x → k / 24 = c.die → ∀ e ∈ x.tlb, ¬ hit e) ∧ (∀ e ∈ (t.die c.die).tlb, ¬ hit e) ∧
      t.scratch = s.scratch ∧ t.team = s.team ∧ t.tiles = s.tiles ∧ t.groups = s.groups) ∧
  (∀ s chan c rest, AtHead s chan c rest (.preempt chan) → (s.cmdCtx c).isSome = true → s.ctxHeld c.die c.ctx = false →
    Happens (.preempt chan) s fun t =>
      NextOf s t chan rest ∧ t.responses = s.responses ∧
      (t.ctxAt (ctxKey c.die c.ctx)).stage = .halting (s.die c.die).clock ∧ (t.ctxAt (ctxKey c.die c.ctx)).asker = some (chan, c.seq) ∧
      SameMemory s t ∧ t.groups = s.groups) ∧
  CommandDoes .preempt .preempt (fun s c => (s.cmdCtx c).isSome = true ∧ s.ctxHeld c.die c.ctx = true) (fun _ _ => []) (fun s _ t => OnlyPort s t) ∧
  CommandDoes .restore .restore
    (fun s c => (∃ x, s.cmdCtx c = some x ∧ x.stage = .saved ∧ x.fatal = false) ∧ s.restorable c.die c.ctx = true ∧
      (∀ k g, Map.find s.groups k = some g → g.pend = [])) (fun _ _ => [])
    (fun s c t => (t.ctxAt (ctxKey c.die c.ctx)).stage = .running ∧
      (∀ k g, Map.find s.groups k = some g → ofContext g c.die c.ctx → (t.groupAt k).saved = false) ∧ t.scratch = s.scratch ∧ t.hbm = s.hbm) ∧
  CommandRefused .restore .restore (fun s c => (s.ctxAt (ctxKey c.die c.ctx)).stage ≠ .saved) 2 ∧
  CommandDoes .haltRetry .haltRetry (haltOk (fun h => decide (h ≠ .killOnly))) (fun _ _ => []) noneHalted ∧
  CommandDoes .haltSkip .haltSkip (haltOk (fun h => decide (h = .plain))) (fun _ _ => []) noneHalted ∧
  CommandDoes .haltResumeCopy .haltResumeCopy (haltOk (fun h => decide (h = .plain))) (fun _ _ => [])
    (fun s c t => noneHalted s c t ∧
      (∀ k g n x, (k, g) ∈ haltOk.haltsOf s c → Map.find s.cmds n = some x → x.g = k → x.stage = .suspended →
        ∃ y, Map.find t.cmds n = some y ∧ y.stage = .queued)) ∧
  CommandDoes .haltKill .haltKill (haltOk (fun _ => true)) (fun _ _ => [])
    (fun s c t => noneHalted s c t ∧ (∀ k g l, (k, g) ∈ haltOk.haltsOf s c → l < 32 → ((t.groupAt k).thread l).live = false))

/-- R317, R318, R321, R325: commands that are not whole or out of sequence, reserved, too long or to a die that does not take them; and the
port's return to sequence number 0. Status 2 for a command that is too long is the model's choice (log entry 70). -/
def Obligations.ChimneyDiscipline : Prop :=
  (∀ s chan c rest, (s.chanAt chan).inbox = c :: rest → (c.whole = false ∨ c.seq ≠ (s.chanAt chan).expect) →
    Happens (.chimneyCommandDiscard chan) s fun t =>
      (t.chanAt chan).inbox = rest ∧ (t.chanAt chan).expect = (s.chanAt chan).expect ∧ Replies s t chan c 3 [] ∧ OnlyPort s t) ∧
  (∀ s chan c rest, (s.chanAt chan).inbox = c :: rest → c.whole = true → c.seq = (s.chanAt chan).expect → c.reserved = true →
    Happens (.chimneyCommandDiscard chan) s fun t =>
      NextOf s t chan rest ∧ Replies s t chan c (if s.dieTakes c = true then 1 else 2) [] ∧ OnlyPort s t) ∧
  (∀ e ∈ chimRows, ∀ s chan c rest, (s.chanAt chan).inbox = c :: rest → s.chimEvent chan c = e.2 chan →
    (s.dieTakes c = false ∨ 65536 < c.len) →
    Happens (e.1 chan) s fun t => NextOf s t chan rest ∧ Replies s t chan c 2 [] ∧ OnlyPort s t) ∧
  (∀ s, Happens .chimneyPortLinkUp s fun t =>
    (∀ k, (t.chanAt k).expect = 0 ∧ (t.chanAt k).inbox = []) ∧ OnlyPort s t)

namespace Sys2Proof.Machine

/-! ### Faults that an instruction takes -/

/-- n bits of a fault record from bit lo up. -/
def recField (d : List Byte) (lo n : Nat) : Nat := ofBytes d / 2 ^ lo % 2 ^ n

/-- The record names the class, the kind, the place and the lanes of a fault of the path c of the group g (R304). -/
structure Records (d : List Byte) (f : FaultInfo) (c : Issue) (g : Group) (seq : Nat) : Prop where
  size : d.length = 64
  cls : recField d 208 8 = f.cls.code
  kind : recField d 198 2 = f.cls.kind
  pc : recField d 272 48 = (c.head g).pc % 2 ^ 48
  clause : recField d 224 48 = (c.head g).clause % 2 ^ 48
  cpos : recField d 220 4 = (c.head g).cpos % 16
  addr : recField d 400 48 = f.addr % 2 ^ 48
  lanes : recField d 352 32 = (if f.lanes = 0 then c.lanes else f.lanes).toNat
  group : recField d 176 10 = g.gidx % 1024
  core : recField d 155 5 = g.core % 32
  die : recField d 152 3 = g.die % 8
  ctx : recField d 136 16 = g.ctx % 65536
  seq : recField d 32 32 = seq % 2 ^ 32

/-- What policy 01 halts with a group: its team; in a travel launch, which has no teams, the launch's groups on its core (R306). -/
def inTeam (s : State) (g h : Group) : Prop :=
  h.grid = g.grid ∧ h.die = g.die ∧ h.core = g.core ∧ (h.team = g.team ∨ s.inTravel g = true)

/-- A precise fault is taken: the group halts at the instruction with every register as it was, its grid is marked, what the policy
names halts too, and a record of it is on its way to the context's fault queue (R302 to R306). -/
structure TakesFault (s t : State) (c : Issue) (g : Group) (f : FaultInfo) (x : Context) : Prop where
  halted : ∃ g', Map.find t.groups c.g = some g' ∧ g'.set = .halted ∧
    (∀ l, g'.thread l = { g.thread l with len := (g'.thread l).len }) ∧ g'.regs = g.regs ∧ g'.fflags = g.fflags
  marked : (Map.find s.grids g.grid).isSome = true → (t.gridAt g.grid).faulted = true
  team : (s.gridAt g.grid).policy = 1 → ∀ k h, Map.find s.groups k = some h → inTeam s g h → h.set ≠ .ended → (t.groupAt k).set = .halted
  rest : (s.gridAt g.grid).policy = 1 → ∀ k, k ≠ c.g → (∀ h, (k, h) ∈ s.groups → ¬ inTeam s g h) → t.groupAt k = s.groupAt k
  kernel : (s.gridAt g.grid).policy = 2 → ∀ k h, Map.find s.groups k = some h → h.grid = g.grid → h.set ≠ .ended → (t.groupAt k).set = .halted
  alone : (s.gridAt g.grid).policy = 0 → ∀ k, k ≠ c.g → t.groupAt k = s.groupAt k
  counted : (t.ctxAt (ctxKey g.die g.ctx)).seq = x.seq + 1
  posted : Retains t (fun r => r.msg.hw = true ∧ r.msg.qid = qidOf s.module g.die 0 x.faultIndex ∧ Records r.msg.data f c g x.seq)
  memory : SameMemory s t

/-- A trap completes: where its group's second path has still to issue in the clock, the trap waits for the end of the clock's issue; else its
group is halted after it and stands in no set of its quarter, its grid is not marked as faulted, and the record that names the
instruction and holds the immediate is on its way to the context's fault queue (R302 to R305, R315). -/
def TrapGives (i : Instr) (cls : FaultClass) (imm : Nat) : Prop :=
  (∀ s c g, Stands s c g → Clear s c g {} → s.issue.any (fun x => decide (x.g = c.g)) = true →
    Completes i s c fun t g' =>
      (∃ p rest, g'.pend = p :: rest ∧ p.info.cls = cls ∧ p.info.imm = imm ∧ p.ins = insInfo c g ∧ p.due = true) ∧ g'.set = g.set ∧ MovedOn c g g' ∧
      (∀ n l, g'.regs.read n l = g.regs.read n l) ∧ t.inFlight (.faultDeliveryTimeout c.g) = true ∧ SameMemory s t) ∧
  ∀ s c g x, Stands s c g → Clear s c g {} → g.set = .active → s.issue.any (fun x => decide (x.g = c.g)) = false →
    Map.find s.contexts (ctxKey g.die g.ctx) = some x →
    Completes i s c fun t g' =>
      g'.set = .halted ∧ MovedOn c g g' ∧ (∀ n l, g'.regs.read n l = g.regs.read n l) ∧ g'.fflags = g.fflags ∧ SameMemory s t ∧
      c.g ∉ (t.quarterAt (coreKey g.die g.core * 4 + g.quarter)).active ∧
      (t.gridAt g.grid).faulted = (s.gridAt g.grid).faulted ∧ (t.ctxAt (ctxKey g.die g.ctx)).seq = x.seq + 1 ∧
      Retains t (fun r => r.msg.hw = true ∧ r.msg.qid = qidOf s.module g.die 0 x.faultIndex ∧
        Records r.msg.data { cls := cls, imm := imm } c g x.seq ∧ recField r.msg.data 0 32 = imm)

end Sys2Proof.Machine

/-- R135, R136, R138, R302 to R306: the first check that fails is taken as a precise fault at the instruction, which has no other effect; an
instruction that reads a poisoned element has no effect either, and its group holds a fatal machine check for delivery. Where the path of a
machine check goes is log entry 80; the order of checks is log entry 35. -/
def Obligations.FaultsTaken : Prop :=
  (∀ s c g f x b, Map.find s.groups c.g = some g → g.set ≠ .halted → g.set ≠ .ended → Map.find s.contexts (ctxKey g.die g.ctx) = some x →
    f.cls.kind = 0 → TakesFault s (s.takePrecise c g f b) c g f x) ∧
  (∀ s c g o early mid late st eff jump f, checksOf s c g o early mid late jump = some f →
    issueIns s c g o early mid late st eff jump = s.takePrecise c g f) ∧
  (∀ (p : BitVec 3) (b a d : BitVec 7) s c g f x, Stands s c g → g.set = .active → Map.find s.contexts (ctxKey g.die g.ctx) = some x →
    codeFault { reads := [a.toNat, b.toNat], first := relOf a.toNat, second := relOf b.toNat, preds := [p.toNat], dests := [d.toNat] } = some f →
    ∃ t, exec (.iadd p b a d) s = .next t ∧ f.cls = .reservedOperandCode ∧ TakesFault s t c g f x) ∧
  (∀ s c g o r, Stands s c g → g.set = .active → s.ctxHeld g.die g.ctx = false → fallFault s c g = none → poisonRead o c g = some r →
    ∃ g', Map.find (s.machineCheck c g r).groups c.g = some g' ∧ MovedOn c g g' ∧
      (∃ p, g'.pend = g.pend ++ [p] ∧ p.info.cls = .datapath ∧ p.info.aux = r) ∧ (∀ n l, n < 104 → g'.regs.read n l = g.regs.read n l) ∧
      (s.machineCheck c g r).inFlight (.faultDeliveryTimeout c.g) = true ∧ SameMemory s (s.machineCheck c g r))

/-- R136, R302 to R306, R315: TRAP and BKPT complete, halt their group after the instruction and post their record; an illegal word halts
its group at the word, a copy word of a group in another role with the role violation (R71); a pending fault, or a trap that has waited for
its clock's second path, is delivered when its time is over; and a struck cell that no instruction has read stops its owner or its die. That
a fatal fault lets a context run again only after its groups are killed is log entry 65. -/
def Obligations.TrapsAndDelivery : Prop :=
  (∀ im : BitVec 20, TrapGives (.trap im) .trap im.toNat) ∧ TrapGives .bkpt .bkpt 0 ∧
  (∀ (w : BitVec 32) s c g x, Stands s c g → g.set = .active → Map.find s.contexts (ctxKey g.die g.ctx) = some x →
    (w.getLsbD 0 = true → w.extractLsb' 1 7 ≠ 0x4B#7 ∧ (w.extractLsb' 1 7 < 0x68#7 ∨ 0x6B#7 < w.extractLsb' 1 7)) →
    ∃ t, exec (.illegalInstruction w) s = .next t ∧ TakesFault s t c g { cls := .illegalInstruction } x) ∧
  (∀ (w : BitVec 32) s c g x f, Stands s c g → g.set = .active → Map.find s.contexts (ctxKey g.die g.ctx) = some x →
    w.getLsbD 0 = true → 0x68#7 ≤ w.extractLsb' 1 7 → w.extractLsb' 1 7 ≤ 0x6B#7 → roleFault g .copy = some f →
    ∃ t, exec (.illegalInstruction w) s = .next t ∧ f.cls = .roleViolation ∧ TakesFault s t c g f x) ∧
  (∀ s k g p, Map.find s.groups k = some g → g.pend = [p] → p.info.cls.kind ≠ 0 → (p.due = true ∨ p.since + 1024 ≤ (s.die g.die).clock) →
    g.set ≠ .ended → s.ctxHeld g.die g.ctx = false →
    Happens (.faultDeliveryTimeout k) s fun t =>
      (t.groupAt k).set = .halted ∧ (p.info.cls.kind ≠ 2 → Halted t k g) ∧ (t.groupAt k).pend = [] ∧ SameMemory s t) ∧
  (∀ s die sub key ctx core qid x, s.bad.contains (spaceOfSub sub, key) = true → s.cellOwner die (spaceOfSub sub) key = some (ctx, core, qid) →
    Map.find s.contexts (ctxKey die ctx) = some x →
    Happens (.scrubEccError die sub key) s fun t =>
      (t.ctxAt (ctxKey die ctx)).fatal = true ∧ (t.ctxAt (ctxKey die ctx)).stage ≠ .running ∧
      (∀ k g, Map.find s.groups k = some g → ofContext g die ctx → (t.groupAt k).set = .halted) ∧ SameMemory s t) ∧
  (∀ s die sub key, s.bad.contains (spaceOfSub sub, key) = true → s.cellOwner die (spaceOfSub sub) key = none →
    Happens (.scrubEccError die sub key) s fun t => t.inFlight (.fatalDieError die 2) = true ∧ SameMemory s t ∧ t.groups = s.groups)

/-- R15: an instruction is made of 16-bit parcels, stored little-endian. Bit 0 of its first parcel decides its length, one parcel or two;
CPY, CPYO and HBX are followed by four 32-bit shape words, and no other instruction has trailing words. What a core fetches is as many bytes
as the decoder takes, the first parcel lowest. -/
def Obligations.InstructionLengths : Prop :=
  (∀ w, lengthOf w = if w % 2 = 0 then 2 else if w / 2 % 128 = 0x68 ∨ w / 2 % 128 = 0x69 ∨ w / 2 % 128 = 0x6A then 2 + 2 + 4 * 4 else 4) ∧
  (∀ w i n, decode w = .ok i n → n = lengthOf w) ∧
  (∀ (c : Core) ctx va x, c.codeLine ctx va = some x →
    c.parcel ctx va = some ((x.data.getD (va - x.addr) 0).toNat + 256 * (x.data.getD (va - x.addr + 1) 0).toNat)) ∧
  (∀ (c : Core) ctx va n w, va < 2 ^ 48 → c.fetch ctx va = some (n, w) → n = lengthOf w ∧ w < 2 ^ (8 * n) ∧
    ∀ i, i < n / 2 → c.parcel ctx ((va + 2 * i) % 2 ^ 48) = some (w / 65536 ^ i % 65536))

/-- R25, R26, R38, R39: words written out from the encodings decode to what they stand for, and words that are reserved. -/
def Obligations.DecodedWords : Prop :=
  (decode 0b0001000001111000 = .ok (.fmulShort 0 4 3) 2 ∧
   decode 0b00000001010000011000001100110001 = .ok (.fadd 0 5 3 3) 4 ∧
   decode 0b01011000011101000000100000110101 = .ok (.fmul 2 97 104 8) 4 ∧
   decode 0b11111111111111101010001111101101 = .ok (.br 0b1111111111111110101 0 3) 4 ∧
   decode 0b00000000000000000010100111110001 = .ok (.call 20) 4 ∧
   decode 0b0000000000011110 = .ok .nop 2) ∧
  (∀ w, w < 65536 → w % 2 = 0 → w / 2 % 16 = 15 → w ≠ 0x1E → ∃ n, decode w = .illegal n 2) ∧
  (∀ w m, w % 2 = 1 → w / 2 % 128 = m →
    m ∈ [0x12, 0x13, 0x14, 0x15, 0x16, 0x17, 0x2E, 0x2F, 0x3A, 0x3B, 0x4F, 0x57, 0x67, 0x6F, 0x75, 0x7C, 0x7D, 0x7F] →
    ∃ n, decode w = .illegal n 4)

/-- Every word of an instruction decodes to that instruction with its length, and every word that decodes is the one word of its
instruction: no bit of an encoding is dropped, and no reserved bit is let through (R15, R25, R38, R39). -/
def Obligations.DecodeInvertsEncode : Prop :=
  (∀ i w, encode i = some w → decode w = .ok i (lengthOf w) ∧ w < 2 ^ (8 * lengthOf w)) ∧
  (∀ w i n, w < 2 ^ (8 * lengthOf w) → decode w = .ok i n → n = lengthOf w ∧ encode i = some w)

/-- R246, R247: a step in which a chosen path stands at an instruction that its core holds is the meaning of what its word decodes to, and
after it the issue stage is empty; the path is the standing lanes of the choice, and the word is what the core's code line holds at the PC.
A reserved word is the illegal instruction; an event that is due is its own meaning. That a step is the turn of one path, one event or one
tick, and so the clauses on events and ticks, is the model's choice (log entry 4). -/
def Obligations.StepRunsDecoded : Prop :=
  (∀ (s : Sys2Proof.Machine.State) c rest c' i n, s.nextMove = .path c rest → s.turn c = .run c' → decode c'.word = .ok i n →
    step s = Out.after (exec i (s.stand c' rest)) State.afterRun) ∧
  (∀ (s : Sys2Proof.Machine.State) c rest c' m n, s.nextMove = .path c rest → s.turn c = .run c' → decode c'.word = .illegal m n →
    step s = Out.after (exec (.illegalInstruction (BitVec.ofNat 32 c'.word)) (s.stand c' rest)) State.afterRun) ∧
  (∀ (s : Sys2Proof.Machine.State) c c', s.turn c = .run c' → ∃ g, Map.find s.groups c.g = some g ∧ c'.g = c.g ∧ c'.lanes = (c.standing g).lanes ∧
    (s.coreAt (coreKey g.die g.core)).fetch g.ctx (c'.head g).pc = some (c'.len, c'.word)) ∧
  (∀ (s : Sys2Proof.Machine.State) c rest c', s.nextMove = .path c rest → s.turn c = .enter c' →
    step s = Out.after (exec .clauseBegin (s.stand c' rest)) (fun t => t.afterEntry c')) ∧
  (∀ (s : Sys2Proof.Machine.State) e rest, s.nextMove = .event e rest → step s = exec e.toInstr { s with pending := rest }) ∧
  (∀ s : Sys2Proof.Machine.State, s.nextMove = .tick → step s = .next s.tick)

/-- Every step of the machine goes on, from every state; no instruction is refused, and one faults only where no path stands at the issue
stage, which no step brings about (R5, R302: what goes wrong in a program is delivered inside the machine). That a step is a path's turn, an
event or a tick is the model's choice (log entry 4), and so is what it does with a state that no run reaches (log entry 79). -/
def Obligations.EveryStepGoes : Prop :=
  (∀ s : Sys2Proof.Machine.State, s.Goes) ∧ (∀ i s r, exec i s ≠ .refused r) ∧
  (∀ i s f, exec i s = .fault f → ∀ c, s.cur = some c → Map.find s.groups c.g = none)

/-- R304, R318, R321, R338: the module after reset: no context, no group, every queue closed but the control nodes' fault queues, which are
open and empty with 1,024 slots of 64 bytes at 0x670000. Log entries 1, 2: every byte of memory reads zero, in canonical form. -/
def Obligations.ResetState : Prop :=
  Sys2Proof.Machine.State.reset.contexts = [] ∧ Sys2Proof.Machine.State.reset.groups = [] ∧ Sys2Proof.Machine.State.reset.cur = none ∧
  (∀ d, (Sys2Proof.Machine.State.reset.die d).mode = .running ∧ (Sys2Proof.Machine.State.reset.die d).clock = 0 ∧
    (Sys2Proof.Machine.State.reset.die d).droop = false) ∧
  (∀ q, q % 16384 ≠ 16 → (Sys2Proof.Machine.State.reset.queueAt q).state = 0) ∧
  (∀ d, let q := Sys2Proof.Machine.State.reset.queueAt (d * 16384 + 16)
    q.state = 1 ∧ q.kind = 2 ∧ eszBytes q.esz = 64 ∧ q.win = 1024 ∧ q.winbase = 0x670000 ∧ q.spill = 0 ∧ q.h = 0 ∧ q.t = 0 ∧ q.c = 0 ∧
    q.f = 0 ∧ q.e = 1024) ∧
  (∀ k, (Sys2Proof.Machine.State.reset.chanAt k).expect = 0 ∧ (Sys2Proof.Machine.State.reset.chanAt k).inbox = []) ∧
  (∀ k, Map.get Sys2Proof.Machine.State.reset.hbm 0 k = 0 ∧ Map.get Sys2Proof.Machine.State.reset.scratch 0 k = 0 ∧
    Map.get Sys2Proof.Machine.State.reset.team 0 k = 0 ∧ Map.get Sys2Proof.Machine.State.reset.tiles 0 k = 0) ∧
  Sys2Proof.Machine.State.reset.memoriesWf = true

/-- From every state whose four memories are in canonical form, a step leads to one whose memories are. The canonical form is the model's
own (log entry 1). -/
def Obligations.StepKeepsMemories : Prop :=
  ∀ s t : Sys2Proof.Machine.State, s.memoriesWf = true → step s = .next t → t.memoriesWf = true
end

