-- ==== Sys2Proof/Laws/Map.lean ====
section
/-!
SUPPORT. The laws of sparse tables: what a lookup gives after each operation, and that each operation on a memory keeps its
canonical form.
-/
namespace Sys2Proof

variable {α : Type}

/-! ### Lookups -/

@[simp] theorem Map.find_nil (k : Nat) : Map.find ([] : Map α) k = none := rfl

theorem Map.find_cons (j : Nat) (a : α) (m : Map α) (k : Nat) :
    Map.find ((j, a) :: m) k = if j = k then some a else Map.find m k := rfl

@[simp] theorem Map.find_put_same (m : Map α) (k : Nat) (a : α) : Map.find (Map.put m k a) k = some a := by
  induction m with
  | nil => simp [Map.put, Map.find_cons]
  | cons e m ih =>
    obtain ⟨j, b⟩ := e
    unfold Map.put
    split
    · simp [Map.find_cons]
    · split
      · simp [Map.find_cons]
      · rename_i h; simp [Map.find_cons, h, ih]

theorem Map.find_put_other (m : Map α) (k : Nat) (a : α) {j : Nat} (h : j ≠ k) : Map.find (Map.put m k a) j = Map.find m j := by
  induction m with
  | nil => simp [Map.put, Map.find_cons, Ne.symm h]
  | cons e m ih =>
    obtain ⟨i, b⟩ := e
    unfold Map.put
    split
    · simp [Map.find_cons, Ne.symm h]
    · split
      · rename_i hi; subst hi; simp [Map.find_cons, Ne.symm h]
      · simp [Map.find_cons, ih]

theorem Map.find_put (m : Map α) (k : Nat) (a : α) (j : Nat) :
    Map.find (Map.put m k a) j = if j = k then some a else Map.find m j := by
  split
  · rename_i h; subst h; simp
  · rename_i h; exact Map.find_put_other m k a h

/-- A change of one entry: that entry is changed where it is listed, every other stands. -/
theorem Map.find_modify (m : Map α) (k : Nat) (f : α → α) (j : Nat) :
    Map.find (Map.modify m k f) j = if j = k then (Map.find m j).map f else Map.find m j := by
  induction m with
  | nil => simp [Map.modify]
  | cons e m ih =>
    obtain ⟨i, b⟩ := e
    unfold Map.modify
    by_cases hik : i = k
    · subst hik
      by_cases hj : i = j
      · subst hj; simp [Map.find_cons]
      · simp [Map.find_cons, hj, Ne.symm hj]
    · by_cases hj : i = j
      · subst hj; simp [Map.find_cons, hik]
      · simp [Map.find_cons, hik, hj, ih]

@[simp] theorem Map.find_modify_same (m : Map α) (k : Nat) (f : α → α) :
    Map.find (Map.modify m k f) k = (Map.find m k).map f := by simp [Map.find_modify]

theorem Map.find_modify_other (m : Map α) (k : Nat) (f : α → α) {j : Nat} (h : j ≠ k) :
    Map.find (Map.modify m k f) j = Map.find m j := by simp [Map.find_modify, h]

theorem Map.get_of_find {m : Map α} {k : Nat} {a : α} (d : α) (h : Map.find m k = some a) : Map.get m d k = a := by
  simp [Map.get, h]

@[simp] theorem Map.get_put_same (m : Map α) (d : α) (k : Nat) (a : α) : Map.get (Map.put m k a) d k = a := by
  simp [Map.get]

theorem Map.get_put_other (m : Map α) (d : α) (k : Nat) (a : α) {j : Nat} (h : j ≠ k) :
    Map.get (Map.put m k a) d j = Map.get m d j := by simp [Map.get, Map.find_put_other m k a h]

/-! ### Rising keys -/

theorem Map.sortedFrom_mono {lo hi : Nat} {m : Map α} (h : lo ≤ hi) (w : Map.sortedFrom hi m = true) : Map.sortedFrom lo m = true := by
  cases m with
  | nil => rfl
  | cons e m =>
    obtain ⟨j, a⟩ := e
    simp only [Map.sortedFrom, Bool.and_eq_true, decide_eq_true_eq] at *
    exact ⟨by omega, w.2⟩

theorem Map.find_below {lo : Nat} {m : Map α} (w : Map.sortedFrom lo m = true) {k : Nat} (h : k < lo) : Map.find m k = none := by
  induction m generalizing lo with
  | nil => rfl
  | cons e m ih =>
    obtain ⟨j, a⟩ := e
    simp [Map.sortedFrom] at w
    have hj : j ≠ k := by omega
    simp [Map.find_cons, hj]
    exact ih w.2 (by omega)

theorem Map.sortedFrom_put {lo : Nat} {m : Map α} {k : Nat} (a : α) (hk : lo ≤ k) (w : Map.sortedFrom lo m = true) :
    Map.sortedFrom lo (Map.put m k a) = true := by
  induction m generalizing lo with
  | nil => simp [Map.put, Map.sortedFrom, hk]
  | cons e m ih =>
    obtain ⟨j, b⟩ := e
    simp [Map.sortedFrom] at w
    unfold Map.put
    split
    · rename_i h; simp [Map.sortedFrom, hk, w.2]; omega
    · split
      · rename_i h1 h2; subst h2; simp [Map.sortedFrom, w]
      · rename_i h1 h2
        simp [Map.sortedFrom, w.1]
        exact ih (by omega) w.2

theorem Map.sortedFrom_erase {lo : Nat} {m : Map α} (k : Nat) (w : Map.sortedFrom lo m = true) :
    Map.sortedFrom lo (Map.erase m k) = true := by
  induction m generalizing lo with
  | nil => rfl
  | cons e m ih =>
    obtain ⟨j, b⟩ := e
    simp [Map.sortedFrom] at w
    unfold Map.erase
    split
    · exact ih (Map.sortedFrom_mono (by omega) w.2)
    · simp [Map.sortedFrom, w.1, ih w.2]

theorem Map.sortedFrom_filter {lo : Nat} {m : Map α} (p : Nat × α → Bool) (w : Map.sortedFrom lo m = true) :
    Map.sortedFrom lo (m.filter p) = true := by
  induction m generalizing lo with
  | nil => rfl
  | cons e m ih =>
    obtain ⟨j, b⟩ := e
    simp [Map.sortedFrom] at w
    rw [List.filter_cons]
    split
    · simp [Map.sortedFrom, w.1, ih w.2]
    · exact ih (Map.sortedFrom_mono (by omega) w.2)

theorem Map.mem_put {m : Map α} {k : Nat} {a : α} {e : Nat × α} (h : e ∈ Map.put m k a) : e = (k, a) ∨ e ∈ m := by
  induction m with
  | nil => simp [Map.put] at h; exact .inl h
  | cons x m ih =>
    obtain ⟨j, b⟩ := x
    unfold Map.put at h
    split at h
    · simpa using h
    · split at h
      · simp at h; rcases h with h | h
        · exact .inl h
        · exact .inr (by simp [h])
      · simp at h; rcases h with h | h
        · exact .inr (by simp [h])
        · rcases ih h with h | h
          · exact .inl h
          · exact .inr (by simp [h])

theorem Map.mem_erase {m : Map α} {k : Nat} {e : Nat × α} (h : e ∈ Map.erase m k) : e ∈ m := by
  induction m with
  | nil => simp [Map.erase] at h
  | cons x m ih =>
    obtain ⟨j, b⟩ := x
    unfold Map.erase at h
    split at h
    · simp [ih h]
    · simp at h; rcases h with h | h
      · simp [h]
      · simp [ih h]

theorem Map.find_erase_other (m : Map α) (k : Nat) {j : Nat} (h : j ≠ k) : Map.find (Map.erase m k) j = Map.find m j := by
  induction m with
  | nil => rfl
  | cons e m ih =>
    obtain ⟨i, b⟩ := e
    unfold Map.erase
    split
    · rename_i hi; subst hi; simp [Map.find_cons, Ne.symm h, ih]
    · simp [Map.find_cons, ih]

@[simp] theorem Map.find_erase_same (m : Map α) (k : Nat) : Map.find (Map.erase m k) k = none := by
  induction m with
  | nil => rfl
  | cons e m ih =>
    obtain ⟨j, b⟩ := e
    unfold Map.erase
    split
    · exact ih
    · rename_i hj; simp [Map.find_cons, hj, ih]

/-- Two changes of one entry are one change. -/
theorem Map.modify_modify (m : Map α) (k : Nat) (f g : α → α) : Map.modify (Map.modify m k f) k g = Map.modify m k (fun a => g (f a)) := by
  induction m with
  | nil => rfl
  | cons e m ih =>
    obtain ⟨j, b⟩ := e
    by_cases h : j = k
    · simp [Map.modify, h]
    · simp [Map.modify, h, ih]

/-! ### The canonical form -/

variable [DecidableEq α]

theorem Map.wf_iff (d : α) (m : Map α) : Map.wf d m = true ↔ Map.sortedFrom 0 m = true ∧ ∀ e ∈ m, e.2 ≠ d := by
  simp [Map.wf]

@[simp] theorem Map.wf_nil (d : α) : Map.wf d ([] : Map α) = true := rfl

/-- A write keeps the canonical form. -/
theorem Map.wf_set {d : α} {m : Map α} (k : Nat) (a : α) (w : Map.wf d m = true) : Map.wf d (Map.set m d k a) = true := by
  rw [Map.wf_iff] at *
  unfold Map.set
  split
  · exact ⟨Map.sortedFrom_erase k w.1, fun e h => w.2 e (Map.mem_erase h)⟩
  · rename_i hne
    refine ⟨Map.sortedFrom_put a (Nat.zero_le k) w.1, fun e h => ?_⟩
    rcases Map.mem_put h with h | h
    · subst h; exact hne
    · exact w.2 e h

/-- Taking entries out keeps the canonical form. -/
theorem Map.wf_filter {d : α} {m : Map α} (p : Nat × α → Bool) (w : Map.wf d m = true) : Map.wf d (m.filter p) = true := by
  rw [Map.wf_iff] at *
  exact ⟨Map.sortedFrom_filter p w.1, fun e h => w.2 e (List.mem_filter.mp h).1⟩

/-- A read of another key is not changed by a write, whatever the table looks like. -/
theorem Map.get_set_other (m : Map α) (d : α) (k : Nat) (a : α) {j : Nat} (h : j ≠ k) :
    Map.get (Map.set m d k a) d j = Map.get m d j := by
  unfold Map.set
  split <;> simp [Map.get, Map.find_erase_other m k h, Map.find_put_other m k a h]

/-- A read of the written key gives what was written. -/
@[simp] theorem Map.get_set_same (m : Map α) (d : α) (k : Nat) (a : α) : Map.get (Map.set m d k a) d k = a := by
  unfold Map.set
  split
  · rename_i h; simp [Map.get, h]
  · simp [Map.get]

theorem Map.get_set (m : Map α) (d : α) (k : Nat) (a : α) (j : Nat) :
    Map.get (Map.set m d k a) d j = if j = k then a else Map.get m d j := by
  split
  · rename_i h; subst h; simp
  · rename_i h; exact Map.get_set_other m d k a h

/-- Equal reads make equal memories: the canonical form is unique. -/
theorem Map.ext_of_wf {d : α} {m n : Map α} (wm : Map.wf d m = true) (wn : Map.wf d n = true)
    (h : ∀ k, Map.get m d k = Map.get n d k) : m = n := by
  rw [Map.wf_iff] at wm wn
  obtain ⟨sm, dm⟩ := wm
  obtain ⟨sn, dn⟩ := wn
  generalize hlo : (0 : Nat) = lo at sm sn
  clear hlo
  induction m generalizing n lo with
  | nil =>
    cases n with
    | nil => rfl
    | cons e n =>
      obtain ⟨j, b⟩ := e
      have := h j
      simp [Map.get, Map.find_cons] at this
      exact absurd this.symm (dn (j, b) (by simp))
  | cons e m ih =>
    obtain ⟨j, b⟩ := e
    cases n with
    | nil =>
      have := h j
      simp [Map.get, Map.find_cons] at this
      exact absurd this (dm (j, b) (by simp))
    | cons f n =>
      obtain ⟨i, c⟩ := f
      simp [Map.sortedFrom] at sm sn
      have hij : j = i := by
        rcases Nat.lt_trichotomy j i with hlt | heq | hgt
        · have := h j
          simp [Map.get, Map.find_cons, show i ≠ j by omega, Map.find_below sn.2 (show j < i + 1 by omega)] at this
          exact absurd this (dm (j, b) (by simp))
        · exact heq
        · have := h i
          simp [Map.get, Map.find_cons, show j ≠ i by omega, Map.find_below sm.2 (show i < j + 1 by omega)] at this
          exact absurd this.symm (dn (i, c) (by simp))
      subst hij
      have hbc : b = c := by have := h j; simpa [Map.get, Map.find_cons] using this
      subst hbc
      congr 1
      refine ih (fun k => ?_) (fun e he => dm e (by simp [he])) (fun e he => dn e (by simp [he])) (j + 1) sm.2 sn.2
      by_cases hk : k < j + 1
      · simp [Map.get, Map.find_below sm.2 hk, Map.find_below sn.2 hk]
      · have := h k
        simpa [Map.get, Map.find_cons, show j ≠ k by omega] using this

end Sys2Proof
end

