-- ==== Sys2Proof/Laws/State.lean ====
section
/-!
SUPPORT. What each update of the state leaves and changes: one lemma for each field and each update.
-/
namespace Sys2Proof.Machine

variable (s : State)

/-! ### Updates that are written through another -/

@[simp] theorem State.modDie_eq (d : Nat) (f : Die → Die) : s.modDie d f = s.setDie d (f (s.die d)) := rfl
@[simp] theorem State.modCore_eq (k : Nat) (f : Core → Core) : s.modCore k f = s.setCore k (f (s.coreAt k)) := rfl
@[simp] theorem State.modQueue_eq (k : Nat) (f : Queue → Queue) : s.modQueue k f = s.setQueue k (f (s.queueAt k)) := rfl


/-! ### setDie -/

@[simp] theorem State.setDie_module (d : Nat) (x : Die) : (s.setDie d x).module = s.module := rfl
@[simp] theorem State.setDie_now (d : Nat) (x : Die) : (s.setDie d x).now = s.now := rfl
@[simp] theorem State.setDie_draws (d : Nat) (x : Die) : (s.setDie d x).draws = s.draws := rfl
@[simp] theorem State.setDie_fresh (d : Nat) (x : Die) : (s.setDie d x).fresh = s.fresh := rfl
@[simp] theorem State.setDie_pending (d : Nat) (x : Die) : (s.setDie d x).pending = s.pending := rfl
@[simp] theorem State.setDie_chans (d : Nat) (x : Die) : (s.setDie d x).chans = s.chans := rfl
@[simp] theorem State.setDie_inputs (d : Nat) (x : Die) : (s.setDie d x).inputs = s.inputs := rfl
@[simp] theorem State.setDie_todo (d : Nat) (x : Die) : (s.setDie d x).todo = s.todo := rfl
@[simp] theorem State.setDie_issue (d : Nat) (x : Die) : (s.setDie d x).issue = s.issue := rfl
@[simp] theorem State.setDie_cur (d : Nat) (x : Die) : (s.setDie d x).cur = s.cur := rfl
@[simp] theorem State.setDie_dies (d : Nat) (x : Die) : (s.setDie d x).dies = Map.put s.dies d x := rfl
@[simp] theorem State.setDie_cores (d : Nat) (x : Die) : (s.setDie d x).cores = s.cores := rfl
@[simp] theorem State.setDie_quarters (d : Nat) (x : Die) : (s.setDie d x).quarters = s.quarters := rfl
@[simp] theorem State.setDie_groups (d : Nat) (x : Die) : (s.setDie d x).groups = s.groups := rfl
@[simp] theorem State.setDie_teams (d : Nat) (x : Die) : (s.setDie d x).teams = s.teams := rfl
@[simp] theorem State.setDie_plots (d : Nat) (x : Die) : (s.setDie d x).plots = s.plots := rfl
@[simp] theorem State.setDie_grids (d : Nat) (x : Die) : (s.setDie d x).grids = s.grids := rfl
@[simp] theorem State.setDie_pools (d : Nat) (x : Die) : (s.setDie d x).pools = s.pools := rfl
@[simp] theorem State.setDie_contexts (d : Nat) (x : Die) : (s.setDie d x).contexts = s.contexts := rfl
@[simp] theorem State.setDie_hbm (d : Nat) (x : Die) : (s.setDie d x).hbm = s.hbm := rfl
@[simp] theorem State.setDie_scratch (d : Nat) (x : Die) : (s.setDie d x).scratch = s.scratch := rfl
@[simp] theorem State.setDie_team (d : Nat) (x : Die) : (s.setDie d x).team = s.team := rfl
@[simp] theorem State.setDie_tiles (d : Nat) (x : Die) : (s.setDie d x).tiles = s.tiles := rfl
@[simp] theorem State.setDie_bad (d : Nat) (x : Die) : (s.setDie d x).bad = s.bad := rfl
@[simp] theorem State.setDie_memOps (d : Nat) (x : Die) : (s.setDie d x).memOps = s.memOps := rfl
@[simp] theorem State.setDie_cmds (d : Nat) (x : Die) : (s.setDie d x).cmds = s.cmds := rfl
@[simp] theorem State.setDie_wrecs (d : Nat) (x : Die) : (s.setDie d x).wrecs = s.wrecs := rfl
@[simp] theorem State.setDie_mesh (d : Nat) (x : Die) : (s.setDie d x).mesh = s.mesh := rfl
@[simp] theorem State.setDie_queues (d : Nat) (x : Die) : (s.setDie d x).queues = s.queues := rfl
@[simp] theorem State.setDie_ports (d : Nat) (x : Die) : (s.setDie d x).ports = s.ports := rfl
@[simp] theorem State.setDie_retained (d : Nat) (x : Die) : (s.setDie d x).retained = s.retained := rfl
@[simp] theorem State.setDie_qops (d : Nat) (x : Die) : (s.setDie d x).qops = s.qops := rfl
@[simp] theorem State.setDie_sent (d : Nat) (x : Die) : (s.setDie d x).sent = s.sent := rfl
@[simp] theorem State.setDie_qmsgs (d : Nat) (x : Die) : (s.setDie d x).qmsgs = s.qmsgs := rfl
@[simp] theorem State.setDie_streams (d : Nat) (x : Die) : (s.setDie d x).streams = s.streams := rfl
@[simp] theorem State.setDie_netMsgs (d : Nat) (x : Die) : (s.setDie d x).netMsgs = s.netMsgs := rfl
@[simp] theorem State.setDie_links (d : Nat) (x : Die) : (s.setDie d x).links = s.links := rfl
@[simp] theorem State.setDie_fabric (d : Nat) (x : Die) : (s.setDie d x).fabric = s.fabric := rfl
@[simp] theorem State.setDie_channels (d : Nat) (x : Die) : (s.setDie d x).channels = s.channels := rfl
@[simp] theorem State.setDie_responses (d : Nat) (x : Die) : (s.setDie d x).responses = s.responses := rfl

/-! ### setCore -/

@[simp] theorem State.setCore_module (k : Nat) (x : Core) : (s.setCore k x).module = s.module := rfl
@[simp] theorem State.setCore_now (k : Nat) (x : Core) : (s.setCore k x).now = s.now := rfl
@[simp] theorem State.setCore_draws (k : Nat) (x : Core) : (s.setCore k x).draws = s.draws := rfl
@[simp] theorem State.setCore_fresh (k : Nat) (x : Core) : (s.setCore k x).fresh = s.fresh := rfl
@[simp] theorem State.setCore_pending (k : Nat) (x : Core) : (s.setCore k x).pending = s.pending := rfl
@[simp] theorem State.setCore_chans (k : Nat) (x : Core) : (s.setCore k x).chans = s.chans := rfl
@[simp] theorem State.setCore_inputs (k : Nat) (x : Core) : (s.setCore k x).inputs = s.inputs := rfl
@[simp] theorem State.setCore_todo (k : Nat) (x : Core) : (s.setCore k x).todo = s.todo := rfl
@[simp] theorem State.setCore_issue (k : Nat) (x : Core) : (s.setCore k x).issue = s.issue := rfl
@[simp] theorem State.setCore_cur (k : Nat) (x : Core) : (s.setCore k x).cur = s.cur := rfl
@[simp] theorem State.setCore_dies (k : Nat) (x : Core) : (s.setCore k x).dies = s.dies := rfl
@[simp] theorem State.setCore_cores (k : Nat) (x : Core) : (s.setCore k x).cores = Map.put s.cores k x := rfl
@[simp] theorem State.setCore_quarters (k : Nat) (x : Core) : (s.setCore k x).quarters = s.quarters := rfl
@[simp] theorem State.setCore_groups (k : Nat) (x : Core) : (s.setCore k x).groups = s.groups := rfl
@[simp] theorem State.setCore_teams (k : Nat) (x : Core) : (s.setCore k x).teams = s.teams := rfl
@[simp] theorem State.setCore_plots (k : Nat) (x : Core) : (s.setCore k x).plots = s.plots := rfl
@[simp] theorem State.setCore_grids (k : Nat) (x : Core) : (s.setCore k x).grids = s.grids := rfl
@[simp] theorem State.setCore_pools (k : Nat) (x : Core) : (s.setCore k x).pools = s.pools := rfl
@[simp] theorem State.setCore_contexts (k : Nat) (x : Core) : (s.setCore k x).contexts = s.contexts := rfl
@[simp] theorem State.setCore_hbm (k : Nat) (x : Core) : (s.setCore k x).hbm = s.hbm := rfl
@[simp] theorem State.setCore_scratch (k : Nat) (x : Core) : (s.setCore k x).scratch = s.scratch := rfl
@[simp] theorem State.setCore_team (k : Nat) (x : Core) : (s.setCore k x).team = s.team := rfl
@[simp] theorem State.setCore_tiles (k : Nat) (x : Core) : (s.setCore k x).tiles = s.tiles := rfl
@[simp] theorem State.setCore_bad (k : Nat) (x : Core) : (s.setCore k x).bad = s.bad := rfl
@[simp] theorem State.setCore_memOps (k : Nat) (x : Core) : (s.setCore k x).memOps = s.memOps := rfl
@[simp] theorem State.setCore_cmds (k : Nat) (x : Core) : (s.setCore k x).cmds = s.cmds := rfl
@[simp] theorem State.setCore_wrecs (k : Nat) (x : Core) : (s.setCore k x).wrecs = s.wrecs := rfl
@[simp] theorem State.setCore_mesh (k : Nat) (x : Core) : (s.setCore k x).mesh = s.mesh := rfl
@[simp] theorem State.setCore_queues (k : Nat) (x : Core) : (s.setCore k x).queues = s.queues := rfl
@[simp] theorem State.setCore_ports (k : Nat) (x : Core) : (s.setCore k x).ports = s.ports := rfl
@[simp] theorem State.setCore_retained (k : Nat) (x : Core) : (s.setCore k x).retained = s.retained := rfl
@[simp] theorem State.setCore_qops (k : Nat) (x : Core) : (s.setCore k x).qops = s.qops := rfl
@[simp] theorem State.setCore_sent (k : Nat) (x : Core) : (s.setCore k x).sent = s.sent := rfl
@[simp] theorem State.setCore_qmsgs (k : Nat) (x : Core) : (s.setCore k x).qmsgs = s.qmsgs := rfl
@[simp] theorem State.setCore_streams (k : Nat) (x : Core) : (s.setCore k x).streams = s.streams := rfl
@[simp] theorem State.setCore_netMsgs (k : Nat) (x : Core) : (s.setCore k x).netMsgs = s.netMsgs := rfl
@[simp] theorem State.setCore_links (k : Nat) (x : Core) : (s.setCore k x).links = s.links := rfl
@[simp] theorem State.setCore_fabric (k : Nat) (x : Core) : (s.setCore k x).fabric = s.fabric := rfl
@[simp] theorem State.setCore_channels (k : Nat) (x : Core) : (s.setCore k x).channels = s.channels := rfl
@[simp] theorem State.setCore_responses (k : Nat) (x : Core) : (s.setCore k x).responses = s.responses := rfl

/-! ### setQuarter -/

@[simp] theorem State.setQuarter_module (k : Nat) (x : Quarter) : (s.setQuarter k x).module = s.module := rfl
@[simp] theorem State.setQuarter_now (k : Nat) (x : Quarter) : (s.setQuarter k x).now = s.now := rfl
@[simp] theorem State.setQuarter_draws (k : Nat) (x : Quarter) : (s.setQuarter k x).draws = s.draws := rfl
@[simp] theorem State.setQuarter_fresh (k : Nat) (x : Quarter) : (s.setQuarter k x).fresh = s.fresh := rfl
@[simp] theorem State.setQuarter_pending (k : Nat) (x : Quarter) : (s.setQuarter k x).pending = s.pending := rfl
@[simp] theorem State.setQuarter_chans (k : Nat) (x : Quarter) : (s.setQuarter k x).chans = s.chans := rfl
@[simp] theorem State.setQuarter_inputs (k : Nat) (x : Quarter) : (s.setQuarter k x).inputs = s.inputs := rfl
@[simp] theorem State.setQuarter_todo (k : Nat) (x : Quarter) : (s.setQuarter k x).todo = s.todo := rfl
@[simp] theorem State.setQuarter_issue (k : Nat) (x : Quarter) : (s.setQuarter k x).issue = s.issue := rfl
@[simp] theorem State.setQuarter_cur (k : Nat) (x : Quarter) : (s.setQuarter k x).cur = s.cur := rfl
@[simp] theorem State.setQuarter_dies (k : Nat) (x : Quarter) : (s.setQuarter k x).dies = s.dies := rfl
@[simp] theorem State.setQuarter_cores (k : Nat) (x : Quarter) : (s.setQuarter k x).cores = s.cores := rfl
@[simp] theorem State.setQuarter_quarters (k : Nat) (x : Quarter) : (s.setQuarter k x).quarters = Map.put s.quarters k x := rfl
@[simp] theorem State.setQuarter_groups (k : Nat) (x : Quarter) : (s.setQuarter k x).groups = s.groups := rfl
@[simp] theorem State.setQuarter_teams (k : Nat) (x : Quarter) : (s.setQuarter k x).teams = s.teams := rfl
@[simp] theorem State.setQuarter_plots (k : Nat) (x : Quarter) : (s.setQuarter k x).plots = s.plots := rfl
@[simp] theorem State.setQuarter_grids (k : Nat) (x : Quarter) : (s.setQuarter k x).grids = s.grids := rfl
@[simp] theorem State.setQuarter_pools (k : Nat) (x : Quarter) : (s.setQuarter k x).pools = s.pools := rfl
@[simp] theorem State.setQuarter_contexts (k : Nat) (x : Quarter) : (s.setQuarter k x).contexts = s.contexts := rfl
@[simp] theorem State.setQuarter_hbm (k : Nat) (x : Quarter) : (s.setQuarter k x).hbm = s.hbm := rfl
@[simp] theorem State.setQuarter_scratch (k : Nat) (x : Quarter) : (s.setQuarter k x).scratch = s.scratch := rfl
@[simp] theorem State.setQuarter_team (k : Nat) (x : Quarter) : (s.setQuarter k x).team = s.team := rfl
@[simp] theorem State.setQuarter_tiles (k : Nat) (x : Quarter) : (s.setQuarter k x).tiles = s.tiles := rfl
@[simp] theorem State.setQuarter_bad (k : Nat) (x : Quarter) : (s.setQuarter k x).bad = s.bad := rfl
@[simp] theorem State.setQuarter_memOps (k : Nat) (x : Quarter) : (s.setQuarter k x).memOps = s.memOps := rfl
@[simp] theorem State.setQuarter_cmds (k : Nat) (x : Quarter) : (s.setQuarter k x).cmds = s.cmds := rfl
@[simp] theorem State.setQuarter_wrecs (k : Nat) (x : Quarter) : (s.setQuarter k x).wrecs = s.wrecs := rfl
@[simp] theorem State.setQuarter_mesh (k : Nat) (x : Quarter) : (s.setQuarter k x).mesh = s.mesh := rfl
@[simp] theorem State.setQuarter_queues (k : Nat) (x : Quarter) : (s.setQuarter k x).queues = s.queues := rfl
@[simp] theorem State.setQuarter_ports (k : Nat) (x : Quarter) : (s.setQuarter k x).ports = s.ports := rfl
@[simp] theorem State.setQuarter_retained (k : Nat) (x : Quarter) : (s.setQuarter k x).retained = s.retained := rfl
@[simp] theorem State.setQuarter_qops (k : Nat) (x : Quarter) : (s.setQuarter k x).qops = s.qops := rfl
@[simp] theorem State.setQuarter_sent (k : Nat) (x : Quarter) : (s.setQuarter k x).sent = s.sent := rfl
@[simp] theorem State.setQuarter_qmsgs (k : Nat) (x : Quarter) : (s.setQuarter k x).qmsgs = s.qmsgs := rfl
@[simp] theorem State.setQuarter_streams (k : Nat) (x : Quarter) : (s.setQuarter k x).streams = s.streams := rfl
@[simp] theorem State.setQuarter_netMsgs (k : Nat) (x : Quarter) : (s.setQuarter k x).netMsgs = s.netMsgs := rfl
@[simp] theorem State.setQuarter_links (k : Nat) (x : Quarter) : (s.setQuarter k x).links = s.links := rfl
@[simp] theorem State.setQuarter_fabric (k : Nat) (x : Quarter) : (s.setQuarter k x).fabric = s.fabric := rfl
@[simp] theorem State.setQuarter_channels (k : Nat) (x : Quarter) : (s.setQuarter k x).channels = s.channels := rfl
@[simp] theorem State.setQuarter_responses (k : Nat) (x : Quarter) : (s.setQuarter k x).responses = s.responses := rfl

/-! ### setGroup -/

@[simp] theorem State.setGroup_module (k : Nat) (x : Group) : (s.setGroup k x).module = s.module := rfl
@[simp] theorem State.setGroup_now (k : Nat) (x : Group) : (s.setGroup k x).now = s.now := rfl
@[simp] theorem State.setGroup_draws (k : Nat) (x : Group) : (s.setGroup k x).draws = s.draws := rfl
@[simp] theorem State.setGroup_fresh (k : Nat) (x : Group) : (s.setGroup k x).fresh = s.fresh := rfl
@[simp] theorem State.setGroup_pending (k : Nat) (x : Group) : (s.setGroup k x).pending = s.pending := rfl
@[simp] theorem State.setGroup_chans (k : Nat) (x : Group) : (s.setGroup k x).chans = s.chans := rfl
@[simp] theorem State.setGroup_inputs (k : Nat) (x : Group) : (s.setGroup k x).inputs = s.inputs := rfl
@[simp] theorem State.setGroup_todo (k : Nat) (x : Group) : (s.setGroup k x).todo = s.todo := rfl
@[simp] theorem State.setGroup_issue (k : Nat) (x : Group) : (s.setGroup k x).issue = s.issue := rfl
@[simp] theorem State.setGroup_cur (k : Nat) (x : Group) : (s.setGroup k x).cur = s.cur := rfl
@[simp] theorem State.setGroup_dies (k : Nat) (x : Group) : (s.setGroup k x).dies = s.dies := rfl
@[simp] theorem State.setGroup_cores (k : Nat) (x : Group) : (s.setGroup k x).cores = s.cores := rfl
@[simp] theorem State.setGroup_quarters (k : Nat) (x : Group) : (s.setGroup k x).quarters = s.quarters := rfl
@[simp] theorem State.setGroup_groups (k : Nat) (x : Group) : (s.setGroup k x).groups = Map.put s.groups k x := rfl
@[simp] theorem State.setGroup_teams (k : Nat) (x : Group) : (s.setGroup k x).teams = s.teams := rfl
@[simp] theorem State.setGroup_plots (k : Nat) (x : Group) : (s.setGroup k x).plots = s.plots := rfl
@[simp] theorem State.setGroup_grids (k : Nat) (x : Group) : (s.setGroup k x).grids = s.grids := rfl
@[simp] theorem State.setGroup_pools (k : Nat) (x : Group) : (s.setGroup k x).pools = s.pools := rfl
@[simp] theorem State.setGroup_contexts (k : Nat) (x : Group) : (s.setGroup k x).contexts = s.contexts := rfl
@[simp] theorem State.setGroup_hbm (k : Nat) (x : Group) : (s.setGroup k x).hbm = s.hbm := rfl
@[simp] theorem State.setGroup_scratch (k : Nat) (x : Group) : (s.setGroup k x).scratch = s.scratch := rfl
@[simp] theorem State.setGroup_team (k : Nat) (x : Group) : (s.setGroup k x).team = s.team := rfl
@[simp] theorem State.setGroup_tiles (k : Nat) (x : Group) : (s.setGroup k x).tiles = s.tiles := rfl
@[simp] theorem State.setGroup_bad (k : Nat) (x : Group) : (s.setGroup k x).bad = s.bad := rfl
@[simp] theorem State.setGroup_memOps (k : Nat) (x : Group) : (s.setGroup k x).memOps = s.memOps := rfl
@[simp] theorem State.setGroup_cmds (k : Nat) (x : Group) : (s.setGroup k x).cmds = s.cmds := rfl
@[simp] theorem State.setGroup_wrecs (k : Nat) (x : Group) : (s.setGroup k x).wrecs = s.wrecs := rfl
@[simp] theorem State.setGroup_mesh (k : Nat) (x : Group) : (s.setGroup k x).mesh = s.mesh := rfl
@[simp] theorem State.setGroup_queues (k : Nat) (x : Group) : (s.setGroup k x).queues = s.queues := rfl
@[simp] theorem State.setGroup_ports (k : Nat) (x : Group) : (s.setGroup k x).ports = s.ports := rfl
@[simp] theorem State.setGroup_retained (k : Nat) (x : Group) : (s.setGroup k x).retained = s.retained := rfl
@[simp] theorem State.setGroup_qops (k : Nat) (x : Group) : (s.setGroup k x).qops = s.qops := rfl
@[simp] theorem State.setGroup_sent (k : Nat) (x : Group) : (s.setGroup k x).sent = s.sent := rfl
@[simp] theorem State.setGroup_qmsgs (k : Nat) (x : Group) : (s.setGroup k x).qmsgs = s.qmsgs := rfl
@[simp] theorem State.setGroup_streams (k : Nat) (x : Group) : (s.setGroup k x).streams = s.streams := rfl
@[simp] theorem State.setGroup_netMsgs (k : Nat) (x : Group) : (s.setGroup k x).netMsgs = s.netMsgs := rfl
@[simp] theorem State.setGroup_links (k : Nat) (x : Group) : (s.setGroup k x).links = s.links := rfl
@[simp] theorem State.setGroup_fabric (k : Nat) (x : Group) : (s.setGroup k x).fabric = s.fabric := rfl
@[simp] theorem State.setGroup_channels (k : Nat) (x : Group) : (s.setGroup k x).channels = s.channels := rfl
@[simp] theorem State.setGroup_responses (k : Nat) (x : Group) : (s.setGroup k x).responses = s.responses := rfl

/-! ### modGroup -/

@[simp] theorem State.modGroup_module (k : Nat) (f : Group → Group) : (s.modGroup k f).module = s.module := rfl
@[simp] theorem State.modGroup_now (k : Nat) (f : Group → Group) : (s.modGroup k f).now = s.now := rfl
@[simp] theorem State.modGroup_draws (k : Nat) (f : Group → Group) : (s.modGroup k f).draws = s.draws := rfl
@[simp] theorem State.modGroup_fresh (k : Nat) (f : Group → Group) : (s.modGroup k f).fresh = s.fresh := rfl
@[simp] theorem State.modGroup_pending (k : Nat) (f : Group → Group) : (s.modGroup k f).pending = s.pending := rfl
@[simp] theorem State.modGroup_chans (k : Nat) (f : Group → Group) : (s.modGroup k f).chans = s.chans := rfl
@[simp] theorem State.modGroup_inputs (k : Nat) (f : Group → Group) : (s.modGroup k f).inputs = s.inputs := rfl
@[simp] theorem State.modGroup_todo (k : Nat) (f : Group → Group) : (s.modGroup k f).todo = s.todo := rfl
@[simp] theorem State.modGroup_issue (k : Nat) (f : Group → Group) : (s.modGroup k f).issue = s.issue := rfl
@[simp] theorem State.modGroup_cur (k : Nat) (f : Group → Group) : (s.modGroup k f).cur = s.cur := rfl
@[simp] theorem State.modGroup_dies (k : Nat) (f : Group → Group) : (s.modGroup k f).dies = s.dies := rfl
@[simp] theorem State.modGroup_cores (k : Nat) (f : Group → Group) : (s.modGroup k f).cores = s.cores := rfl
@[simp] theorem State.modGroup_quarters (k : Nat) (f : Group → Group) : (s.modGroup k f).quarters = s.quarters := rfl
@[simp] theorem State.modGroup_groups (k : Nat) (f : Group → Group) : (s.modGroup k f).groups = Map.modify s.groups k f := rfl
@[simp] theorem State.modGroup_teams (k : Nat) (f : Group → Group) : (s.modGroup k f).teams = s.teams := rfl
@[simp] theorem State.modGroup_plots (k : Nat) (f : Group → Group) : (s.modGroup k f).plots = s.plots := rfl
@[simp] theorem State.modGroup_grids (k : Nat) (f : Group → Group) : (s.modGroup k f).grids = s.grids := rfl
@[simp] theorem State.modGroup_pools (k : Nat) (f : Group → Group) : (s.modGroup k f).pools = s.pools := rfl
@[simp] theorem State.modGroup_contexts (k : Nat) (f : Group → Group) : (s.modGroup k f).contexts = s.contexts := rfl
@[simp] theorem State.modGroup_hbm (k : Nat) (f : Group → Group) : (s.modGroup k f).hbm = s.hbm := rfl
@[simp] theorem State.modGroup_scratch (k : Nat) (f : Group → Group) : (s.modGroup k f).scratch = s.scratch := rfl
@[simp] theorem State.modGroup_team (k : Nat) (f : Group → Group) : (s.modGroup k f).team = s.team := rfl
@[simp] theorem State.modGroup_tiles (k : Nat) (f : Group → Group) : (s.modGroup k f).tiles = s.tiles := rfl
@[simp] theorem State.modGroup_bad (k : Nat) (f : Group → Group) : (s.modGroup k f).bad = s.bad := rfl
@[simp] theorem State.modGroup_memOps (k : Nat) (f : Group → Group) : (s.modGroup k f).memOps = s.memOps := rfl
@[simp] theorem State.modGroup_cmds (k : Nat) (f : Group → Group) : (s.modGroup k f).cmds = s.cmds := rfl
@[simp] theorem State.modGroup_wrecs (k : Nat) (f : Group → Group) : (s.modGroup k f).wrecs = s.wrecs := rfl
@[simp] theorem State.modGroup_mesh (k : Nat) (f : Group → Group) : (s.modGroup k f).mesh = s.mesh := rfl
@[simp] theorem State.modGroup_queues (k : Nat) (f : Group → Group) : (s.modGroup k f).queues = s.queues := rfl
@[simp] theorem State.modGroup_ports (k : Nat) (f : Group → Group) : (s.modGroup k f).ports = s.ports := rfl
@[simp] theorem State.modGroup_retained (k : Nat) (f : Group → Group) : (s.modGroup k f).retained = s.retained := rfl
@[simp] theorem State.modGroup_qops (k : Nat) (f : Group → Group) : (s.modGroup k f).qops = s.qops := rfl
@[simp] theorem State.modGroup_sent (k : Nat) (f : Group → Group) : (s.modGroup k f).sent = s.sent := rfl
@[simp] theorem State.modGroup_qmsgs (k : Nat) (f : Group → Group) : (s.modGroup k f).qmsgs = s.qmsgs := rfl
@[simp] theorem State.modGroup_streams (k : Nat) (f : Group → Group) : (s.modGroup k f).streams = s.streams := rfl
@[simp] theorem State.modGroup_netMsgs (k : Nat) (f : Group → Group) : (s.modGroup k f).netMsgs = s.netMsgs := rfl
@[simp] theorem State.modGroup_links (k : Nat) (f : Group → Group) : (s.modGroup k f).links = s.links := rfl
@[simp] theorem State.modGroup_fabric (k : Nat) (f : Group → Group) : (s.modGroup k f).fabric = s.fabric := rfl
@[simp] theorem State.modGroup_channels (k : Nat) (f : Group → Group) : (s.modGroup k f).channels = s.channels := rfl
@[simp] theorem State.modGroup_responses (k : Nat) (f : Group → Group) : (s.modGroup k f).responses = s.responses := rfl

/-! ### modTeam -/

@[simp] theorem State.modTeam_module (k : Nat) (f : Team → Team) : (s.modTeam k f).module = s.module := rfl
@[simp] theorem State.modTeam_now (k : Nat) (f : Team → Team) : (s.modTeam k f).now = s.now := rfl
@[simp] theorem State.modTeam_draws (k : Nat) (f : Team → Team) : (s.modTeam k f).draws = s.draws := rfl
@[simp] theorem State.modTeam_fresh (k : Nat) (f : Team → Team) : (s.modTeam k f).fresh = s.fresh := rfl
@[simp] theorem State.modTeam_pending (k : Nat) (f : Team → Team) : (s.modTeam k f).pending = s.pending := rfl
@[simp] theorem State.modTeam_chans (k : Nat) (f : Team → Team) : (s.modTeam k f).chans = s.chans := rfl
@[simp] theorem State.modTeam_inputs (k : Nat) (f : Team → Team) : (s.modTeam k f).inputs = s.inputs := rfl
@[simp] theorem State.modTeam_todo (k : Nat) (f : Team → Team) : (s.modTeam k f).todo = s.todo := rfl
@[simp] theorem State.modTeam_issue (k : Nat) (f : Team → Team) : (s.modTeam k f).issue = s.issue := rfl
@[simp] theorem State.modTeam_cur (k : Nat) (f : Team → Team) : (s.modTeam k f).cur = s.cur := rfl
@[simp] theorem State.modTeam_dies (k : Nat) (f : Team → Team) : (s.modTeam k f).dies = s.dies := rfl
@[simp] theorem State.modTeam_cores (k : Nat) (f : Team → Team) : (s.modTeam k f).cores = s.cores := rfl
@[simp] theorem State.modTeam_quarters (k : Nat) (f : Team → Team) : (s.modTeam k f).quarters = s.quarters := rfl
@[simp] theorem State.modTeam_groups (k : Nat) (f : Team → Team) : (s.modTeam k f).groups = s.groups := rfl
@[simp] theorem State.modTeam_teams (k : Nat) (f : Team → Team) : (s.modTeam k f).teams = Map.modify s.teams k f := rfl
@[simp] theorem State.modTeam_plots (k : Nat) (f : Team → Team) : (s.modTeam k f).plots = s.plots := rfl
@[simp] theorem State.modTeam_grids (k : Nat) (f : Team → Team) : (s.modTeam k f).grids = s.grids := rfl
@[simp] theorem State.modTeam_pools (k : Nat) (f : Team → Team) : (s.modTeam k f).pools = s.pools := rfl
@[simp] theorem State.modTeam_contexts (k : Nat) (f : Team → Team) : (s.modTeam k f).contexts = s.contexts := rfl
@[simp] theorem State.modTeam_hbm (k : Nat) (f : Team → Team) : (s.modTeam k f).hbm = s.hbm := rfl
@[simp] theorem State.modTeam_scratch (k : Nat) (f : Team → Team) : (s.modTeam k f).scratch = s.scratch := rfl
@[simp] theorem State.modTeam_team (k : Nat) (f : Team → Team) : (s.modTeam k f).team = s.team := rfl
@[simp] theorem State.modTeam_tiles (k : Nat) (f : Team → Team) : (s.modTeam k f).tiles = s.tiles := rfl
@[simp] theorem State.modTeam_bad (k : Nat) (f : Team → Team) : (s.modTeam k f).bad = s.bad := rfl
@[simp] theorem State.modTeam_memOps (k : Nat) (f : Team → Team) : (s.modTeam k f).memOps = s.memOps := rfl
@[simp] theorem State.modTeam_cmds (k : Nat) (f : Team → Team) : (s.modTeam k f).cmds = s.cmds := rfl
@[simp] theorem State.modTeam_wrecs (k : Nat) (f : Team → Team) : (s.modTeam k f).wrecs = s.wrecs := rfl
@[simp] theorem State.modTeam_mesh (k : Nat) (f : Team → Team) : (s.modTeam k f).mesh = s.mesh := rfl
@[simp] theorem State.modTeam_queues (k : Nat) (f : Team → Team) : (s.modTeam k f).queues = s.queues := rfl
@[simp] theorem State.modTeam_ports (k : Nat) (f : Team → Team) : (s.modTeam k f).ports = s.ports := rfl
@[simp] theorem State.modTeam_retained (k : Nat) (f : Team → Team) : (s.modTeam k f).retained = s.retained := rfl
@[simp] theorem State.modTeam_qops (k : Nat) (f : Team → Team) : (s.modTeam k f).qops = s.qops := rfl
@[simp] theorem State.modTeam_sent (k : Nat) (f : Team → Team) : (s.modTeam k f).sent = s.sent := rfl
@[simp] theorem State.modTeam_qmsgs (k : Nat) (f : Team → Team) : (s.modTeam k f).qmsgs = s.qmsgs := rfl
@[simp] theorem State.modTeam_streams (k : Nat) (f : Team → Team) : (s.modTeam k f).streams = s.streams := rfl
@[simp] theorem State.modTeam_netMsgs (k : Nat) (f : Team → Team) : (s.modTeam k f).netMsgs = s.netMsgs := rfl
@[simp] theorem State.modTeam_links (k : Nat) (f : Team → Team) : (s.modTeam k f).links = s.links := rfl
@[simp] theorem State.modTeam_fabric (k : Nat) (f : Team → Team) : (s.modTeam k f).fabric = s.fabric := rfl
@[simp] theorem State.modTeam_channels (k : Nat) (f : Team → Team) : (s.modTeam k f).channels = s.channels := rfl
@[simp] theorem State.modTeam_responses (k : Nat) (f : Team → Team) : (s.modTeam k f).responses = s.responses := rfl

/-! ### modGrid -/

@[simp] theorem State.modGrid_module (k : Nat) (f : Grid → Grid) : (s.modGrid k f).module = s.module := rfl
@[simp] theorem State.modGrid_now (k : Nat) (f : Grid → Grid) : (s.modGrid k f).now = s.now := rfl
@[simp] theorem State.modGrid_draws (k : Nat) (f : Grid → Grid) : (s.modGrid k f).draws = s.draws := rfl
@[simp] theorem State.modGrid_fresh (k : Nat) (f : Grid → Grid) : (s.modGrid k f).fresh = s.fresh := rfl
@[simp] theorem State.modGrid_pending (k : Nat) (f : Grid → Grid) : (s.modGrid k f).pending = s.pending := rfl
@[simp] theorem State.modGrid_chans (k : Nat) (f : Grid → Grid) : (s.modGrid k f).chans = s.chans := rfl
@[simp] theorem State.modGrid_inputs (k : Nat) (f : Grid → Grid) : (s.modGrid k f).inputs = s.inputs := rfl
@[simp] theorem State.modGrid_todo (k : Nat) (f : Grid → Grid) : (s.modGrid k f).todo = s.todo := rfl
@[simp] theorem State.modGrid_issue (k : Nat) (f : Grid → Grid) : (s.modGrid k f).issue = s.issue := rfl
@[simp] theorem State.modGrid_cur (k : Nat) (f : Grid → Grid) : (s.modGrid k f).cur = s.cur := rfl
@[simp] theorem State.modGrid_dies (k : Nat) (f : Grid → Grid) : (s.modGrid k f).dies = s.dies := rfl
@[simp] theorem State.modGrid_cores (k : Nat) (f : Grid → Grid) : (s.modGrid k f).cores = s.cores := rfl
@[simp] theorem State.modGrid_quarters (k : Nat) (f : Grid → Grid) : (s.modGrid k f).quarters = s.quarters := rfl
@[simp] theorem State.modGrid_groups (k : Nat) (f : Grid → Grid) : (s.modGrid k f).groups = s.groups := rfl
@[simp] theorem State.modGrid_teams (k : Nat) (f : Grid → Grid) : (s.modGrid k f).teams = s.teams := rfl
@[simp] theorem State.modGrid_plots (k : Nat) (f : Grid → Grid) : (s.modGrid k f).plots = s.plots := rfl
@[simp] theorem State.modGrid_grids (k : Nat) (f : Grid → Grid) : (s.modGrid k f).grids = Map.modify s.grids k f := rfl
@[simp] theorem State.modGrid_pools (k : Nat) (f : Grid → Grid) : (s.modGrid k f).pools = s.pools := rfl
@[simp] theorem State.modGrid_contexts (k : Nat) (f : Grid → Grid) : (s.modGrid k f).contexts = s.contexts := rfl
@[simp] theorem State.modGrid_hbm (k : Nat) (f : Grid → Grid) : (s.modGrid k f).hbm = s.hbm := rfl
@[simp] theorem State.modGrid_scratch (k : Nat) (f : Grid → Grid) : (s.modGrid k f).scratch = s.scratch := rfl
@[simp] theorem State.modGrid_team (k : Nat) (f : Grid → Grid) : (s.modGrid k f).team = s.team := rfl
@[simp] theorem State.modGrid_tiles (k : Nat) (f : Grid → Grid) : (s.modGrid k f).tiles = s.tiles := rfl
@[simp] theorem State.modGrid_bad (k : Nat) (f : Grid → Grid) : (s.modGrid k f).bad = s.bad := rfl
@[simp] theorem State.modGrid_memOps (k : Nat) (f : Grid → Grid) : (s.modGrid k f).memOps = s.memOps := rfl
@[simp] theorem State.modGrid_cmds (k : Nat) (f : Grid → Grid) : (s.modGrid k f).cmds = s.cmds := rfl
@[simp] theorem State.modGrid_wrecs (k : Nat) (f : Grid → Grid) : (s.modGrid k f).wrecs = s.wrecs := rfl
@[simp] theorem State.modGrid_mesh (k : Nat) (f : Grid → Grid) : (s.modGrid k f).mesh = s.mesh := rfl
@[simp] theorem State.modGrid_queues (k : Nat) (f : Grid → Grid) : (s.modGrid k f).queues = s.queues := rfl
@[simp] theorem State.modGrid_ports (k : Nat) (f : Grid → Grid) : (s.modGrid k f).ports = s.ports := rfl
@[simp] theorem State.modGrid_retained (k : Nat) (f : Grid → Grid) : (s.modGrid k f).retained = s.retained := rfl
@[simp] theorem State.modGrid_qops (k : Nat) (f : Grid → Grid) : (s.modGrid k f).qops = s.qops := rfl
@[simp] theorem State.modGrid_sent (k : Nat) (f : Grid → Grid) : (s.modGrid k f).sent = s.sent := rfl
@[simp] theorem State.modGrid_qmsgs (k : Nat) (f : Grid → Grid) : (s.modGrid k f).qmsgs = s.qmsgs := rfl
@[simp] theorem State.modGrid_streams (k : Nat) (f : Grid → Grid) : (s.modGrid k f).streams = s.streams := rfl
@[simp] theorem State.modGrid_netMsgs (k : Nat) (f : Grid → Grid) : (s.modGrid k f).netMsgs = s.netMsgs := rfl
@[simp] theorem State.modGrid_links (k : Nat) (f : Grid → Grid) : (s.modGrid k f).links = s.links := rfl
@[simp] theorem State.modGrid_fabric (k : Nat) (f : Grid → Grid) : (s.modGrid k f).fabric = s.fabric := rfl
@[simp] theorem State.modGrid_channels (k : Nat) (f : Grid → Grid) : (s.modGrid k f).channels = s.channels := rfl
@[simp] theorem State.modGrid_responses (k : Nat) (f : Grid → Grid) : (s.modGrid k f).responses = s.responses := rfl

/-! ### modCtx -/

@[simp] theorem State.modCtx_module (k : Nat) (f : Context → Context) : (s.modCtx k f).module = s.module := rfl
@[simp] theorem State.modCtx_now (k : Nat) (f : Context → Context) : (s.modCtx k f).now = s.now := rfl
@[simp] theorem State.modCtx_draws (k : Nat) (f : Context → Context) : (s.modCtx k f).draws = s.draws := rfl
@[simp] theorem State.modCtx_fresh (k : Nat) (f : Context → Context) : (s.modCtx k f).fresh = s.fresh := rfl
@[simp] theorem State.modCtx_pending (k : Nat) (f : Context → Context) : (s.modCtx k f).pending = s.pending := rfl
@[simp] theorem State.modCtx_chans (k : Nat) (f : Context → Context) : (s.modCtx k f).chans = s.chans := rfl
@[simp] theorem State.modCtx_inputs (k : Nat) (f : Context → Context) : (s.modCtx k f).inputs = s.inputs := rfl
@[simp] theorem State.modCtx_todo (k : Nat) (f : Context → Context) : (s.modCtx k f).todo = s.todo := rfl
@[simp] theorem State.modCtx_issue (k : Nat) (f : Context → Context) : (s.modCtx k f).issue = s.issue := rfl
@[simp] theorem State.modCtx_cur (k : Nat) (f : Context → Context) : (s.modCtx k f).cur = s.cur := rfl
@[simp] theorem State.modCtx_dies (k : Nat) (f : Context → Context) : (s.modCtx k f).dies = s.dies := rfl
@[simp] theorem State.modCtx_cores (k : Nat) (f : Context → Context) : (s.modCtx k f).cores = s.cores := rfl
@[simp] theorem State.modCtx_quarters (k : Nat) (f : Context → Context) : (s.modCtx k f).quarters = s.quarters := rfl
@[simp] theorem State.modCtx_groups (k : Nat) (f : Context → Context) : (s.modCtx k f).groups = s.groups := rfl
@[simp] theorem State.modCtx_teams (k : Nat) (f : Context → Context) : (s.modCtx k f).teams = s.teams := rfl
@[simp] theorem State.modCtx_plots (k : Nat) (f : Context → Context) : (s.modCtx k f).plots = s.plots := rfl
@[simp] theorem State.modCtx_grids (k : Nat) (f : Context → Context) : (s.modCtx k f).grids = s.grids := rfl
@[simp] theorem State.modCtx_pools (k : Nat) (f : Context → Context) : (s.modCtx k f).pools = s.pools := rfl
@[simp] theorem State.modCtx_contexts (k : Nat) (f : Context → Context) : (s.modCtx k f).contexts = Map.modify s.contexts k f := rfl
@[simp] theorem State.modCtx_hbm (k : Nat) (f : Context → Context) : (s.modCtx k f).hbm = s.hbm := rfl
@[simp] theorem State.modCtx_scratch (k : Nat) (f : Context → Context) : (s.modCtx k f).scratch = s.scratch := rfl
@[simp] theorem State.modCtx_team (k : Nat) (f : Context → Context) : (s.modCtx k f).team = s.team := rfl
@[simp] theorem State.modCtx_tiles (k : Nat) (f : Context → Context) : (s.modCtx k f).tiles = s.tiles := rfl
@[simp] theorem State.modCtx_bad (k : Nat) (f : Context → Context) : (s.modCtx k f).bad = s.bad := rfl
@[simp] theorem State.modCtx_memOps (k : Nat) (f : Context → Context) : (s.modCtx k f).memOps = s.memOps := rfl
@[simp] theorem State.modCtx_cmds (k : Nat) (f : Context → Context) : (s.modCtx k f).cmds = s.cmds := rfl
@[simp] theorem State.modCtx_wrecs (k : Nat) (f : Context → Context) : (s.modCtx k f).wrecs = s.wrecs := rfl
@[simp] theorem State.modCtx_mesh (k : Nat) (f : Context → Context) : (s.modCtx k f).mesh = s.mesh := rfl
@[simp] theorem State.modCtx_queues (k : Nat) (f : Context → Context) : (s.modCtx k f).queues = s.queues := rfl
@[simp] theorem State.modCtx_ports (k : Nat) (f : Context → Context) : (s.modCtx k f).ports = s.ports := rfl
@[simp] theorem State.modCtx_retained (k : Nat) (f : Context → Context) : (s.modCtx k f).retained = s.retained := rfl
@[simp] theorem State.modCtx_qops (k : Nat) (f : Context → Context) : (s.modCtx k f).qops = s.qops := rfl
@[simp] theorem State.modCtx_sent (k : Nat) (f : Context → Context) : (s.modCtx k f).sent = s.sent := rfl
@[simp] theorem State.modCtx_qmsgs (k : Nat) (f : Context → Context) : (s.modCtx k f).qmsgs = s.qmsgs := rfl
@[simp] theorem State.modCtx_streams (k : Nat) (f : Context → Context) : (s.modCtx k f).streams = s.streams := rfl
@[simp] theorem State.modCtx_netMsgs (k : Nat) (f : Context → Context) : (s.modCtx k f).netMsgs = s.netMsgs := rfl
@[simp] theorem State.modCtx_links (k : Nat) (f : Context → Context) : (s.modCtx k f).links = s.links := rfl
@[simp] theorem State.modCtx_fabric (k : Nat) (f : Context → Context) : (s.modCtx k f).fabric = s.fabric := rfl
@[simp] theorem State.modCtx_channels (k : Nat) (f : Context → Context) : (s.modCtx k f).channels = s.channels := rfl
@[simp] theorem State.modCtx_responses (k : Nat) (f : Context → Context) : (s.modCtx k f).responses = s.responses := rfl

/-! ### setQueue -/

@[simp] theorem State.setQueue_module (k : Nat) (x : Queue) : (s.setQueue k x).module = s.module := rfl
@[simp] theorem State.setQueue_now (k : Nat) (x : Queue) : (s.setQueue k x).now = s.now := rfl
@[simp] theorem State.setQueue_draws (k : Nat) (x : Queue) : (s.setQueue k x).draws = s.draws := rfl
@[simp] theorem State.setQueue_fresh (k : Nat) (x : Queue) : (s.setQueue k x).fresh = s.fresh := rfl
@[simp] theorem State.setQueue_pending (k : Nat) (x : Queue) : (s.setQueue k x).pending = s.pending := rfl
@[simp] theorem State.setQueue_chans (k : Nat) (x : Queue) : (s.setQueue k x).chans = s.chans := rfl
@[simp] theorem State.setQueue_inputs (k : Nat) (x : Queue) : (s.setQueue k x).inputs = s.inputs := rfl
@[simp] theorem State.setQueue_todo (k : Nat) (x : Queue) : (s.setQueue k x).todo = s.todo := rfl
@[simp] theorem State.setQueue_issue (k : Nat) (x : Queue) : (s.setQueue k x).issue = s.issue := rfl
@[simp] theorem State.setQueue_cur (k : Nat) (x : Queue) : (s.setQueue k x).cur = s.cur := rfl
@[simp] theorem State.setQueue_dies (k : Nat) (x : Queue) : (s.setQueue k x).dies = s.dies := rfl
@[simp] theorem State.setQueue_cores (k : Nat) (x : Queue) : (s.setQueue k x).cores = s.cores := rfl
@[simp] theorem State.setQueue_quarters (k : Nat) (x : Queue) : (s.setQueue k x).quarters = s.quarters := rfl
@[simp] theorem State.setQueue_groups (k : Nat) (x : Queue) : (s.setQueue k x).groups = s.groups := rfl
@[simp] theorem State.setQueue_teams (k : Nat) (x : Queue) : (s.setQueue k x).teams = s.teams := rfl
@[simp] theorem State.setQueue_plots (k : Nat) (x : Queue) : (s.setQueue k x).plots = s.plots := rfl
@[simp] theorem State.setQueue_grids (k : Nat) (x : Queue) : (s.setQueue k x).grids = s.grids := rfl
@[simp] theorem State.setQueue_pools (k : Nat) (x : Queue) : (s.setQueue k x).pools = s.pools := rfl
@[simp] theorem State.setQueue_contexts (k : Nat) (x : Queue) : (s.setQueue k x).contexts = s.contexts := rfl
@[simp] theorem State.setQueue_hbm (k : Nat) (x : Queue) : (s.setQueue k x).hbm = s.hbm := rfl
@[simp] theorem State.setQueue_scratch (k : Nat) (x : Queue) : (s.setQueue k x).scratch = s.scratch := rfl
@[simp] theorem State.setQueue_team (k : Nat) (x : Queue) : (s.setQueue k x).team = s.team := rfl
@[simp] theorem State.setQueue_tiles (k : Nat) (x : Queue) : (s.setQueue k x).tiles = s.tiles := rfl
@[simp] theorem State.setQueue_bad (k : Nat) (x : Queue) : (s.setQueue k x).bad = s.bad := rfl
@[simp] theorem State.setQueue_memOps (k : Nat) (x : Queue) : (s.setQueue k x).memOps = s.memOps := rfl
@[simp] theorem State.setQueue_cmds (k : Nat) (x : Queue) : (s.setQueue k x).cmds = s.cmds := rfl
@[simp] theorem State.setQueue_wrecs (k : Nat) (x : Queue) : (s.setQueue k x).wrecs = s.wrecs := rfl
@[simp] theorem State.setQueue_mesh (k : Nat) (x : Queue) : (s.setQueue k x).mesh = s.mesh := rfl
@[simp] theorem State.setQueue_queues (k : Nat) (x : Queue) : (s.setQueue k x).queues = Map.put s.queues k x := rfl
@[simp] theorem State.setQueue_ports (k : Nat) (x : Queue) : (s.setQueue k x).ports = s.ports := rfl
@[simp] theorem State.setQueue_retained (k : Nat) (x : Queue) : (s.setQueue k x).retained = s.retained := rfl
@[simp] theorem State.setQueue_qops (k : Nat) (x : Queue) : (s.setQueue k x).qops = s.qops := rfl
@[simp] theorem State.setQueue_sent (k : Nat) (x : Queue) : (s.setQueue k x).sent = s.sent := rfl
@[simp] theorem State.setQueue_qmsgs (k : Nat) (x : Queue) : (s.setQueue k x).qmsgs = s.qmsgs := rfl
@[simp] theorem State.setQueue_streams (k : Nat) (x : Queue) : (s.setQueue k x).streams = s.streams := rfl
@[simp] theorem State.setQueue_netMsgs (k : Nat) (x : Queue) : (s.setQueue k x).netMsgs = s.netMsgs := rfl
@[simp] theorem State.setQueue_links (k : Nat) (x : Queue) : (s.setQueue k x).links = s.links := rfl
@[simp] theorem State.setQueue_fabric (k : Nat) (x : Queue) : (s.setQueue k x).fabric = s.fabric := rfl
@[simp] theorem State.setQueue_channels (k : Nat) (x : Queue) : (s.setQueue k x).channels = s.channels := rfl
@[simp] theorem State.setQueue_responses (k : Nat) (x : Queue) : (s.setQueue k x).responses = s.responses := rfl

/-! ### modPort -/

@[simp] theorem State.modPort_module (k : Nat) (f : Port → Port) : (s.modPort k f).module = s.module := rfl
@[simp] theorem State.modPort_now (k : Nat) (f : Port → Port) : (s.modPort k f).now = s.now := rfl
@[simp] theorem State.modPort_draws (k : Nat) (f : Port → Port) : (s.modPort k f).draws = s.draws := rfl
@[simp] theorem State.modPort_fresh (k : Nat) (f : Port → Port) : (s.modPort k f).fresh = s.fresh := rfl
@[simp] theorem State.modPort_pending (k : Nat) (f : Port → Port) : (s.modPort k f).pending = s.pending := rfl
@[simp] theorem State.modPort_chans (k : Nat) (f : Port → Port) : (s.modPort k f).chans = s.chans := rfl
@[simp] theorem State.modPort_inputs (k : Nat) (f : Port → Port) : (s.modPort k f).inputs = s.inputs := rfl
@[simp] theorem State.modPort_todo (k : Nat) (f : Port → Port) : (s.modPort k f).todo = s.todo := rfl
@[simp] theorem State.modPort_issue (k : Nat) (f : Port → Port) : (s.modPort k f).issue = s.issue := rfl
@[simp] theorem State.modPort_cur (k : Nat) (f : Port → Port) : (s.modPort k f).cur = s.cur := rfl
@[simp] theorem State.modPort_dies (k : Nat) (f : Port → Port) : (s.modPort k f).dies = s.dies := rfl
@[simp] theorem State.modPort_cores (k : Nat) (f : Port → Port) : (s.modPort k f).cores = s.cores := rfl
@[simp] theorem State.modPort_quarters (k : Nat) (f : Port → Port) : (s.modPort k f).quarters = s.quarters := rfl
@[simp] theorem State.modPort_groups (k : Nat) (f : Port → Port) : (s.modPort k f).groups = s.groups := rfl
@[simp] theorem State.modPort_teams (k : Nat) (f : Port → Port) : (s.modPort k f).teams = s.teams := rfl
@[simp] theorem State.modPort_plots (k : Nat) (f : Port → Port) : (s.modPort k f).plots = s.plots := rfl
@[simp] theorem State.modPort_grids (k : Nat) (f : Port → Port) : (s.modPort k f).grids = s.grids := rfl
@[simp] theorem State.modPort_pools (k : Nat) (f : Port → Port) : (s.modPort k f).pools = s.pools := rfl
@[simp] theorem State.modPort_contexts (k : Nat) (f : Port → Port) : (s.modPort k f).contexts = s.contexts := rfl
@[simp] theorem State.modPort_hbm (k : Nat) (f : Port → Port) : (s.modPort k f).hbm = s.hbm := rfl
@[simp] theorem State.modPort_scratch (k : Nat) (f : Port → Port) : (s.modPort k f).scratch = s.scratch := rfl
@[simp] theorem State.modPort_team (k : Nat) (f : Port → Port) : (s.modPort k f).team = s.team := rfl
@[simp] theorem State.modPort_tiles (k : Nat) (f : Port → Port) : (s.modPort k f).tiles = s.tiles := rfl
@[simp] theorem State.modPort_bad (k : Nat) (f : Port → Port) : (s.modPort k f).bad = s.bad := rfl
@[simp] theorem State.modPort_memOps (k : Nat) (f : Port → Port) : (s.modPort k f).memOps = s.memOps := rfl
@[simp] theorem State.modPort_cmds (k : Nat) (f : Port → Port) : (s.modPort k f).cmds = s.cmds := rfl
@[simp] theorem State.modPort_wrecs (k : Nat) (f : Port → Port) : (s.modPort k f).wrecs = s.wrecs := rfl
@[simp] theorem State.modPort_mesh (k : Nat) (f : Port → Port) : (s.modPort k f).mesh = s.mesh := rfl
@[simp] theorem State.modPort_queues (k : Nat) (f : Port → Port) : (s.modPort k f).queues = s.queues := rfl
@[simp] theorem State.modPort_ports (k : Nat) (f : Port → Port) : (s.modPort k f).ports = Map.put s.ports k (f (s.portAt k)) := rfl
@[simp] theorem State.modPort_retained (k : Nat) (f : Port → Port) : (s.modPort k f).retained = s.retained := rfl
@[simp] theorem State.modPort_qops (k : Nat) (f : Port → Port) : (s.modPort k f).qops = s.qops := rfl
@[simp] theorem State.modPort_sent (k : Nat) (f : Port → Port) : (s.modPort k f).sent = s.sent := rfl
@[simp] theorem State.modPort_qmsgs (k : Nat) (f : Port → Port) : (s.modPort k f).qmsgs = s.qmsgs := rfl
@[simp] theorem State.modPort_streams (k : Nat) (f : Port → Port) : (s.modPort k f).streams = s.streams := rfl
@[simp] theorem State.modPort_netMsgs (k : Nat) (f : Port → Port) : (s.modPort k f).netMsgs = s.netMsgs := rfl
@[simp] theorem State.modPort_links (k : Nat) (f : Port → Port) : (s.modPort k f).links = s.links := rfl
@[simp] theorem State.modPort_fabric (k : Nat) (f : Port → Port) : (s.modPort k f).fabric = s.fabric := rfl
@[simp] theorem State.modPort_channels (k : Nat) (f : Port → Port) : (s.modPort k f).channels = s.channels := rfl
@[simp] theorem State.modPort_responses (k : Nat) (f : Port → Port) : (s.modPort k f).responses = s.responses := rfl

/-! ### modStream -/

@[simp] theorem State.modStream_module (k : Nat) (f : Stream → Stream) : (s.modStream k f).module = s.module := rfl
@[simp] theorem State.modStream_now (k : Nat) (f : Stream → Stream) : (s.modStream k f).now = s.now := rfl
@[simp] theorem State.modStream_draws (k : Nat) (f : Stream → Stream) : (s.modStream k f).draws = s.draws := rfl
@[simp] theorem State.modStream_fresh (k : Nat) (f : Stream → Stream) : (s.modStream k f).fresh = s.fresh := rfl
@[simp] theorem State.modStream_pending (k : Nat) (f : Stream → Stream) : (s.modStream k f).pending = s.pending := rfl
@[simp] theorem State.modStream_chans (k : Nat) (f : Stream → Stream) : (s.modStream k f).chans = s.chans := rfl
@[simp] theorem State.modStream_inputs (k : Nat) (f : Stream → Stream) : (s.modStream k f).inputs = s.inputs := rfl
@[simp] theorem State.modStream_todo (k : Nat) (f : Stream → Stream) : (s.modStream k f).todo = s.todo := rfl
@[simp] theorem State.modStream_issue (k : Nat) (f : Stream → Stream) : (s.modStream k f).issue = s.issue := rfl
@[simp] theorem State.modStream_cur (k : Nat) (f : Stream → Stream) : (s.modStream k f).cur = s.cur := rfl
@[simp] theorem State.modStream_dies (k : Nat) (f : Stream → Stream) : (s.modStream k f).dies = s.dies := rfl
@[simp] theorem State.modStream_cores (k : Nat) (f : Stream → Stream) : (s.modStream k f).cores = s.cores := rfl
@[simp] theorem State.modStream_quarters (k : Nat) (f : Stream → Stream) : (s.modStream k f).quarters = s.quarters := rfl
@[simp] theorem State.modStream_groups (k : Nat) (f : Stream → Stream) : (s.modStream k f).groups = s.groups := rfl
@[simp] theorem State.modStream_teams (k : Nat) (f : Stream → Stream) : (s.modStream k f).teams = s.teams := rfl
@[simp] theorem State.modStream_plots (k : Nat) (f : Stream → Stream) : (s.modStream k f).plots = s.plots := rfl
@[simp] theorem State.modStream_grids (k : Nat) (f : Stream → Stream) : (s.modStream k f).grids = s.grids := rfl
@[simp] theorem State.modStream_pools (k : Nat) (f : Stream → Stream) : (s.modStream k f).pools = s.pools := rfl
@[simp] theorem State.modStream_contexts (k : Nat) (f : Stream → Stream) : (s.modStream k f).contexts = s.contexts := rfl
@[simp] theorem State.modStream_hbm (k : Nat) (f : Stream → Stream) : (s.modStream k f).hbm = s.hbm := rfl
@[simp] theorem State.modStream_scratch (k : Nat) (f : Stream → Stream) : (s.modStream k f).scratch = s.scratch := rfl
@[simp] theorem State.modStream_team (k : Nat) (f : Stream → Stream) : (s.modStream k f).team = s.team := rfl
@[simp] theorem State.modStream_tiles (k : Nat) (f : Stream → Stream) : (s.modStream k f).tiles = s.tiles := rfl
@[simp] theorem State.modStream_bad (k : Nat) (f : Stream → Stream) : (s.modStream k f).bad = s.bad := rfl
@[simp] theorem State.modStream_memOps (k : Nat) (f : Stream → Stream) : (s.modStream k f).memOps = s.memOps := rfl
@[simp] theorem State.modStream_cmds (k : Nat) (f : Stream → Stream) : (s.modStream k f).cmds = s.cmds := rfl
@[simp] theorem State.modStream_wrecs (k : Nat) (f : Stream → Stream) : (s.modStream k f).wrecs = s.wrecs := rfl
@[simp] theorem State.modStream_mesh (k : Nat) (f : Stream → Stream) : (s.modStream k f).mesh = s.mesh := rfl
@[simp] theorem State.modStream_queues (k : Nat) (f : Stream → Stream) : (s.modStream k f).queues = s.queues := rfl
@[simp] theorem State.modStream_ports (k : Nat) (f : Stream → Stream) : (s.modStream k f).ports = s.ports := rfl
@[simp] theorem State.modStream_retained (k : Nat) (f : Stream → Stream) : (s.modStream k f).retained = s.retained := rfl
@[simp] theorem State.modStream_qops (k : Nat) (f : Stream → Stream) : (s.modStream k f).qops = s.qops := rfl
@[simp] theorem State.modStream_sent (k : Nat) (f : Stream → Stream) : (s.modStream k f).sent = s.sent := rfl
@[simp] theorem State.modStream_qmsgs (k : Nat) (f : Stream → Stream) : (s.modStream k f).qmsgs = s.qmsgs := rfl
@[simp] theorem State.modStream_streams (k : Nat) (f : Stream → Stream) : (s.modStream k f).streams = Map.put s.streams k (f (s.streamAt k)) := rfl
@[simp] theorem State.modStream_netMsgs (k : Nat) (f : Stream → Stream) : (s.modStream k f).netMsgs = s.netMsgs := rfl
@[simp] theorem State.modStream_links (k : Nat) (f : Stream → Stream) : (s.modStream k f).links = s.links := rfl
@[simp] theorem State.modStream_fabric (k : Nat) (f : Stream → Stream) : (s.modStream k f).fabric = s.fabric := rfl
@[simp] theorem State.modStream_channels (k : Nat) (f : Stream → Stream) : (s.modStream k f).channels = s.channels := rfl
@[simp] theorem State.modStream_responses (k : Nat) (f : Stream → Stream) : (s.modStream k f).responses = s.responses := rfl

/-! ### modLink -/

@[simp] theorem State.modLink_module (k : Nat) (f : Link → Link) : (s.modLink k f).module = s.module := rfl
@[simp] theorem State.modLink_now (k : Nat) (f : Link → Link) : (s.modLink k f).now = s.now := rfl
@[simp] theorem State.modLink_draws (k : Nat) (f : Link → Link) : (s.modLink k f).draws = s.draws := rfl
@[simp] theorem State.modLink_fresh (k : Nat) (f : Link → Link) : (s.modLink k f).fresh = s.fresh := rfl
@[simp] theorem State.modLink_pending (k : Nat) (f : Link → Link) : (s.modLink k f).pending = s.pending := rfl
@[simp] theorem State.modLink_chans (k : Nat) (f : Link → Link) : (s.modLink k f).chans = s.chans := rfl
@[simp] theorem State.modLink_inputs (k : Nat) (f : Link → Link) : (s.modLink k f).inputs = s.inputs := rfl
@[simp] theorem State.modLink_todo (k : Nat) (f : Link → Link) : (s.modLink k f).todo = s.todo := rfl
@[simp] theorem State.modLink_issue (k : Nat) (f : Link → Link) : (s.modLink k f).issue = s.issue := rfl
@[simp] theorem State.modLink_cur (k : Nat) (f : Link → Link) : (s.modLink k f).cur = s.cur := rfl
@[simp] theorem State.modLink_dies (k : Nat) (f : Link → Link) : (s.modLink k f).dies = s.dies := rfl
@[simp] theorem State.modLink_cores (k : Nat) (f : Link → Link) : (s.modLink k f).cores = s.cores := rfl
@[simp] theorem State.modLink_quarters (k : Nat) (f : Link → Link) : (s.modLink k f).quarters = s.quarters := rfl
@[simp] theorem State.modLink_groups (k : Nat) (f : Link → Link) : (s.modLink k f).groups = s.groups := rfl
@[simp] theorem State.modLink_teams (k : Nat) (f : Link → Link) : (s.modLink k f).teams = s.teams := rfl
@[simp] theorem State.modLink_plots (k : Nat) (f : Link → Link) : (s.modLink k f).plots = s.plots := rfl
@[simp] theorem State.modLink_grids (k : Nat) (f : Link → Link) : (s.modLink k f).grids = s.grids := rfl
@[simp] theorem State.modLink_pools (k : Nat) (f : Link → Link) : (s.modLink k f).pools = s.pools := rfl
@[simp] theorem State.modLink_contexts (k : Nat) (f : Link → Link) : (s.modLink k f).contexts = s.contexts := rfl
@[simp] theorem State.modLink_hbm (k : Nat) (f : Link → Link) : (s.modLink k f).hbm = s.hbm := rfl
@[simp] theorem State.modLink_scratch (k : Nat) (f : Link → Link) : (s.modLink k f).scratch = s.scratch := rfl
@[simp] theorem State.modLink_team (k : Nat) (f : Link → Link) : (s.modLink k f).team = s.team := rfl
@[simp] theorem State.modLink_tiles (k : Nat) (f : Link → Link) : (s.modLink k f).tiles = s.tiles := rfl
@[simp] theorem State.modLink_bad (k : Nat) (f : Link → Link) : (s.modLink k f).bad = s.bad := rfl
@[simp] theorem State.modLink_memOps (k : Nat) (f : Link → Link) : (s.modLink k f).memOps = s.memOps := rfl
@[simp] theorem State.modLink_cmds (k : Nat) (f : Link → Link) : (s.modLink k f).cmds = s.cmds := rfl
@[simp] theorem State.modLink_wrecs (k : Nat) (f : Link → Link) : (s.modLink k f).wrecs = s.wrecs := rfl
@[simp] theorem State.modLink_mesh (k : Nat) (f : Link → Link) : (s.modLink k f).mesh = s.mesh := rfl
@[simp] theorem State.modLink_queues (k : Nat) (f : Link → Link) : (s.modLink k f).queues = s.queues := rfl
@[simp] theorem State.modLink_ports (k : Nat) (f : Link → Link) : (s.modLink k f).ports = s.ports := rfl
@[simp] theorem State.modLink_retained (k : Nat) (f : Link → Link) : (s.modLink k f).retained = s.retained := rfl
@[simp] theorem State.modLink_qops (k : Nat) (f : Link → Link) : (s.modLink k f).qops = s.qops := rfl
@[simp] theorem State.modLink_sent (k : Nat) (f : Link → Link) : (s.modLink k f).sent = s.sent := rfl
@[simp] theorem State.modLink_qmsgs (k : Nat) (f : Link → Link) : (s.modLink k f).qmsgs = s.qmsgs := rfl
@[simp] theorem State.modLink_streams (k : Nat) (f : Link → Link) : (s.modLink k f).streams = s.streams := rfl
@[simp] theorem State.modLink_netMsgs (k : Nat) (f : Link → Link) : (s.modLink k f).netMsgs = s.netMsgs := rfl
@[simp] theorem State.modLink_links (k : Nat) (f : Link → Link) : (s.modLink k f).links = Map.put s.links k (f (s.linkAt k)) := rfl
@[simp] theorem State.modLink_fabric (k : Nat) (f : Link → Link) : (s.modLink k f).fabric = s.fabric := rfl
@[simp] theorem State.modLink_channels (k : Nat) (f : Link → Link) : (s.modLink k f).channels = s.channels := rfl
@[simp] theorem State.modLink_responses (k : Nat) (f : Link → Link) : (s.modLink k f).responses = s.responses := rfl

/-! ### modFabric -/

@[simp] theorem State.modFabric_module (k : Nat) (f : FabricPort → FabricPort) : (s.modFabric k f).module = s.module := rfl
@[simp] theorem State.modFabric_now (k : Nat) (f : FabricPort → FabricPort) : (s.modFabric k f).now = s.now := rfl
@[simp] theorem State.modFabric_draws (k : Nat) (f : FabricPort → FabricPort) : (s.modFabric k f).draws = s.draws := rfl
@[simp] theorem State.modFabric_fresh (k : Nat) (f : FabricPort → FabricPort) : (s.modFabric k f).fresh = s.fresh := rfl
@[simp] theorem State.modFabric_pending (k : Nat) (f : FabricPort → FabricPort) : (s.modFabric k f).pending = s.pending := rfl
@[simp] theorem State.modFabric_chans (k : Nat) (f : FabricPort → FabricPort) : (s.modFabric k f).chans = s.chans := rfl
@[simp] theorem State.modFabric_inputs (k : Nat) (f : FabricPort → FabricPort) : (s.modFabric k f).inputs = s.inputs := rfl
@[simp] theorem State.modFabric_todo (k : Nat) (f : FabricPort → FabricPort) : (s.modFabric k f).todo = s.todo := rfl
@[simp] theorem State.modFabric_issue (k : Nat) (f : FabricPort → FabricPort) : (s.modFabric k f).issue = s.issue := rfl
@[simp] theorem State.modFabric_cur (k : Nat) (f : FabricPort → FabricPort) : (s.modFabric k f).cur = s.cur := rfl
@[simp] theorem State.modFabric_dies (k : Nat) (f : FabricPort → FabricPort) : (s.modFabric k f).dies = s.dies := rfl
@[simp] theorem State.modFabric_cores (k : Nat) (f : FabricPort → FabricPort) : (s.modFabric k f).cores = s.cores := rfl
@[simp] theorem State.modFabric_quarters (k : Nat) (f : FabricPort → FabricPort) : (s.modFabric k f).quarters = s.quarters := rfl
@[simp] theorem State.modFabric_groups (k : Nat) (f : FabricPort → FabricPort) : (s.modFabric k f).groups = s.groups := rfl
@[simp] theorem State.modFabric_teams (k : Nat) (f : FabricPort → FabricPort) : (s.modFabric k f).teams = s.teams := rfl
@[simp] theorem State.modFabric_plots (k : Nat) (f : FabricPort → FabricPort) : (s.modFabric k f).plots = s.plots := rfl
@[simp] theorem State.modFabric_grids (k : Nat) (f : FabricPort → FabricPort) : (s.modFabric k f).grids = s.grids := rfl
@[simp] theorem State.modFabric_pools (k : Nat) (f : FabricPort → FabricPort) : (s.modFabric k f).pools = s.pools := rfl
@[simp] theorem State.modFabric_contexts (k : Nat) (f : FabricPort → FabricPort) : (s.modFabric k f).contexts = s.contexts := rfl
@[simp] theorem State.modFabric_hbm (k : Nat) (f : FabricPort → FabricPort) : (s.modFabric k f).hbm = s.hbm := rfl
@[simp] theorem State.modFabric_scratch (k : Nat) (f : FabricPort → FabricPort) : (s.modFabric k f).scratch = s.scratch := rfl
@[simp] theorem State.modFabric_team (k : Nat) (f : FabricPort → FabricPort) : (s.modFabric k f).team = s.team := rfl
@[simp] theorem State.modFabric_tiles (k : Nat) (f : FabricPort → FabricPort) : (s.modFabric k f).tiles = s.tiles := rfl
@[simp] theorem State.modFabric_bad (k : Nat) (f : FabricPort → FabricPort) : (s.modFabric k f).bad = s.bad := rfl
@[simp] theorem State.modFabric_memOps (k : Nat) (f : FabricPort → FabricPort) : (s.modFabric k f).memOps = s.memOps := rfl
@[simp] theorem State.modFabric_cmds (k : Nat) (f : FabricPort → FabricPort) : (s.modFabric k f).cmds = s.cmds := rfl
@[simp] theorem State.modFabric_wrecs (k : Nat) (f : FabricPort → FabricPort) : (s.modFabric k f).wrecs = s.wrecs := rfl
@[simp] theorem State.modFabric_mesh (k : Nat) (f : FabricPort → FabricPort) : (s.modFabric k f).mesh = s.mesh := rfl
@[simp] theorem State.modFabric_queues (k : Nat) (f : FabricPort → FabricPort) : (s.modFabric k f).queues = s.queues := rfl
@[simp] theorem State.modFabric_ports (k : Nat) (f : FabricPort → FabricPort) : (s.modFabric k f).ports = s.ports := rfl
@[simp] theorem State.modFabric_retained (k : Nat) (f : FabricPort → FabricPort) : (s.modFabric k f).retained = s.retained := rfl
@[simp] theorem State.modFabric_qops (k : Nat) (f : FabricPort → FabricPort) : (s.modFabric k f).qops = s.qops := rfl
@[simp] theorem State.modFabric_sent (k : Nat) (f : FabricPort → FabricPort) : (s.modFabric k f).sent = s.sent := rfl
@[simp] theorem State.modFabric_qmsgs (k : Nat) (f : FabricPort → FabricPort) : (s.modFabric k f).qmsgs = s.qmsgs := rfl
@[simp] theorem State.modFabric_streams (k : Nat) (f : FabricPort → FabricPort) : (s.modFabric k f).streams = s.streams := rfl
@[simp] theorem State.modFabric_netMsgs (k : Nat) (f : FabricPort → FabricPort) : (s.modFabric k f).netMsgs = s.netMsgs := rfl
@[simp] theorem State.modFabric_links (k : Nat) (f : FabricPort → FabricPort) : (s.modFabric k f).links = s.links := rfl
@[simp] theorem State.modFabric_fabric (k : Nat) (f : FabricPort → FabricPort) : (s.modFabric k f).fabric = Map.put s.fabric k (f (s.fabricAt k)) := rfl
@[simp] theorem State.modFabric_channels (k : Nat) (f : FabricPort → FabricPort) : (s.modFabric k f).channels = s.channels := rfl
@[simp] theorem State.modFabric_responses (k : Nat) (f : FabricPort → FabricPort) : (s.modFabric k f).responses = s.responses := rfl

/-! ### modChan -/

@[simp] theorem State.modChan_module (k : Nat) (f : Channel → Channel) : (s.modChan k f).module = s.module := rfl
@[simp] theorem State.modChan_now (k : Nat) (f : Channel → Channel) : (s.modChan k f).now = s.now := rfl
@[simp] theorem State.modChan_draws (k : Nat) (f : Channel → Channel) : (s.modChan k f).draws = s.draws := rfl
@[simp] theorem State.modChan_fresh (k : Nat) (f : Channel → Channel) : (s.modChan k f).fresh = s.fresh := rfl
@[simp] theorem State.modChan_pending (k : Nat) (f : Channel → Channel) : (s.modChan k f).pending = s.pending := rfl
@[simp] theorem State.modChan_chans (k : Nat) (f : Channel → Channel) : (s.modChan k f).chans = s.chans := rfl
@[simp] theorem State.modChan_inputs (k : Nat) (f : Channel → Channel) : (s.modChan k f).inputs = s.inputs := rfl
@[simp] theorem State.modChan_todo (k : Nat) (f : Channel → Channel) : (s.modChan k f).todo = s.todo := rfl
@[simp] theorem State.modChan_issue (k : Nat) (f : Channel → Channel) : (s.modChan k f).issue = s.issue := rfl
@[simp] theorem State.modChan_cur (k : Nat) (f : Channel → Channel) : (s.modChan k f).cur = s.cur := rfl
@[simp] theorem State.modChan_dies (k : Nat) (f : Channel → Channel) : (s.modChan k f).dies = s.dies := rfl
@[simp] theorem State.modChan_cores (k : Nat) (f : Channel → Channel) : (s.modChan k f).cores = s.cores := rfl
@[simp] theorem State.modChan_quarters (k : Nat) (f : Channel → Channel) : (s.modChan k f).quarters = s.quarters := rfl
@[simp] theorem State.modChan_groups (k : Nat) (f : Channel → Channel) : (s.modChan k f).groups = s.groups := rfl
@[simp] theorem State.modChan_teams (k : Nat) (f : Channel → Channel) : (s.modChan k f).teams = s.teams := rfl
@[simp] theorem State.modChan_plots (k : Nat) (f : Channel → Channel) : (s.modChan k f).plots = s.plots := rfl
@[simp] theorem State.modChan_grids (k : Nat) (f : Channel → Channel) : (s.modChan k f).grids = s.grids := rfl
@[simp] theorem State.modChan_pools (k : Nat) (f : Channel → Channel) : (s.modChan k f).pools = s.pools := rfl
@[simp] theorem State.modChan_contexts (k : Nat) (f : Channel → Channel) : (s.modChan k f).contexts = s.contexts := rfl
@[simp] theorem State.modChan_hbm (k : Nat) (f : Channel → Channel) : (s.modChan k f).hbm = s.hbm := rfl
@[simp] theorem State.modChan_scratch (k : Nat) (f : Channel → Channel) : (s.modChan k f).scratch = s.scratch := rfl
@[simp] theorem State.modChan_team (k : Nat) (f : Channel → Channel) : (s.modChan k f).team = s.team := rfl
@[simp] theorem State.modChan_tiles (k : Nat) (f : Channel → Channel) : (s.modChan k f).tiles = s.tiles := rfl
@[simp] theorem State.modChan_bad (k : Nat) (f : Channel → Channel) : (s.modChan k f).bad = s.bad := rfl
@[simp] theorem State.modChan_memOps (k : Nat) (f : Channel → Channel) : (s.modChan k f).memOps = s.memOps := rfl
@[simp] theorem State.modChan_cmds (k : Nat) (f : Channel → Channel) : (s.modChan k f).cmds = s.cmds := rfl
@[simp] theorem State.modChan_wrecs (k : Nat) (f : Channel → Channel) : (s.modChan k f).wrecs = s.wrecs := rfl
@[simp] theorem State.modChan_mesh (k : Nat) (f : Channel → Channel) : (s.modChan k f).mesh = s.mesh := rfl
@[simp] theorem State.modChan_queues (k : Nat) (f : Channel → Channel) : (s.modChan k f).queues = s.queues := rfl
@[simp] theorem State.modChan_ports (k : Nat) (f : Channel → Channel) : (s.modChan k f).ports = s.ports := rfl
@[simp] theorem State.modChan_retained (k : Nat) (f : Channel → Channel) : (s.modChan k f).retained = s.retained := rfl
@[simp] theorem State.modChan_qops (k : Nat) (f : Channel → Channel) : (s.modChan k f).qops = s.qops := rfl
@[simp] theorem State.modChan_sent (k : Nat) (f : Channel → Channel) : (s.modChan k f).sent = s.sent := rfl
@[simp] theorem State.modChan_qmsgs (k : Nat) (f : Channel → Channel) : (s.modChan k f).qmsgs = s.qmsgs := rfl
@[simp] theorem State.modChan_streams (k : Nat) (f : Channel → Channel) : (s.modChan k f).streams = s.streams := rfl
@[simp] theorem State.modChan_netMsgs (k : Nat) (f : Channel → Channel) : (s.modChan k f).netMsgs = s.netMsgs := rfl
@[simp] theorem State.modChan_links (k : Nat) (f : Channel → Channel) : (s.modChan k f).links = s.links := rfl
@[simp] theorem State.modChan_fabric (k : Nat) (f : Channel → Channel) : (s.modChan k f).fabric = s.fabric := rfl
@[simp] theorem State.modChan_channels (k : Nat) (f : Channel → Channel) : (s.modChan k f).channels = Map.put s.channels k (f (s.chanAt k)) := rfl
@[simp] theorem State.modChan_responses (k : Nat) (f : Channel → Channel) : (s.modChan k f).responses = s.responses := rfl

/-! ### at_ -/

@[simp] theorem State.at_module (t p : Nat) (e : Ev) : (s.at_ t p e).module = s.module := rfl
@[simp] theorem State.at_now (t p : Nat) (e : Ev) : (s.at_ t p e).now = s.now := rfl
@[simp] theorem State.at_draws (t p : Nat) (e : Ev) : (s.at_ t p e).draws = s.draws := rfl
@[simp] theorem State.at_fresh (t p : Nat) (e : Ev) : (s.at_ t p e).fresh = s.fresh := rfl
@[simp] theorem State.at_pending (t p : Nat) (e : Ev) : (s.at_ t p e).pending = insertDue ⟨t, p, e⟩ s.pending := rfl
@[simp] theorem State.at_chans (t p : Nat) (e : Ev) : (s.at_ t p e).chans = s.chans := rfl
@[simp] theorem State.at_inputs (t p : Nat) (e : Ev) : (s.at_ t p e).inputs = s.inputs := rfl
@[simp] theorem State.at_todo (t p : Nat) (e : Ev) : (s.at_ t p e).todo = s.todo := rfl
@[simp] theorem State.at_issue (t p : Nat) (e : Ev) : (s.at_ t p e).issue = s.issue := rfl
@[simp] theorem State.at_cur (t p : Nat) (e : Ev) : (s.at_ t p e).cur = s.cur := rfl
@[simp] theorem State.at_dies (t p : Nat) (e : Ev) : (s.at_ t p e).dies = s.dies := rfl
@[simp] theorem State.at_cores (t p : Nat) (e : Ev) : (s.at_ t p e).cores = s.cores := rfl
@[simp] theorem State.at_quarters (t p : Nat) (e : Ev) : (s.at_ t p e).quarters = s.quarters := rfl
@[simp] theorem State.at_groups (t p : Nat) (e : Ev) : (s.at_ t p e).groups = s.groups := rfl
@[simp] theorem State.at_teams (t p : Nat) (e : Ev) : (s.at_ t p e).teams = s.teams := rfl
@[simp] theorem State.at_plots (t p : Nat) (e : Ev) : (s.at_ t p e).plots = s.plots := rfl
@[simp] theorem State.at_grids (t p : Nat) (e : Ev) : (s.at_ t p e).grids = s.grids := rfl
@[simp] theorem State.at_pools (t p : Nat) (e : Ev) : (s.at_ t p e).pools = s.pools := rfl
@[simp] theorem State.at_contexts (t p : Nat) (e : Ev) : (s.at_ t p e).contexts = s.contexts := rfl
@[simp] theorem State.at_hbm (t p : Nat) (e : Ev) : (s.at_ t p e).hbm = s.hbm := rfl
@[simp] theorem State.at_scratch (t p : Nat) (e : Ev) : (s.at_ t p e).scratch = s.scratch := rfl
@[simp] theorem State.at_team (t p : Nat) (e : Ev) : (s.at_ t p e).team = s.team := rfl
@[simp] theorem State.at_tiles (t p : Nat) (e : Ev) : (s.at_ t p e).tiles = s.tiles := rfl
@[simp] theorem State.at_bad (t p : Nat) (e : Ev) : (s.at_ t p e).bad = s.bad := rfl
@[simp] theorem State.at_memOps (t p : Nat) (e : Ev) : (s.at_ t p e).memOps = s.memOps := rfl
@[simp] theorem State.at_cmds (t p : Nat) (e : Ev) : (s.at_ t p e).cmds = s.cmds := rfl
@[simp] theorem State.at_wrecs (t p : Nat) (e : Ev) : (s.at_ t p e).wrecs = s.wrecs := rfl
@[simp] theorem State.at_mesh (t p : Nat) (e : Ev) : (s.at_ t p e).mesh = s.mesh := rfl
@[simp] theorem State.at_queues (t p : Nat) (e : Ev) : (s.at_ t p e).queues = s.queues := rfl
@[simp] theorem State.at_ports (t p : Nat) (e : Ev) : (s.at_ t p e).ports = s.ports := rfl
@[simp] theorem State.at_retained (t p : Nat) (e : Ev) : (s.at_ t p e).retained = s.retained := rfl
@[simp] theorem State.at_qops (t p : Nat) (e : Ev) : (s.at_ t p e).qops = s.qops := rfl
@[simp] theorem State.at_sent (t p : Nat) (e : Ev) : (s.at_ t p e).sent = s.sent := rfl
@[simp] theorem State.at_qmsgs (t p : Nat) (e : Ev) : (s.at_ t p e).qmsgs = s.qmsgs := rfl
@[simp] theorem State.at_streams (t p : Nat) (e : Ev) : (s.at_ t p e).streams = s.streams := rfl
@[simp] theorem State.at_netMsgs (t p : Nat) (e : Ev) : (s.at_ t p e).netMsgs = s.netMsgs := rfl
@[simp] theorem State.at_links (t p : Nat) (e : Ev) : (s.at_ t p e).links = s.links := rfl
@[simp] theorem State.at_fabric (t p : Nat) (e : Ev) : (s.at_ t p e).fabric = s.fabric := rfl
@[simp] theorem State.at_channels (t p : Nat) (e : Ev) : (s.at_ t p e).channels = s.channels := rfl
@[simp] theorem State.at_responses (t p : Nat) (e : Ev) : (s.at_ t p e).responses = s.responses := rfl

/-! ### tallyCore -/

@[simp] theorem State.tallyCore_module (k : Nat) (e : Source) (n : Nat) : (s.tallyCore k e n).module = s.module := rfl
@[simp] theorem State.tallyCore_now (k : Nat) (e : Source) (n : Nat) : (s.tallyCore k e n).now = s.now := rfl
@[simp] theorem State.tallyCore_draws (k : Nat) (e : Source) (n : Nat) : (s.tallyCore k e n).draws = s.draws := rfl
@[simp] theorem State.tallyCore_fresh (k : Nat) (e : Source) (n : Nat) : (s.tallyCore k e n).fresh = s.fresh := rfl
@[simp] theorem State.tallyCore_pending (k : Nat) (e : Source) (n : Nat) : (s.tallyCore k e n).pending = s.pending := rfl
@[simp] theorem State.tallyCore_chans (k : Nat) (e : Source) (n : Nat) : (s.tallyCore k e n).chans = s.chans := rfl
@[simp] theorem State.tallyCore_inputs (k : Nat) (e : Source) (n : Nat) : (s.tallyCore k e n).inputs = s.inputs := rfl
@[simp] theorem State.tallyCore_todo (k : Nat) (e : Source) (n : Nat) : (s.tallyCore k e n).todo = s.todo := rfl
@[simp] theorem State.tallyCore_issue (k : Nat) (e : Source) (n : Nat) : (s.tallyCore k e n).issue = s.issue := rfl
@[simp] theorem State.tallyCore_cur (k : Nat) (e : Source) (n : Nat) : (s.tallyCore k e n).cur = s.cur := rfl
@[simp] theorem State.tallyCore_dies (k : Nat) (e : Source) (n : Nat) : (s.tallyCore k e n).dies = s.dies := rfl
@[simp] theorem State.tallyCore_quarters (k : Nat) (e : Source) (n : Nat) : (s.tallyCore k e n).quarters = s.quarters := rfl
@[simp] theorem State.tallyCore_groups (k : Nat) (e : Source) (n : Nat) : (s.tallyCore k e n).groups = s.groups := rfl
@[simp] theorem State.tallyCore_teams (k : Nat) (e : Source) (n : Nat) : (s.tallyCore k e n).teams = s.teams := rfl
@[simp] theorem State.tallyCore_plots (k : Nat) (e : Source) (n : Nat) : (s.tallyCore k e n).plots = s.plots := rfl
@[simp] theorem State.tallyCore_grids (k : Nat) (e : Source) (n : Nat) : (s.tallyCore k e n).grids = s.grids := rfl
@[simp] theorem State.tallyCore_pools (k : Nat) (e : Source) (n : Nat) : (s.tallyCore k e n).pools = s.pools := rfl
@[simp] theorem State.tallyCore_contexts (k : Nat) (e : Source) (n : Nat) : (s.tallyCore k e n).contexts = s.contexts := rfl
@[simp] theorem State.tallyCore_hbm (k : Nat) (e : Source) (n : Nat) : (s.tallyCore k e n).hbm = s.hbm := rfl
@[simp] theorem State.tallyCore_scratch (k : Nat) (e : Source) (n : Nat) : (s.tallyCore k e n).scratch = s.scratch := rfl
@[simp] theorem State.tallyCore_team (k : Nat) (e : Source) (n : Nat) : (s.tallyCore k e n).team = s.team := rfl
@[simp] theorem State.tallyCore_tiles (k : Nat) (e : Source) (n : Nat) : (s.tallyCore k e n).tiles = s.tiles := rfl
@[simp] theorem State.tallyCore_bad (k : Nat) (e : Source) (n : Nat) : (s.tallyCore k e n).bad = s.bad := rfl
@[simp] theorem State.tallyCore_memOps (k : Nat) (e : Source) (n : Nat) : (s.tallyCore k e n).memOps = s.memOps := rfl
@[simp] theorem State.tallyCore_cmds (k : Nat) (e : Source) (n : Nat) : (s.tallyCore k e n).cmds = s.cmds := rfl
@[simp] theorem State.tallyCore_wrecs (k : Nat) (e : Source) (n : Nat) : (s.tallyCore k e n).wrecs = s.wrecs := rfl
@[simp] theorem State.tallyCore_mesh (k : Nat) (e : Source) (n : Nat) : (s.tallyCore k e n).mesh = s.mesh := rfl
@[simp] theorem State.tallyCore_queues (k : Nat) (e : Source) (n : Nat) : (s.tallyCore k e n).queues = s.queues := rfl
@[simp] theorem State.tallyCore_ports (k : Nat) (e : Source) (n : Nat) : (s.tallyCore k e n).ports = s.ports := rfl
@[simp] theorem State.tallyCore_retained (k : Nat) (e : Source) (n : Nat) : (s.tallyCore k e n).retained = s.retained := rfl
@[simp] theorem State.tallyCore_qops (k : Nat) (e : Source) (n : Nat) : (s.tallyCore k e n).qops = s.qops := rfl
@[simp] theorem State.tallyCore_sent (k : Nat) (e : Source) (n : Nat) : (s.tallyCore k e n).sent = s.sent := rfl
@[simp] theorem State.tallyCore_qmsgs (k : Nat) (e : Source) (n : Nat) : (s.tallyCore k e n).qmsgs = s.qmsgs := rfl
@[simp] theorem State.tallyCore_streams (k : Nat) (e : Source) (n : Nat) : (s.tallyCore k e n).streams = s.streams := rfl
@[simp] theorem State.tallyCore_netMsgs (k : Nat) (e : Source) (n : Nat) : (s.tallyCore k e n).netMsgs = s.netMsgs := rfl
@[simp] theorem State.tallyCore_links (k : Nat) (e : Source) (n : Nat) : (s.tallyCore k e n).links = s.links := rfl
@[simp] theorem State.tallyCore_fabric (k : Nat) (e : Source) (n : Nat) : (s.tallyCore k e n).fabric = s.fabric := rfl
@[simp] theorem State.tallyCore_channels (k : Nat) (e : Source) (n : Nat) : (s.tallyCore k e n).channels = s.channels := rfl
@[simp] theorem State.tallyCore_responses (k : Nat) (e : Source) (n : Nat) : (s.tallyCore k e n).responses = s.responses := rfl

/-! ### tallyDie -/

@[simp] theorem State.tallyDie_module (d u : Nat) (e : Source) (n : Nat) : (s.tallyDie d u e n).module = s.module := rfl
@[simp] theorem State.tallyDie_now (d u : Nat) (e : Source) (n : Nat) : (s.tallyDie d u e n).now = s.now := rfl
@[simp] theorem State.tallyDie_draws (d u : Nat) (e : Source) (n : Nat) : (s.tallyDie d u e n).draws = s.draws := rfl
@[simp] theorem State.tallyDie_fresh (d u : Nat) (e : Source) (n : Nat) : (s.tallyDie d u e n).fresh = s.fresh := rfl
@[simp] theorem State.tallyDie_pending (d u : Nat) (e : Source) (n : Nat) : (s.tallyDie d u e n).pending = s.pending := rfl
@[simp] theorem State.tallyDie_chans (d u : Nat) (e : Source) (n : Nat) : (s.tallyDie d u e n).chans = s.chans := rfl
@[simp] theorem State.tallyDie_inputs (d u : Nat) (e : Source) (n : Nat) : (s.tallyDie d u e n).inputs = s.inputs := rfl
@[simp] theorem State.tallyDie_todo (d u : Nat) (e : Source) (n : Nat) : (s.tallyDie d u e n).todo = s.todo := rfl
@[simp] theorem State.tallyDie_issue (d u : Nat) (e : Source) (n : Nat) : (s.tallyDie d u e n).issue = s.issue := rfl
@[simp] theorem State.tallyDie_cur (d u : Nat) (e : Source) (n : Nat) : (s.tallyDie d u e n).cur = s.cur := rfl
@[simp] theorem State.tallyDie_cores (d u : Nat) (e : Source) (n : Nat) : (s.tallyDie d u e n).cores = s.cores := rfl
@[simp] theorem State.tallyDie_quarters (d u : Nat) (e : Source) (n : Nat) : (s.tallyDie d u e n).quarters = s.quarters := rfl
@[simp] theorem State.tallyDie_groups (d u : Nat) (e : Source) (n : Nat) : (s.tallyDie d u e n).groups = s.groups := rfl
@[simp] theorem State.tallyDie_teams (d u : Nat) (e : Source) (n : Nat) : (s.tallyDie d u e n).teams = s.teams := rfl
@[simp] theorem State.tallyDie_plots (d u : Nat) (e : Source) (n : Nat) : (s.tallyDie d u e n).plots = s.plots := rfl
@[simp] theorem State.tallyDie_grids (d u : Nat) (e : Source) (n : Nat) : (s.tallyDie d u e n).grids = s.grids := rfl
@[simp] theorem State.tallyDie_pools (d u : Nat) (e : Source) (n : Nat) : (s.tallyDie d u e n).pools = s.pools := rfl
@[simp] theorem State.tallyDie_contexts (d u : Nat) (e : Source) (n : Nat) : (s.tallyDie d u e n).contexts = s.contexts := rfl
@[simp] theorem State.tallyDie_hbm (d u : Nat) (e : Source) (n : Nat) : (s.tallyDie d u e n).hbm = s.hbm := rfl
@[simp] theorem State.tallyDie_scratch (d u : Nat) (e : Source) (n : Nat) : (s.tallyDie d u e n).scratch = s.scratch := rfl
@[simp] theorem State.tallyDie_team (d u : Nat) (e : Source) (n : Nat) : (s.tallyDie d u e n).team = s.team := rfl
@[simp] theorem State.tallyDie_tiles (d u : Nat) (e : Source) (n : Nat) : (s.tallyDie d u e n).tiles = s.tiles := rfl
@[simp] theorem State.tallyDie_bad (d u : Nat) (e : Source) (n : Nat) : (s.tallyDie d u e n).bad = s.bad := rfl
@[simp] theorem State.tallyDie_memOps (d u : Nat) (e : Source) (n : Nat) : (s.tallyDie d u e n).memOps = s.memOps := rfl
@[simp] theorem State.tallyDie_cmds (d u : Nat) (e : Source) (n : Nat) : (s.tallyDie d u e n).cmds = s.cmds := rfl
@[simp] theorem State.tallyDie_wrecs (d u : Nat) (e : Source) (n : Nat) : (s.tallyDie d u e n).wrecs = s.wrecs := rfl
@[simp] theorem State.tallyDie_mesh (d u : Nat) (e : Source) (n : Nat) : (s.tallyDie d u e n).mesh = s.mesh := rfl
@[simp] theorem State.tallyDie_queues (d u : Nat) (e : Source) (n : Nat) : (s.tallyDie d u e n).queues = s.queues := rfl
@[simp] theorem State.tallyDie_ports (d u : Nat) (e : Source) (n : Nat) : (s.tallyDie d u e n).ports = s.ports := rfl
@[simp] theorem State.tallyDie_retained (d u : Nat) (e : Source) (n : Nat) : (s.tallyDie d u e n).retained = s.retained := rfl
@[simp] theorem State.tallyDie_qops (d u : Nat) (e : Source) (n : Nat) : (s.tallyDie d u e n).qops = s.qops := rfl
@[simp] theorem State.tallyDie_sent (d u : Nat) (e : Source) (n : Nat) : (s.tallyDie d u e n).sent = s.sent := rfl
@[simp] theorem State.tallyDie_qmsgs (d u : Nat) (e : Source) (n : Nat) : (s.tallyDie d u e n).qmsgs = s.qmsgs := rfl
@[simp] theorem State.tallyDie_streams (d u : Nat) (e : Source) (n : Nat) : (s.tallyDie d u e n).streams = s.streams := rfl
@[simp] theorem State.tallyDie_netMsgs (d u : Nat) (e : Source) (n : Nat) : (s.tallyDie d u e n).netMsgs = s.netMsgs := rfl
@[simp] theorem State.tallyDie_links (d u : Nat) (e : Source) (n : Nat) : (s.tallyDie d u e n).links = s.links := rfl
@[simp] theorem State.tallyDie_fabric (d u : Nat) (e : Source) (n : Nat) : (s.tallyDie d u e n).fabric = s.fabric := rfl
@[simp] theorem State.tallyDie_channels (d u : Nat) (e : Source) (n : Nat) : (s.tallyDie d u e n).channels = s.channels := rfl
@[simp] theorem State.tallyDie_responses (d u : Nat) (e : Source) (n : Nat) : (s.tallyDie d u e n).responses = s.responses := rfl

/-! ### Drawing numbers -/

@[simp] theorem State.newId_module : (s.newId).2.module = s.module := rfl
@[simp] theorem State.newId_now : (s.newId).2.now = s.now := rfl
@[simp] theorem State.newId_draws : (s.newId).2.draws = s.draws := rfl
@[simp] theorem State.newId_fresh : (s.newId).2.fresh = s.fresh + 1 := rfl
@[simp] theorem State.newId_pending : (s.newId).2.pending = s.pending := rfl
@[simp] theorem State.newId_chans : (s.newId).2.chans = s.chans := rfl
@[simp] theorem State.newId_inputs : (s.newId).2.inputs = s.inputs := rfl
@[simp] theorem State.newId_todo : (s.newId).2.todo = s.todo := rfl
@[simp] theorem State.newId_issue : (s.newId).2.issue = s.issue := rfl
@[simp] theorem State.newId_cur : (s.newId).2.cur = s.cur := rfl
@[simp] theorem State.newId_dies : (s.newId).2.dies = s.dies := rfl
@[simp] theorem State.newId_cores : (s.newId).2.cores = s.cores := rfl
@[simp] theorem State.newId_quarters : (s.newId).2.quarters = s.quarters := rfl
@[simp] theorem State.newId_groups : (s.newId).2.groups = s.groups := rfl
@[simp] theorem State.newId_teams : (s.newId).2.teams = s.teams := rfl
@[simp] theorem State.newId_plots : (s.newId).2.plots = s.plots := rfl
@[simp] theorem State.newId_grids : (s.newId).2.grids = s.grids := rfl
@[simp] theorem State.newId_pools : (s.newId).2.pools = s.pools := rfl
@[simp] theorem State.newId_contexts : (s.newId).2.contexts = s.contexts := rfl
@[simp] theorem State.newId_hbm : (s.newId).2.hbm = s.hbm := rfl
@[simp] theorem State.newId_scratch : (s.newId).2.scratch = s.scratch := rfl
@[simp] theorem State.newId_team : (s.newId).2.team = s.team := rfl
@[simp] theorem State.newId_tiles : (s.newId).2.tiles = s.tiles := rfl
@[simp] theorem State.newId_bad : (s.newId).2.bad = s.bad := rfl
@[simp] theorem State.newId_memOps : (s.newId).2.memOps = s.memOps := rfl
@[simp] theorem State.newId_cmds : (s.newId).2.cmds = s.cmds := rfl
@[simp] theorem State.newId_wrecs : (s.newId).2.wrecs = s.wrecs := rfl
@[simp] theorem State.newId_mesh : (s.newId).2.mesh = s.mesh := rfl
@[simp] theorem State.newId_queues : (s.newId).2.queues = s.queues := rfl
@[simp] theorem State.newId_ports : (s.newId).2.ports = s.ports := rfl
@[simp] theorem State.newId_retained : (s.newId).2.retained = s.retained := rfl
@[simp] theorem State.newId_qops : (s.newId).2.qops = s.qops := rfl
@[simp] theorem State.newId_sent : (s.newId).2.sent = s.sent := rfl
@[simp] theorem State.newId_qmsgs : (s.newId).2.qmsgs = s.qmsgs := rfl
@[simp] theorem State.newId_streams : (s.newId).2.streams = s.streams := rfl
@[simp] theorem State.newId_netMsgs : (s.newId).2.netMsgs = s.netMsgs := rfl
@[simp] theorem State.newId_links : (s.newId).2.links = s.links := rfl
@[simp] theorem State.newId_fabric : (s.newId).2.fabric = s.fabric := rfl
@[simp] theorem State.newId_channels : (s.newId).2.channels = s.channels := rfl
@[simp] theorem State.newId_responses : (s.newId).2.responses = s.responses := rfl
@[simp] theorem State.drawLatency_module : (s.drawLatency).2.module = s.module := rfl
@[simp] theorem State.drawLatency_now : (s.drawLatency).2.now = s.now := rfl
@[simp] theorem State.drawLatency_draws : (s.drawLatency).2.draws = s.draws + 1 := rfl
@[simp] theorem State.drawLatency_fresh : (s.drawLatency).2.fresh = s.fresh := rfl
@[simp] theorem State.drawLatency_pending : (s.drawLatency).2.pending = s.pending := rfl
@[simp] theorem State.drawLatency_chans : (s.drawLatency).2.chans = s.chans := rfl
@[simp] theorem State.drawLatency_inputs : (s.drawLatency).2.inputs = s.inputs := rfl
@[simp] theorem State.drawLatency_todo : (s.drawLatency).2.todo = s.todo := rfl
@[simp] theorem State.drawLatency_issue : (s.drawLatency).2.issue = s.issue := rfl
@[simp] theorem State.drawLatency_cur : (s.drawLatency).2.cur = s.cur := rfl
@[simp] theorem State.drawLatency_dies : (s.drawLatency).2.dies = s.dies := rfl
@[simp] theorem State.drawLatency_cores : (s.drawLatency).2.cores = s.cores := rfl
@[simp] theorem State.drawLatency_quarters : (s.drawLatency).2.quarters = s.quarters := rfl
@[simp] theorem State.drawLatency_groups : (s.drawLatency).2.groups = s.groups := rfl
@[simp] theorem State.drawLatency_teams : (s.drawLatency).2.teams = s.teams := rfl
@[simp] theorem State.drawLatency_plots : (s.drawLatency).2.plots = s.plots := rfl
@[simp] theorem State.drawLatency_grids : (s.drawLatency).2.grids = s.grids := rfl
@[simp] theorem State.drawLatency_pools : (s.drawLatency).2.pools = s.pools := rfl
@[simp] theorem State.drawLatency_contexts : (s.drawLatency).2.contexts = s.contexts := rfl
@[simp] theorem State.drawLatency_hbm : (s.drawLatency).2.hbm = s.hbm := rfl
@[simp] theorem State.drawLatency_scratch : (s.drawLatency).2.scratch = s.scratch := rfl
@[simp] theorem State.drawLatency_team : (s.drawLatency).2.team = s.team := rfl
@[simp] theorem State.drawLatency_tiles : (s.drawLatency).2.tiles = s.tiles := rfl
@[simp] theorem State.drawLatency_bad : (s.drawLatency).2.bad = s.bad := rfl
@[simp] theorem State.drawLatency_memOps : (s.drawLatency).2.memOps = s.memOps := rfl
@[simp] theorem State.drawLatency_cmds : (s.drawLatency).2.cmds = s.cmds := rfl
@[simp] theorem State.drawLatency_wrecs : (s.drawLatency).2.wrecs = s.wrecs := rfl
@[simp] theorem State.drawLatency_mesh : (s.drawLatency).2.mesh = s.mesh := rfl
@[simp] theorem State.drawLatency_queues : (s.drawLatency).2.queues = s.queues := rfl
@[simp] theorem State.drawLatency_ports : (s.drawLatency).2.ports = s.ports := rfl
@[simp] theorem State.drawLatency_retained : (s.drawLatency).2.retained = s.retained := rfl
@[simp] theorem State.drawLatency_qops : (s.drawLatency).2.qops = s.qops := rfl
@[simp] theorem State.drawLatency_sent : (s.drawLatency).2.sent = s.sent := rfl
@[simp] theorem State.drawLatency_qmsgs : (s.drawLatency).2.qmsgs = s.qmsgs := rfl
@[simp] theorem State.drawLatency_streams : (s.drawLatency).2.streams = s.streams := rfl
@[simp] theorem State.drawLatency_netMsgs : (s.drawLatency).2.netMsgs = s.netMsgs := rfl
@[simp] theorem State.drawLatency_links : (s.drawLatency).2.links = s.links := rfl
@[simp] theorem State.drawLatency_fabric : (s.drawLatency).2.fabric = s.fabric := rfl
@[simp] theorem State.drawLatency_channels : (s.drawLatency).2.channels = s.channels := rfl
@[simp] theorem State.drawLatency_responses : (s.drawLatency).2.responses = s.responses := rfl
@[simp] theorem State.drawChoice_module (n : Nat) : (s.drawChoice n).2.module = s.module := rfl
@[simp] theorem State.drawChoice_now (n : Nat) : (s.drawChoice n).2.now = s.now := rfl
@[simp] theorem State.drawChoice_draws (n : Nat) : (s.drawChoice n).2.draws = s.draws + 1 := rfl
@[simp] theorem State.drawChoice_fresh (n : Nat) : (s.drawChoice n).2.fresh = s.fresh := rfl
@[simp] theorem State.drawChoice_pending (n : Nat) : (s.drawChoice n).2.pending = s.pending := rfl
@[simp] theorem State.drawChoice_chans (n : Nat) : (s.drawChoice n).2.chans = s.chans := rfl
@[simp] theorem State.drawChoice_inputs (n : Nat) : (s.drawChoice n).2.inputs = s.inputs := rfl
@[simp] theorem State.drawChoice_todo (n : Nat) : (s.drawChoice n).2.todo = s.todo := rfl
@[simp] theorem State.drawChoice_issue (n : Nat) : (s.drawChoice n).2.issue = s.issue := rfl
@[simp] theorem State.drawChoice_cur (n : Nat) : (s.drawChoice n).2.cur = s.cur := rfl
@[simp] theorem State.drawChoice_dies (n : Nat) : (s.drawChoice n).2.dies = s.dies := rfl
@[simp] theorem State.drawChoice_cores (n : Nat) : (s.drawChoice n).2.cores = s.cores := rfl
@[simp] theorem State.drawChoice_quarters (n : Nat) : (s.drawChoice n).2.quarters = s.quarters := rfl
@[simp] theorem State.drawChoice_groups (n : Nat) : (s.drawChoice n).2.groups = s.groups := rfl
@[simp] theorem State.drawChoice_teams (n : Nat) : (s.drawChoice n).2.teams = s.teams := rfl
@[simp] theorem State.drawChoice_plots (n : Nat) : (s.drawChoice n).2.plots = s.plots := rfl
@[simp] theorem State.drawChoice_grids (n : Nat) : (s.drawChoice n).2.grids = s.grids := rfl
@[simp] theorem State.drawChoice_pools (n : Nat) : (s.drawChoice n).2.pools = s.pools := rfl
@[simp] theorem State.drawChoice_contexts (n : Nat) : (s.drawChoice n).2.contexts = s.contexts := rfl
@[simp] theorem State.drawChoice_hbm (n : Nat) : (s.drawChoice n).2.hbm = s.hbm := rfl
@[simp] theorem State.drawChoice_scratch (n : Nat) : (s.drawChoice n).2.scratch = s.scratch := rfl
@[simp] theorem State.drawChoice_team (n : Nat) : (s.drawChoice n).2.team = s.team := rfl
@[simp] theorem State.drawChoice_tiles (n : Nat) : (s.drawChoice n).2.tiles = s.tiles := rfl
@[simp] theorem State.drawChoice_bad (n : Nat) : (s.drawChoice n).2.bad = s.bad := rfl
@[simp] theorem State.drawChoice_memOps (n : Nat) : (s.drawChoice n).2.memOps = s.memOps := rfl
@[simp] theorem State.drawChoice_cmds (n : Nat) : (s.drawChoice n).2.cmds = s.cmds := rfl
@[simp] theorem State.drawChoice_wrecs (n : Nat) : (s.drawChoice n).2.wrecs = s.wrecs := rfl
@[simp] theorem State.drawChoice_mesh (n : Nat) : (s.drawChoice n).2.mesh = s.mesh := rfl
@[simp] theorem State.drawChoice_queues (n : Nat) : (s.drawChoice n).2.queues = s.queues := rfl
@[simp] theorem State.drawChoice_ports (n : Nat) : (s.drawChoice n).2.ports = s.ports := rfl
@[simp] theorem State.drawChoice_retained (n : Nat) : (s.drawChoice n).2.retained = s.retained := rfl
@[simp] theorem State.drawChoice_qops (n : Nat) : (s.drawChoice n).2.qops = s.qops := rfl
@[simp] theorem State.drawChoice_sent (n : Nat) : (s.drawChoice n).2.sent = s.sent := rfl
@[simp] theorem State.drawChoice_qmsgs (n : Nat) : (s.drawChoice n).2.qmsgs = s.qmsgs := rfl
@[simp] theorem State.drawChoice_streams (n : Nat) : (s.drawChoice n).2.streams = s.streams := rfl
@[simp] theorem State.drawChoice_netMsgs (n : Nat) : (s.drawChoice n).2.netMsgs = s.netMsgs := rfl
@[simp] theorem State.drawChoice_links (n : Nat) : (s.drawChoice n).2.links = s.links := rfl
@[simp] theorem State.drawChoice_fabric (n : Nat) : (s.drawChoice n).2.fabric = s.fabric := rfl
@[simp] theorem State.drawChoice_channels (n : Nat) : (s.drawChoice n).2.channels = s.channels := rfl
@[simp] theorem State.drawChoice_responses (n : Nat) : (s.drawChoice n).2.responses = s.responses := rfl

/-! ### Putting an event in flight -/

@[simp] theorem State.send_module (c p : Nat) (e : Ev) : (s.send c p e).module = s.module := by unfold State.send; simp only []; split <;> rfl
@[simp] theorem State.send_now (c p : Nat) (e : Ev) : (s.send c p e).now = s.now := by unfold State.send; simp only []; split <;> rfl
@[simp] theorem State.send_draws (c p : Nat) (e : Ev) : (s.send c p e).draws = s.draws + 1 := by unfold State.send; simp only []; split <;> rfl
@[simp] theorem State.send_fresh (c p : Nat) (e : Ev) : (s.send c p e).fresh = s.fresh := by unfold State.send; simp only []; split <;> rfl
@[simp] theorem State.send_inputs (c p : Nat) (e : Ev) : (s.send c p e).inputs = s.inputs := by unfold State.send; simp only []; split <;> rfl
@[simp] theorem State.send_todo (c p : Nat) (e : Ev) : (s.send c p e).todo = s.todo := by unfold State.send; simp only []; split <;> rfl
@[simp] theorem State.send_issue (c p : Nat) (e : Ev) : (s.send c p e).issue = s.issue := by unfold State.send; simp only []; split <;> rfl
@[simp] theorem State.send_cur (c p : Nat) (e : Ev) : (s.send c p e).cur = s.cur := by unfold State.send; simp only []; split <;> rfl
@[simp] theorem State.send_dies (c p : Nat) (e : Ev) : (s.send c p e).dies = s.dies := by unfold State.send; simp only []; split <;> rfl
@[simp] theorem State.send_cores (c p : Nat) (e : Ev) : (s.send c p e).cores = s.cores := by unfold State.send; simp only []; split <;> rfl
@[simp] theorem State.send_quarters (c p : Nat) (e : Ev) : (s.send c p e).quarters = s.quarters := by unfold State.send; simp only []; split <;> rfl
@[simp] theorem State.send_groups (c p : Nat) (e : Ev) : (s.send c p e).groups = s.groups := by unfold State.send; simp only []; split <;> rfl
@[simp] theorem State.send_teams (c p : Nat) (e : Ev) : (s.send c p e).teams = s.teams := by unfold State.send; simp only []; split <;> rfl
@[simp] theorem State.send_plots (c p : Nat) (e : Ev) : (s.send c p e).plots = s.plots := by unfold State.send; simp only []; split <;> rfl
@[simp] theorem State.send_grids (c p : Nat) (e : Ev) : (s.send c p e).grids = s.grids := by unfold State.send; simp only []; split <;> rfl
@[simp] theorem State.send_pools (c p : Nat) (e : Ev) : (s.send c p e).pools = s.pools := by unfold State.send; simp only []; split <;> rfl
@[simp] theorem State.send_contexts (c p : Nat) (e : Ev) : (s.send c p e).contexts = s.contexts := by unfold State.send; simp only []; split <;> rfl
@[simp] theorem State.send_hbm (c p : Nat) (e : Ev) : (s.send c p e).hbm = s.hbm := by unfold State.send; simp only []; split <;> rfl
@[simp] theorem State.send_scratch (c p : Nat) (e : Ev) : (s.send c p e).scratch = s.scratch := by unfold State.send; simp only []; split <;> rfl
@[simp] theorem State.send_team (c p : Nat) (e : Ev) : (s.send c p e).team = s.team := by unfold State.send; simp only []; split <;> rfl
@[simp] theorem State.send_tiles (c p : Nat) (e : Ev) : (s.send c p e).tiles = s.tiles := by unfold State.send; simp only []; split <;> rfl
@[simp] theorem State.send_bad (c p : Nat) (e : Ev) : (s.send c p e).bad = s.bad := by unfold State.send; simp only []; split <;> rfl
@[simp] theorem State.send_memOps (c p : Nat) (e : Ev) : (s.send c p e).memOps = s.memOps := by unfold State.send; simp only []; split <;> rfl
@[simp] theorem State.send_cmds (c p : Nat) (e : Ev) : (s.send c p e).cmds = s.cmds := by unfold State.send; simp only []; split <;> rfl
@[simp] theorem State.send_wrecs (c p : Nat) (e : Ev) : (s.send c p e).wrecs = s.wrecs := by unfold State.send; simp only []; split <;> rfl
@[simp] theorem State.send_mesh (c p : Nat) (e : Ev) : (s.send c p e).mesh = s.mesh := by unfold State.send; simp only []; split <;> rfl
@[simp] theorem State.send_queues (c p : Nat) (e : Ev) : (s.send c p e).queues = s.queues := by unfold State.send; simp only []; split <;> rfl
@[simp] theorem State.send_ports (c p : Nat) (e : Ev) : (s.send c p e).ports = s.ports := by unfold State.send; simp only []; split <;> rfl
@[simp] theorem State.send_retained (c p : Nat) (e : Ev) : (s.send c p e).retained = s.retained := by unfold State.send; simp only []; split <;> rfl
@[simp] theorem State.send_qops (c p : Nat) (e : Ev) : (s.send c p e).qops = s.qops := by unfold State.send; simp only []; split <;> rfl
@[simp] theorem State.send_sent (c p : Nat) (e : Ev) : (s.send c p e).sent = s.sent := by unfold State.send; simp only []; split <;> rfl
@[simp] theorem State.send_qmsgs (c p : Nat) (e : Ev) : (s.send c p e).qmsgs = s.qmsgs := by unfold State.send; simp only []; split <;> rfl
@[simp] theorem State.send_streams (c p : Nat) (e : Ev) : (s.send c p e).streams = s.streams := by unfold State.send; simp only []; split <;> rfl
@[simp] theorem State.send_netMsgs (c p : Nat) (e : Ev) : (s.send c p e).netMsgs = s.netMsgs := by unfold State.send; simp only []; split <;> rfl
@[simp] theorem State.send_links (c p : Nat) (e : Ev) : (s.send c p e).links = s.links := by unfold State.send; simp only []; split <;> rfl
@[simp] theorem State.send_fabric (c p : Nat) (e : Ev) : (s.send c p e).fabric = s.fabric := by unfold State.send; simp only []; split <;> rfl
@[simp] theorem State.send_channels (c p : Nat) (e : Ev) : (s.send c p e).channels = s.channels := by unfold State.send; simp only []; split <;> rfl
@[simp] theorem State.send_responses (c p : Nat) (e : Ev) : (s.send c p e).responses = s.responses := by unfold State.send; simp only []; split <;> rfl

/-- An event put in flight without a channel falls due after a free time. -/
theorem State.send_pending (p : Nat) (e : Ev) :
    (s.send 0 p e).pending = insertDue ⟨s.now + 1 + Config.latency s.draws, p, e⟩ s.pending := rfl

/-! ### Entries after an update -/

theorem State.find_modGroup (k j : Nat) (f : Group → Group) :
    Map.find (s.modGroup k f).groups j = if j = k then (Map.find s.groups j).map f else Map.find s.groups j := by
  simp [Map.find_modify]

theorem State.find_modGroup_same {k : Nat} {g : Group} (f : Group → Group) (h : Map.find s.groups k = some g) :
    Map.find (s.modGroup k f).groups k = some (f g) := by simp [h]

@[simp] theorem State.die_setDie (d : Nat) (x : Die) : (s.setDie d x).die d = x := by simp [State.die]
@[simp] theorem State.coreAt_setCore (k : Nat) (x : Core) : (s.setCore k x).coreAt k = x := by simp [State.coreAt]
@[simp] theorem State.quarterAt_setQuarter (k : Nat) (x : Quarter) : (s.setQuarter k x).quarterAt k = x := by simp [State.quarterAt]
@[simp] theorem State.queueAt_setQueue (k : Nat) (x : Queue) : (s.setQueue k x).queueAt k = x := by simp [State.queueAt]

theorem State.die_setDie_other {d e : Nat} (x : Die) (h : e ≠ d) : (s.setDie d x).die e = s.die e := by
  simp [State.die, Map.get_put_other _ _ _ _ h]
theorem State.coreAt_setCore_other {k j : Nat} (x : Core) (h : j ≠ k) : (s.setCore k x).coreAt j = s.coreAt j := by
  simp [State.coreAt, Map.get_put_other _ _ _ _ h]
theorem State.groupAt_of_find {k : Nat} {g : Group} (h : Map.find s.groups k = some g) : s.groupAt k = g := by
  simp [State.groupAt, Map.get_of_find _ h]

end Sys2Proof.Machine
end

