-- ==== Sys2Proof/Laws/Group.lean ====
section
/-!
SUPPORT. What each operation on a group's registers and threads leaves and changes: the value that every register reads as after a
write, a release, a move of the threads or a raised flag.
-/
namespace Sys2Proof.Machine

/-! ### Lanes -/

theorem mem_upto (a n x : Nat) : x ∈ upto a n ↔ a ≤ x ∧ x < a + n := by
  induction n generalizing a with
  | zero => simp only [upto, List.not_mem_nil, false_iff]; omega
  | succ n ih => simp [upto, ih]; omega

@[simp] theorem mem_lanesOf (m : Lanes) (l : Nat) : l ∈ lanesOf m ↔ m.getLsbD l = true := by
  simp only [lanesOf, List.mem_filter, mem_upto]
  constructor
  · exact fun h => h.2
  · intro h; exact ⟨⟨Nat.zero_le _, by have := BitVec.lt_of_getLsbD h; omega⟩, h⟩

/-- Writing a list of lanes of one register, cell by cell. -/
theorem get_foldl_set (n : Nat) (f : Nat → Word) (L : List Nat) (v : Map Word) (k l : Nat) (hL : ∀ x ∈ L, x < 32) (hl : l < 32) :
    Map.get (L.foldl (fun v l => Map.set v 0 (n * 32 + l) (f l)) v) 0 (k * 32 + l) =
      if k = n ∧ l ∈ L then f l else Map.get v 0 (k * 32 + l) := by
  induction L generalizing v with
  | nil => simp
  | cons x L ih =>
    have hx : x < 32 := hL x (by simp)
    rw [List.foldl_cons, ih _ (fun y hy => hL y (by simp [hy])), Map.get_set]
    by_cases hk : k = n
    · subst hk
      by_cases hm : l ∈ L
      · simp [hm]
      · by_cases hlx : l = x
        · subst hlx; simp [hm]
        · simp [hm, hlx]
    · have : k * 32 + l ≠ n * 32 + x := by omega
      simp [hk, this]

theorem get_foldl_setLatch (f : Nat → Word) (L : List Nat) (v : Map Word) (l : Nat) :
    Map.get (L.foldl (fun v l => Map.set v 0 l (f l)) v) 0 l = if l ∈ L then f l else Map.get v 0 l := by
  induction L generalizing v with
  | nil => simp
  | cons x L ih =>
    rw [List.foldl_cons, ih, Map.get_set]
    by_cases hm : l ∈ L
    · simp [hm]
    · by_cases hlx : l = x <;> simp [hm, hlx]

theorem lt_of_mem_lanesOf {m : Lanes} {l : Nat} (h : l ∈ lanesOf m) : l < 32 := by
  rw [mem_lanesOf] at h; exact BitVec.lt_of_getLsbD h

/-! ### Writes of register codes -/

variable (g : Group)

@[simp] theorem Group.overwrite_regs (r : Nat) (m : Lanes) : (g.overwrite r m).regs = g.regs := rfl

theorem Group.writeMain_main (n : Nat) (m : Lanes) (f : Nat → Word) (k l : Nat) (hl : l < 32) :
    (g.writeMain n m f).regs.main k l = if k = n ∧ m.getLsbD l = true then f l else g.regs.main k l := by
  simp only [Group.writeMain, Regs.main, Group.overwrite_regs]
  rw [get_foldl_set n f _ _ k l (fun x h => lt_of_mem_lanesOf h) hl]
  simp

theorem Group.writeOpfile_opfile (n : Nat) (m : Lanes) (f : Nat → Word) (k l : Nat) (hl : l < 32) :
    (g.writeOpfile n m f).regs.opfile k l = if k = n ∧ m.getLsbD l = true then f l else g.regs.opfile k l := by
  simp only [Group.writeOpfile, Regs.opfile, Group.overwrite_regs]
  rw [get_foldl_set n f _ _ k l (fun x h => lt_of_mem_lanesOf h) hl]
  simp

@[simp] theorem Group.writeMain_opfile (n : Nat) (m : Lanes) (f : Nat → Word) (k l : Nat) :
    (g.writeMain n m f).regs.opfile k l = g.regs.opfile k l := rfl
@[simp] theorem Group.writeOpfile_main (n : Nat) (m : Lanes) (f : Nat → Word) (k l : Nat) :
    (g.writeOpfile n m f).regs.main k l = g.regs.main k l := rfl

/-- A write by destination code changes that code's register in the lanes written and no other. -/
theorem Group.writeCode_read (code : Nat) (m : Lanes) (f : Nat → Word) (n l : Nat) (hn : n < 104) (hl : l < 32) :
    (g.writeCode code m f).regs.read n l = if n = code ∧ m.getLsbD l = true then f l else g.regs.read n l := by
  unfold Group.writeCode
  split
  · simp only [Regs.read, Group.writeMain_opfile]
    by_cases h96 : n < 96
    · simp only [h96, if_true]; rw [Group.writeMain_main g code m f n l hl]
    · have : n ≠ code := by omega
      simp [h96, hn, this]
  · split
    · simp only [Regs.read, Group.writeOpfile_main]
      by_cases h96 : n < 96
      · have : n ≠ code := by omega
        simp [h96, this]
      · simp only [h96, if_false, hn, if_true]
        rw [Group.writeOpfile_opfile g (code - 96) m f (n - 96) l hl]
        have : (n - 96 = code - 96) ↔ n = code := by omega
        simp [this]
    · have : n ≠ code := by omega
      simp [this]

section
variable (code : Nat) (m : Lanes) (f : Nat → Word)

@[simp] theorem Group.writeCode_latch (l : Nat) : (g.writeCode code m f).regs.latch l = g.regs.latch l := by
  unfold Group.writeCode; repeat' split
  all_goals rfl
@[simp] theorem Group.writeCode_lrValid : (g.writeCode code m f).regs.lrValid = g.regs.lrValid := by
  unfold Group.writeCode; repeat' split
  all_goals rfl
@[simp] theorem Group.writeCode_scalar (n : Nat) : (g.writeCode code m f).regs.scalar n = g.regs.scalar n := by
  unfold Group.writeCode; repeat' split
  all_goals rfl
@[simp] theorem Group.writeCode_pred (n : Nat) : (g.writeCode code m f).regs.pred n = g.regs.pred n := by
  unfold Group.writeCode; repeat' split
  all_goals rfl
/-- A write by code changes only the registers and what is owed. -/
theorem Group.writeCode_eq : g.writeCode code m f =
    { g with regs := (g.writeCode code m f).regs, owed := (g.writeCode code m f).owed } := by
  unfold Group.writeCode; repeat' split
  all_goals rfl
@[simp] theorem Group.writeCode_threads : (g.writeCode code m f).threads = g.threads := by rw [Group.writeCode_eq]
@[simp] theorem Group.writeCode_fflags : (g.writeCode code m f).fflags = g.fflags := by rw [Group.writeCode_eq]
@[simp] theorem Group.writeCode_late : (g.writeCode code m f).late = g.late := by rw [Group.writeCode_eq]
@[simp] theorem Group.writeCode_rmode : (g.writeCode code m f).rmode = g.rmode := by rw [Group.writeCode_eq]
@[simp] theorem Group.writeCode_cf : (g.writeCode code m f).cf = g.cf := by rw [Group.writeCode_eq]
@[simp] theorem Group.writeCode_latchA : (g.writeCode code m f).latch = g.latch := by rw [Group.writeCode_eq]
@[simp] theorem Group.writeCode_core : (g.writeCode code m f).core = g.core := by rw [Group.writeCode_eq]

@[simp] theorem Group.writeLatch_read (n l : Nat) (hn : n < 104) : (g.writeLatch m f).regs.read n l = g.regs.read n l := by
  have h : n ≠ 104 := by omega
  simp only [Regs.read, hn, if_true]; rfl
theorem Group.writeLatch_latch (l : Nat) :
    (g.writeLatch m f).regs.latch l = if m.getLsbD l = true then f l else g.regs.latch l := by
  simp only [Group.writeLatch, Regs.latch]
  rw [get_foldl_setLatch]; simp
@[simp] theorem Group.writeLatch_scalar (n : Nat) : (g.writeLatch m f).regs.scalar n = g.regs.scalar n := rfl
@[simp] theorem Group.writeLatch_pred (n : Nat) : (g.writeLatch m f).regs.pred n = g.regs.pred n := rfl
@[simp] theorem Group.writeLatch_threads : (g.writeLatch m f).threads = g.threads := rfl
@[simp] theorem Group.writeLatch_fflags : (g.writeLatch m f).fflags = g.fflags := rfl
@[simp] theorem Group.writeLatch_late : (g.writeLatch m f).late = g.late := rfl
@[simp] theorem Group.writeLatch_rmode : (g.writeLatch m f).rmode = g.rmode := rfl
@[simp] theorem Group.writeLatch_cf : (g.writeLatch m f).cf = g.cf := rfl
@[simp] theorem Group.writeLatch_latchA : (g.writeLatch m f).latch = g.latch := rfl
@[simp] theorem Group.writeLatch_core : (g.writeLatch m f).core = g.core := rfl

/-- A result reaches its destination code in the lanes written (R31). -/
theorem Group.writeResult_read (n l : Nat) (hn : n < 104) (hl : l < 32) :
    (g.writeResult code m f).regs.read n l = if n = code ∧ m.getLsbD l = true then f l else g.regs.read n l := by
  simp [Group.writeResult, hn, Group.writeCode_read g code m f n l hn hl]
/-- A result reaches the latch in the lanes written (R32). -/
theorem Group.writeResult_latch (l : Nat) :
    (g.writeResult code m f).regs.latch l = if m.getLsbD l = true then f l else g.regs.latch l := by
  simp [Group.writeResult, Group.writeLatch_latch]
@[simp] theorem Group.writeResult_scalar (n : Nat) : (g.writeResult code m f).regs.scalar n = g.regs.scalar n := by
  simp [Group.writeResult]
@[simp] theorem Group.writeResult_pred (n : Nat) : (g.writeResult code m f).regs.pred n = g.regs.pred n := by
  simp [Group.writeResult]
@[simp] theorem Group.writeResult_threads : (g.writeResult code m f).threads = g.threads := by simp [Group.writeResult]
@[simp] theorem Group.writeResult_fflags : (g.writeResult code m f).fflags = g.fflags := by simp [Group.writeResult]
@[simp] theorem Group.writeResult_late : (g.writeResult code m f).late = g.late := by simp [Group.writeResult]
@[simp] theorem Group.writeResult_rmode : (g.writeResult code m f).rmode = g.rmode := by simp [Group.writeResult]
@[simp] theorem Group.writeResult_cf : (g.writeResult code m f).cf = g.cf := by simp [Group.writeResult]
@[simp] theorem Group.writeResult_latchA : (g.writeResult code m f).latch = g.latch := by simp [Group.writeResult]
@[simp] theorem Group.writeResult_core : (g.writeResult code m f).core = g.core := by simp [Group.writeResult]
end

/-! ### Writes of scalars and predicates -/

section
variable (n : Nat) (x : Word)

theorem Group.writeScalar_scalar (k : Nat) : (g.writeScalar n x).regs.scalar k = if k = n then x else g.regs.scalar k := by
  simp only [Group.writeScalar, Regs.scalar, Group.overwrite_regs]; rw [Map.get_set]
@[simp] theorem Group.writeScalar_read (k l : Nat) (hk : k < 104) : (g.writeScalar n x).regs.read k l = g.regs.read k l := by
  simp only [Regs.read, hk, if_true]; rfl
@[simp] theorem Group.writeScalar_latch (l : Nat) : (g.writeScalar n x).regs.latch l = g.regs.latch l := rfl
@[simp] theorem Group.writeScalar_pred (k : Nat) : (g.writeScalar n x).regs.pred k = g.regs.pred k := rfl
@[simp] theorem Group.writeScalar_threads : (g.writeScalar n x).threads = g.threads := rfl
@[simp] theorem Group.writeScalar_fflags : (g.writeScalar n x).fflags = g.fflags := rfl
@[simp] theorem Group.writeScalar_late : (g.writeScalar n x).late = g.late := rfl
@[simp] theorem Group.writeScalar_rmode : (g.writeScalar n x).rmode = g.rmode := rfl
@[simp] theorem Group.writeScalar_cf : (g.writeScalar n x).cf = g.cf := rfl
@[simp] theorem Group.writeScalar_latchA : (g.writeScalar n x).latch = g.latch := rfl
@[simp] theorem Group.writeScalar_core : (g.writeScalar n x).core = g.core := rfl
end

section
variable (n : Nat) (m x : Lanes)

/-- A predicate write changes the lanes written, and nothing at all for p0 (R124). -/
theorem Group.writePred_pred (k : Nat) : (g.writePred n m x).regs.pred k =
    if k = n ∧ n ≠ 0 then (g.regs.pred n &&& ~~~ m) ||| (x &&& m) else g.regs.pred k := by
  unfold Group.writePred
  by_cases hn : n = 0
  · simp [hn]
  · simp only [hn, if_false, Regs.pred, Group.overwrite_regs]
    by_cases hk : k = n
    · subst hk; simp [hn]
    · by_cases h0 : k = 0
      · simp [h0, Ne.symm hn]
      · simp [hk, h0, Map.get_set]
@[simp] theorem Group.writePred_read (k l : Nat) : (g.writePred n m x).regs.read k l = g.regs.read k l := by
  unfold Group.writePred; split <;> rfl
@[simp] theorem Group.writePred_latch (l : Nat) : (g.writePred n m x).regs.latch l = g.regs.latch l := by
  unfold Group.writePred; split <;> rfl
@[simp] theorem Group.writePred_scalar (k : Nat) : (g.writePred n m x).regs.scalar k = g.regs.scalar k := by
  unfold Group.writePred; split <;> rfl
@[simp] theorem Group.writePred_threads : (g.writePred n m x).threads = g.threads := by
  unfold Group.writePred; split <;> rfl
@[simp] theorem Group.writePred_fflags : (g.writePred n m x).fflags = g.fflags := by
  unfold Group.writePred; split <;> rfl
@[simp] theorem Group.writePred_late : (g.writePred n m x).late = g.late := by
  unfold Group.writePred; split <;> rfl
@[simp] theorem Group.writePred_rmode : (g.writePred n m x).rmode = g.rmode := by
  unfold Group.writePred; split <;> rfl
@[simp] theorem Group.writePred_cf : (g.writePred n m x).cf = g.cf := by
  unfold Group.writePred; split <;> rfl
@[simp] theorem Group.writePred_latchA : (g.writePred n m x).latch = g.latch := by
  unfold Group.writePred; split <;> rfl
@[simp] theorem Group.writePred_core : (g.writePred n m x).core = g.core := by
  unfold Group.writePred; split <;> rfl
end

/-! ### Flags -/

section
variable (due : Nat) (f : FFlags)

/-- A raise is ORed in for a read of %fflags (R53); it lands with its writeback. -/
@[simp] theorem Group.raiseAt_flagsNow : (g.raiseAt due f).flagsNow = g.flagsNow ||| f := by
  unfold Group.raiseAt; split
  · rename_i h; simp [h]
  · simp [Group.flagsNow, List.foldl_append]
@[simp] theorem Group.raiseAt_fflags : (g.raiseAt due f).fflags = g.fflags := by unfold Group.raiseAt; split <;> rfl
@[simp] theorem Group.raiseAt_regs : (g.raiseAt due f).regs = g.regs := by unfold Group.raiseAt; split <;> rfl
@[simp] theorem Group.raiseAt_threads : (g.raiseAt due f).threads = g.threads := by unfold Group.raiseAt; split <;> rfl
@[simp] theorem Group.raiseAt_rmode : (g.raiseAt due f).rmode = g.rmode := by unfold Group.raiseAt; split <;> rfl
@[simp] theorem Group.raiseAt_cf : (g.raiseAt due f).cf = g.cf := by unfold Group.raiseAt; split <;> rfl
@[simp] theorem Group.raiseAt_latchA : (g.raiseAt due f).latch = g.latch := by unfold Group.raiseAt; split <;> rfl
@[simp] theorem Group.raiseAt_core : (g.raiseAt due f).core = g.core := by unfold Group.raiseAt; split <;> rfl

/-- What a read of %fflags gives depends on the landed flags and the raises to come alone. -/
theorem Group.flagsNow_congr {g h : Group} (hf : g.fflags = h.fflags) (hl : g.late = h.late) : g.flagsNow = h.flagsNow := by
  simp [Group.flagsNow, hf, hl]
end

/-! ### Releases -/

theorem find_keepKeys (m : Map Word) (reg k : Nat) : Map.find (keepKeys m reg) k = if k / 32 = reg then none else Map.find m k := by
  induction m with
  | nil => simp [keepKeys]
  | cons e m ih =>
    obtain ⟨j, a⟩ := e
    simp only [keepKeys] at ih
    by_cases h : j / 32 = reg
    · simp only [keepKeys, List.filter_cons, h, ne_eq, not_true, decide_false, Bool.false_eq_true, if_false, ih, Map.find_cons]
      by_cases hj : j = k
      · subst hj; simp [h]
      · simp [hj]
    · simp only [keepKeys, List.filter_cons, h, ne_eq, not_false_eq_true, decide_true, if_true, Map.find_cons, ih]
      by_cases hj : j = k
      · subst hj; simp [h]
      · simp [hj]

/-- A release touches no register but its own. -/
theorem Group.release_read (r n l : Nat) (hl : l < 32) (h : n ≠ r) : (g.release r).regs.read n l = g.regs.read n l := by
  unfold Group.release
  split
  · simp only [Regs.read, Regs.main, Regs.opfile, Regs.latch, Regs.scalar, Map.get]
    have : (n * 32 + l) / 32 = n := by omega
    simp only [find_keepKeys, this, h, if_false]
  · rfl

section
variable (r : Nat)
@[simp] theorem Group.release_latch (l : Nat) : (g.release r).regs.latch l = g.regs.latch l := by unfold Group.release; split <;> rfl
@[simp] theorem Group.release_scalar (n : Nat) : (g.release r).regs.scalar n = g.regs.scalar n := by unfold Group.release; split <;> rfl
@[simp] theorem Group.release_pred (n : Nat) : (g.release r).regs.pred n = g.regs.pred n := by unfold Group.release; split <;> rfl
@[simp] theorem Group.release_threads : (g.release r).threads = g.threads := by unfold Group.release; split <;> rfl
@[simp] theorem Group.release_fflags : (g.release r).fflags = g.fflags := by unfold Group.release; split <;> rfl
@[simp] theorem Group.release_late : (g.release r).late = g.late := by unfold Group.release; split <;> rfl
@[simp] theorem Group.release_rmode : (g.release r).rmode = g.rmode := by unfold Group.release; split <;> rfl
@[simp] theorem Group.release_cf : (g.release r).cf = g.cf := by unfold Group.release; split <;> rfl
@[simp] theorem Group.release_latchA : (g.release r).latch = g.latch := by unfold Group.release; split <;> rfl
@[simp] theorem Group.release_core : (g.release r).core = g.core := by unfold Group.release; split <;> rfl
end

/-- The releases of an instruction. -/
theorem Group.releases_read (rel : List Nat) (n l : Nat) (hl : l < 32) (h : n ∉ rel) :
    (rel.foldl (fun g r => g.release r) g).regs.read n l = g.regs.read n l := by
  induction rel generalizing g with
  | nil => rfl
  | cons r rel ih =>
    rw [List.foldl_cons, ih _ (by simp at h; exact h.2), Group.release_read _ r n l hl (by simp at h; exact h.1)]

section
variable (rel : List Nat)
@[simp] theorem Group.releases_latch (l : Nat) : (rel.foldl (fun g r => g.release r) g).regs.latch l = g.regs.latch l := by
  induction rel generalizing g with
  | nil => rfl
  | cons r rel ih => rw [List.foldl_cons, ih, Group.release_latch]
@[simp] theorem Group.releases_scalar (n : Nat) : (rel.foldl (fun g r => g.release r) g).regs.scalar n = g.regs.scalar n := by
  induction rel generalizing g with
  | nil => rfl
  | cons r rel ih => rw [List.foldl_cons, ih, Group.release_scalar]
@[simp] theorem Group.releases_pred (n : Nat) : (rel.foldl (fun g r => g.release r) g).regs.pred n = g.regs.pred n := by
  induction rel generalizing g with
  | nil => rfl
  | cons r rel ih => rw [List.foldl_cons, ih, Group.release_pred]
@[simp] theorem Group.releases_threads : (rel.foldl (fun g r => g.release r) g).threads = g.threads := by
  induction rel generalizing g with
  | nil => rfl
  | cons r rel ih => rw [List.foldl_cons, ih, Group.release_threads]
@[simp] theorem Group.releases_fflags : (rel.foldl (fun g r => g.release r) g).fflags = g.fflags := by
  induction rel generalizing g with
  | nil => rfl
  | cons r rel ih => rw [List.foldl_cons, ih, Group.release_fflags]
@[simp] theorem Group.releases_late : (rel.foldl (fun g r => g.release r) g).late = g.late := by
  induction rel generalizing g with
  | nil => rfl
  | cons r rel ih => rw [List.foldl_cons, ih, Group.release_late]
@[simp] theorem Group.releases_rmode : (rel.foldl (fun g r => g.release r) g).rmode = g.rmode := by
  induction rel generalizing g with
  | nil => rfl
  | cons r rel ih => rw [List.foldl_cons, ih, Group.release_rmode]
@[simp] theorem Group.releases_cf : (rel.foldl (fun g r => g.release r) g).cf = g.cf := by
  induction rel generalizing g with
  | nil => rfl
  | cons r rel ih => rw [List.foldl_cons, ih, Group.release_cf]
@[simp] theorem Group.releases_latchA : (rel.foldl (fun g r => g.release r) g).latch = g.latch := by
  induction rel generalizing g with
  | nil => rfl
  | cons r rel ih => rw [List.foldl_cons, ih, Group.release_latchA]
@[simp] theorem Group.releases_core : (rel.foldl (fun g r => g.release r) g).core = g.core := by
  induction rel generalizing g with
  | nil => rfl
  | cons r rel ih => rw [List.foldl_cons, ih, Group.release_core]
end

/-! ### Threads -/

/-- A change of the threads of some lanes, at one lane. -/
theorem find_mapLanes (m : Lanes) (f : Nat → Thread → Thread) (ts : Map Thread) (l : Nat) :
    Map.find (ts.map (fun e => if m.getLsbD e.1 = true then (e.1, f e.1 e.2) else e)) l =
      (Map.find ts l).map (fun t => if m.getLsbD l = true then f l t else t) := by
  induction ts with
  | nil => rfl
  | cons e ts ih =>
    obtain ⟨j, t⟩ := e
    by_cases hj : j = l
    · subst hj; by_cases hm : m.getLsbD j = true <;> simp [hm, Map.find_cons]
    · by_cases hm : m.getLsbD j = true <;> simp [hm, Map.find_cons, hj, ih]

/-- A listed thread after a change of the threads of some lanes. -/
theorem Group.mapThreads_thread (m : Lanes) (f : Thread → Thread) (l : Nat) (h : (Map.find g.threads l).isSome = true) :
    (g.mapThreads m f).thread l = if m.getLsbD l = true then f (g.thread l) else g.thread l := by
  obtain ⟨t, ht⟩ := Option.isSome_iff_exists.mp h
  simp only [Group.thread, Group.mapThreads, Map.get, find_mapLanes m (fun _ => f), ht, Option.map]

theorem Group.mapThreads_listed (m : Lanes) (f : Thread → Thread) (l : Nat) :
    (Map.find (g.mapThreads m f).threads l).isSome = (Map.find g.threads l).isSome := by
  simp [Group.mapThreads, find_mapLanes m (fun _ => f)]

section
variable (m : Lanes) (f : Thread → Thread)
@[simp] theorem Group.mapThreads_regs : (g.mapThreads m f).regs = g.regs := rfl
@[simp] theorem Group.mapThreads_fflags : (g.mapThreads m f).fflags = g.fflags := rfl
@[simp] theorem Group.mapThreads_late : (g.mapThreads m f).late = g.late := rfl
@[simp] theorem Group.mapThreads_rmode : (g.mapThreads m f).rmode = g.rmode := rfl
@[simp] theorem Group.mapThreads_cf : (g.mapThreads m f).cf = g.cf := rfl
@[simp] theorem Group.mapThreads_latchA : (g.mapThreads m f).latch = g.latch := rfl
@[simp] theorem Group.mapThreads_core : (g.mapThreads m f).core = g.core := rfl
end

section
variable (grid : Grid) (m : Lanes) (pc : Nat → Nat) (i : InsInfo)
@[simp] theorem Group.goto_read (n l : Nat) : (g.goto grid m pc i).regs.read n l = g.regs.read n l := rfl
@[simp] theorem Group.goto_latch (l : Nat) : (g.goto grid m pc i).regs.latch l = g.regs.latch l := rfl
@[simp] theorem Group.goto_scalar (n : Nat) : (g.goto grid m pc i).regs.scalar n = g.regs.scalar n := rfl
@[simp] theorem Group.goto_pred (n : Nat) : (g.goto grid m pc i).regs.pred n = g.regs.pred n := rfl
@[simp] theorem Group.goto_fflags : (g.goto grid m pc i).fflags = g.fflags := rfl
@[simp] theorem Group.goto_late : (g.goto grid m pc i).late = g.late := rfl
@[simp] theorem Group.goto_rmode : (g.goto grid m pc i).rmode = g.rmode := rfl
@[simp] theorem Group.goto_cf : (g.goto grid m pc i).cf = g.cf := rfl
@[simp] theorem Group.goto_latchA : (g.goto grid m pc i).latch = g.latch := rfl

/-- A listed thread after a transfer of control (R20, R249): it stands at its header, outside the clause. -/
theorem Group.goto_thread (l : Nat) (h : (Map.find g.threads l).isSome = true) :
    (g.goto grid m pc i).thread l = if m.getLsbD l = true then
      toHeader (grid.travel && decide (grid.segOf (pc l) ≠ grid.segAt g.core)) (pc l) i (g.thread l) else g.thread l := by
  obtain ⟨t, ht⟩ := Option.isSome_iff_exists.mp h
  simp only [Group.thread, Group.goto, Map.get]
  rw [find_mapLanes m (fun l t => toHeader (grid.travel && decide (grid.segOf (pc l) ≠ grid.segAt g.core)) (pc l) i t), ht]
  rfl
end

section
variable (grid : Grid) (c : Issue)
@[simp] theorem Group.advance_read (n l : Nat) : (g.advance grid c).regs.read n l = g.regs.read n l := by
  unfold Group.advance; simp only []; split <;> rfl
@[simp] theorem Group.advance_latch (l : Nat) : (g.advance grid c).regs.latch l = g.regs.latch l := by
  unfold Group.advance; simp only []; split <;> rfl
@[simp] theorem Group.advance_scalar (n : Nat) : (g.advance grid c).regs.scalar n = g.regs.scalar n := by
  unfold Group.advance; simp only []; split <;> rfl
@[simp] theorem Group.advance_pred (n : Nat) : (g.advance grid c).regs.pred n = g.regs.pred n := by
  unfold Group.advance; simp only []; split <;> rfl
@[simp] theorem Group.advance_fflags : (g.advance grid c).fflags = g.fflags := by
  unfold Group.advance; simp only []; split <;> rfl
@[simp] theorem Group.advance_late : (g.advance grid c).late = g.late := by
  unfold Group.advance; simp only []; split <;> rfl
@[simp] theorem Group.advance_rmode : (g.advance grid c).rmode = g.rmode := by
  unfold Group.advance; simp only []; split <;> rfl
@[simp] theorem Group.advance_cf : (g.advance grid c).cf = g.cf := by
  unfold Group.advance; simp only []; split <;> rfl
@[simp] theorem Group.advance_latchA : (g.advance grid c).latch = g.latch := by
  unfold Group.advance; simp only []; split <;> rfl

/-- Where a lane of the path stands after it has moved on (R16, R20). -/
theorem Group.advance_pc (l : Nat) (hm : c.lanes.getLsbD l = true) (h : (Map.find g.threads l).isSome = true) :
    ((g.advance grid c).thread l).pc =
      if atLast (c.head g) then nextHeader c (c.head g) else ((g.thread l).pc + c.len) % 2 ^ 48 := by
  unfold Group.advance
  simp only []
  split
  · rw [Group.goto_thread _ _ _ _ _ _ h]; simp [hm, toHeader]
  · rw [Group.mapThreads_thread _ _ _ _ h]; simp [hm]
end

end Sys2Proof.Machine
end

