-- ==== Sys2Proof/Laws/Issue.lean ====
section
/-!
SUPPORT. The frame of every instruction, said once: what the checks let through, what the common end of an instruction leaves
and changes, and what a lane-wise instruction does.
-/
namespace Sys2Proof.Machine

theorem atIssue_of_stands {s : State} {c : Issue} {g : Group} (h : Stands s c g) (k : Issue → Group → State) :
    atIssue s k = .next (k c g) := by simp [atIssue, h.cur, h.group]

/-- Without a path at the issue stage no instruction runs (R246). -/
theorem atIssue_of_none {s : State} (h : s.cur = none) (k : Issue → Group → State) : atIssue s k = .fault .noIssuingPath := by
  simp [atIssue, h]

/-- An instruction answers a next state wherever a path of a listed group stands at the issue stage. -/
theorem atIssue_next {s : State} {k : Issue → Group → State} {t : State} (h : atIssue s k = .next t) :
    ∃ c g, s.cur = some c ∧ Map.find s.groups c.g = some g ∧ t = k c g := by
  unfold atIssue at h
  split at h
  · exact absurd h (by simp)
  · rename_i c hc
    split at h
    · exact absurd h (by simp)
    · rename_i g hg
      exact ⟨c, g, hc, hg, by simpa using h.symm⟩

theorem checksOf_of_ready {s : State} {c : Issue} {g : Group} {o : Opnds} (h : Ready s c g o) :
    checksOf s c g o none none none true = none := by
  simp [checksOf, h.codes, h.latch, h.ready, h.ceiling]

theorem checksOf_of_clear {s : State} {c : Issue} {g : Group} {o : Opnds} (h : Clear s c g o) :
    checksOf s c g o none none none false = none := by
  have hf := h.fall
  unfold fallFault at hf
  simp only [checksOf, h.codes, h.latch, h.ready, h.ceiling]
  by_cases ha : atLast (c.head g) = true
  · simp only [ha, if_true] at hf; simp [ha, hf]
  · simp [ha]

/-- An instruction that passes every check has its effect and then the common end. -/
theorem issueIns_of_clear {s : State} {c : Issue} {g : Group} {o : Opnds} (h : Clear s c g o) (eff : State → State) :
    issueIns s c g o none none none none eff =
      (eff (s.modGroup c.g (fun g => g.drawRegs c))).finish c (releaseList o c g) false := by
  simp [issueIns, checksOf_of_clear h, h.room, h.sound]

/-- The same for one that places its threads itself. -/
theorem issueIns_of_ready {s : State} {c : Issue} {g : Group} {o : Opnds} (h : Ready s c g o) (eff : State → State) :
    issueIns s c g o none none none none eff true =
      (eff (s.modGroup c.g (fun g => g.drawRegs c))).finish c (releaseList o c g) true := by
  simp [issueIns, checksOf_of_ready h, h.room, h.sound]

/-- A failing check is a precise fault, and the instruction has no effect (R39). -/
theorem issueIns_of_fault {s : State} {c : Issue} {g : Group} {o : Opnds} {early mid late : Option FaultInfo} {jump : Bool} {f : FaultInfo}
    (h : checksOf s c g o early mid late jump = some f) (st : Option Stall) (eff : State → State) :
    issueIns s c g o early mid late st eff jump = s.takePrecise c g f := by simp [issueIns, h]

/-- A path that must wait stays at its instruction, which has no effect (R298). -/
theorem issueIns_of_stall {s : State} {c : Issue} {g : Group} {o : Opnds} {early mid late : Option FaultInfo} {jump : Bool} {w : Stall}
    (h : checksOf s c g o early mid late jump = none) (eff : State → State) :
    issueIns s c g o early mid late (some w) eff jump = s.stallPath c g w := by simp [issueIns, h]

/-! ### The common end -/

theorem Group.mapThreads_thread_pc (g : Group) (m : Lanes) (l : Nat) :
    ((g.mapThreads m (fun t => { t with age := 0 })).thread l).pc = (g.thread l).pc := by
  simp only [Group.thread, Group.mapThreads, Map.get]
  rw [find_mapLanes m (fun _ t => { t with age := 0 })]
  cases Map.find g.threads l with
  | none => rfl
  | some t => simp only [Option.map]; split <;> rfl

theorem Group.mapThreads_thread_cpos (g : Group) (m : Lanes) (l : Nat) :
    ((g.mapThreads m (fun t => { t with age := 0 })).thread l).cpos = (g.thread l).cpos := by
  simp only [Group.thread, Group.mapThreads, Map.get]
  rw [find_mapLanes m (fun _ t => { t with age := 0 })]
  cases Map.find g.threads l with
  | none => rfl
  | some t => simp only [Option.map]; split <;> rfl

theorem Group.mapThreads_thread_hdr0 (g : Group) (m : Lanes) (l : Nat) :
    ((g.mapThreads m (fun t => { t with age := 0 })).thread l).hdr0 = (g.thread l).hdr0 := by
  simp only [Group.thread, Group.mapThreads, Map.get]
  rw [find_mapLanes m (fun _ t => { t with age := 0 })]
  cases Map.find g.threads l with
  | none => rfl
  | some t => simp only [Option.map]; split <;> rfl

/-- What the common end of an instruction makes of the issuing group (R20, R128, R297). -/
structure EndsAs (c : Issue) (g g' : Group) (rel : List Nat) : Prop where
  read : ∀ n l, l < 32 → n ∉ rel → g'.regs.read n l = g.regs.read n l
  latch : ∀ l, g'.regs.latch l = g.regs.latch l
  scalar : ∀ n, g'.regs.scalar n = g.regs.scalar n
  pred : ∀ n, g'.regs.pred n = g.regs.pred n
  fflags : g'.fflags = g.fflags
  late : g'.late = g.late
  rmode : g'.rmode = g.rmode
  cf : g'.cf = g.cf
  aLatch : g'.latch = g.latch

theorem State.finish_only (s : State) (c : Issue) (rel : List Nat) (jump : Bool) : OnlyGroup s (s.finish c rel jump) c.g := by
  refine ⟨rfl, fun j hj => ?_⟩
  simp [State.finish, Map.find_modify_other _ _ _ hj]

/-- The common end: the issuing group keeps every register but those released, and the path has moved on. -/
theorem State.finish_spec {s : State} {c : Issue} {g : Group} (h : Map.find s.groups c.g = some g)
    (hl : ∀ l, c.lanes.getLsbD l = true → (Map.find g.threads l).isSome = true) (rel : List Nat) :
    ∃ g', Map.find (s.finish c rel false).groups c.g = some g' ∧ EndsAs c g g' rel ∧ MovedOn c g g' := by
  refine ⟨_, by simp only [State.finish, State.modGroup_groups, Map.find_modify_same, h, Option.map]; rfl, ?_, ?_⟩
  · simp only [Bool.false_eq_true, if_false]
    exact ⟨fun n l hl hn => by simp [Group.releases_read _ rel n l hl hn], fun l => by simp, fun n => by simp, fun n => by simp,
      by simp, by simp, by simp, by simp, by simp⟩
  · intro l hm
    simp only [Bool.false_eq_true, if_false]
    rw [Group.advance_pc _ _ _ _ hm (by rw [Group.mapThreads_listed]; simp; exact hl l hm)]
    rw [Group.mapThreads_thread_pc]
    have e : ∀ (x : Group) (y : Nat), x.threads = g.threads →
        atLast (c.head ({ x with issues := y }.mapThreads c.lanes (fun t => { t with age := 0 }))) = atLast (c.head g) ∧
        nextHeader c (c.head ({ x with issues := y }.mapThreads c.lanes (fun t => { t with age := 0 }))) = nextHeader c (c.head g) := by
      intro x y hx
      constructor
      · unfold atLast
        rw [decide_eq_decide]
        simp only [Issue.head, Group.mapThreads_thread_cpos, Group.mapThreads_thread_hdr0]
        simp only [Group.thread, hx]
      · simp only [nextHeader, Issue.head, Group.mapThreads_thread_pc]
        simp only [Group.thread, hx]
    rw [(e _ _ (Group.releases_threads g rel)).1, (e _ _ (Group.releases_threads g rel)).2]
    simp only [Group.thread, Group.releases_threads]

theorem State.modGroup_only (s : State) (k : Nat) (f : Group → Group) : OnlyGroup s (s.modGroup k f) k :=
  ⟨rfl, fun j hj => by simp [Map.find_modify_other _ _ _ hj]⟩

theorem OnlyGroup.trans {s t u : State} {k : Nat} (h : OnlyGroup s t k) (h' : OnlyGroup t u k) : OnlyGroup s u k := by
  obtain ⟨e, f⟩ := h
  obtain ⟨e', f'⟩ := h'
  refine ⟨?_, fun j hj => (f' j hj).trans (f j hj)⟩
  rw [e', e]

theorem OnlyGroup.refl (s : State) (k : Nat) : OnlyGroup s s k := ⟨rfl, fun _ _ => rfl⟩

@[simp] theorem Group.drawRegs_regs (g : Group) (c : Issue) : (g.drawRegs c).regs = g.regs := rfl
@[simp] theorem Group.drawRegs_threads (g : Group) (c : Issue) : (g.drawRegs c).threads = g.threads := rfl
@[simp] theorem Group.drawRegs_fflags (g : Group) (c : Issue) : (g.drawRegs c).fflags = g.fflags := rfl
@[simp] theorem Group.drawRegs_late (g : Group) (c : Issue) : (g.drawRegs c).late = g.late := rfl
@[simp] theorem Group.drawRegs_rmode (g : Group) (c : Issue) : (g.drawRegs c).rmode = g.rmode := rfl
@[simp] theorem Group.drawRegs_cf (g : Group) (c : Issue) : (g.drawRegs c).cf = g.cf := rfl
@[simp] theorem Group.drawRegs_latchA (g : Group) (c : Issue) : (g.drawRegs c).latch = g.latch := rfl
@[simp] theorem Group.drawRegs_core (g : Group) (c : Issue) : (g.drawRegs c).core = g.core := rfl

/-! ### An effect on the issuing group alone -/

/-- An instruction whose effect is a change of its own group, which keeps the threads: it completes, changes nothing else, and the
group is as the change left it but for the common end. -/
theorem issueIns_group {s : State} {c : Issue} {g : Group} {o : Opnds} (hs : Stands s c g) (h : Clear s c g o) (f : State → Group → Group)
    (ht : ∀ u x, (f u x).threads = x.threads) :
    ∃ g1 g', g1 = f (s.modGroup c.g (fun g => g.drawRegs c)) (g.drawRegs c) ∧
      Map.find (issueIns s c g o none none none none (fun u => u.modGroup c.g (f u))).groups c.g = some g' ∧
      EndsAs c g1 g' (releaseList o c g) ∧ MovedOn c g g' ∧
      OnlyGroup s (issueIns s c g o none none none none (fun u => u.modGroup c.g (f u))) c.g := by
  rw [issueIns_of_clear h]
  have hg : Map.find ((s.modGroup c.g (fun g => g.drawRegs c)).modGroup c.g (f (s.modGroup c.g (fun g => g.drawRegs c)))).groups c.g =
      some (f (s.modGroup c.g (fun g => g.drawRegs c)) (g.drawRegs c)) := by simp [hs.group]
  obtain ⟨g', h1, h2, h3⟩ := State.finish_spec hg (fun l hm => by rw [ht]; exact hs.lanes l hm) (releaseList o c g)
  refine ⟨_, g', rfl, h1, h2, ?_, ?_⟩
  · intro l hm
    have := h3 l hm
    simp only [Issue.head, Group.thread, ht, Group.drawRegs_threads] at this ⊢
    exact this
  · exact ((State.modGroup_only _ _ _).trans (State.modGroup_only _ _ _)).trans (State.finish_only _ _ _ _)

/-- The registers after the common end, from those after the effect. -/
theorem EndsAs.frame {c : Issue} {g g1 g' : Group} {o : Opnds} (h : EndsAs c g1 g' (releaseList o c g)) {ds : List Nat} {m lm : Lanes}
    {ss ps : List Nat}
    (hr : ∀ n l, n < 104 → l < 32 → (n ∈ ds → m.getLsbD l = false) → g1.regs.read n l = g.regs.read n l)
    (hl : ∀ l, lm.getLsbD l = false → g1.regs.latch l = g.regs.latch l)
    (hs : ∀ n, n ∉ ss → g1.regs.scalar n = g.regs.scalar n) (hp : ∀ n, n ∉ ps → g1.regs.pred n = g.regs.pred n)
    (hm : g1.rmode = g.rmode) (hc : g1.cf = g.cf) (ha : g1.latch = g.latch) : RegFrame c g g' o ds m lm ss ps :=
  ⟨fun n l hn hl32 hd hrel => (h.read n l hl32 hrel).trans (hr n l hn hl32 hd), fun l hlm => (h.latch l).trans (hl l hlm),
    fun n hn => (h.scalar n).trans (hs n hn), fun n hn => (h.pred n).trans (hp n hn), h.rmode.trans hm, h.cf.trans hc, h.aLatch.trans ha⟩

theorem not_mem_releaseList {o : Opnds} {c : Issue} {g : Group} {n : Nat} (h : n ∈ o.dests) : n ∉ releaseList o c g := by
  unfold releaseList
  simp only []
  split
  · simp [List.mem_filter, h]
  · simp

theorem EndsAs.flagsNow {c : Issue} {g g' : Group} {rel : List Nat} (h : EndsAs c g g' rel) : g'.flagsNow = g.flagsNow :=
  Group.flagsNow_congr h.fflags h.late

/-- Nothing is spoilt where no element that is read was upset. -/
@[simp] theorem State.spoil_none (s : State) (c : Issue) (g : Group) (dst : Nat) : s.spoil c g dst 0 = s := rfl

/-- A lane-wise instruction: it completes, its result, flags and position are those of LaneResult, and nothing else changes. -/
theorem laneOp_spec {s : State} {c : Issue} {g : Group} {guard dst : Nat} {o : Opnds} (hs : Stands s c g)
    (h : Clear s c g { o with preds := guard :: o.preds, dests := dst :: o.dests, guard := guard })
    (f : Group → Regs → Nat → Word × FFlags) (lat : Nat) (carry : Carry := .fresh) :
    ∃ t g', laneOp s guard dst o none none none f lat carry = .next t ∧ Map.find t.groups c.g = some g' ∧
      LaneResult c g g' dst (guardLanes c g guard) (fun l => (f g (c.view g) l).1)
        (orFlags ((lanesOf (guardLanes c g guard)).map (fun l => (f g (c.view g) l).2))) ∧
      RegFrame c g g' { o with preds := guard :: o.preds, dests := dst :: o.dests, guard := guard } [dst] (guardLanes c g guard) (guardLanes c g guard) [] [] ∧
      OnlyGroup s t c.g := by
  obtain ⟨g1, g', e1, hg, he, hm, hg'⟩ := issueIns_group hs h (fun u x =>
      (x.writeResult dst (guardLanes c g guard) (fun l => (f g (c.view g) l).1)).raiseAt (u.writeback g.die lat)
        (orFlags ((lanesOf (guardLanes c g guard)).map (fun l => (f g (c.view g) l).2)))) (fun u x => by simp)
  refine ⟨_, g', ?_, hg, ⟨?_, ?_, ?_, ?_, hm⟩, ?_, hg'⟩
  · rw [laneOp, atIssue_of_stands hs]
    have hz : guardLanes c g guard &&& wrongLanes carry { o with preds := guard :: o.preds, dests := dst :: o.dests, guard := guard } c g (fun l => (f g (c.view g) l).1) = 0 := by
      simp [wrongLanes, h.calm]
    simp only [hz, State.spoil_none]
  · intro l hl hd
    rw [he.read dst l (BitVec.lt_of_getLsbD hl) (not_mem_releaseList (by simp)), e1]
    simp [Group.writeResult_read _ dst _ _ dst l hd (BitVec.lt_of_getLsbD hl), hl]
  · intro l hl
    rw [he.latch, e1]
    simp [Group.writeResult_latch, hl]
  · rw [he.flagsNow, e1, Group.raiseAt_flagsNow]; congr 1; exact Group.flagsNow_congr (by simp) (by simp)
  · rw [he.fflags, e1]; simp
  · subst e1
    refine he.frame (fun n l hn hl hd => ?_) (fun l hl => ?_) (fun n _ => by simp) (fun n _ => by simp) (by simp) (by simp) (by simp)
    · simp only [Group.raiseAt_regs, Group.writeResult_read _ dst _ _ n l hn hl, Group.drawRegs_regs]
      by_cases hnd : n = dst
      · simp [hd (by simp [hnd])]
      · simp [hnd]
    · simp [Group.writeResult_latch, hl]

/-- The same, as what the instruction does. -/
theorem laneOp_gives {i : Instr} {guard dst : Nat} {o : Opnds} {ok : State → Group → Prop} {lat : Nat}
    (f : Group → Regs → Nat → Word × FFlags) {carry : Carry}
    (hi : ∀ s g, ok s g → exec i s = laneOp s guard dst o none none none f lat carry) :
    LaneGives i { o with preds := guard :: o.preds, dests := dst :: o.dests, guard := guard } dst guard ok (fun c g l => (f g (c.view g) l).1)
      (fun c g => orFlags ((lanesOf (guardLanes c g guard)).map (fun l => (f g (c.view g) l).2))) := by
  intro s c g hs h hok
  obtain ⟨t, g', he, hr⟩ := laneOp_spec hs h f lat carry
  exact ⟨t, g', (hi s g hok).trans he, hr⟩

/-- An instruction whose effect is one scalar write. -/
theorem scalarOp_gives {i : Instr} {d : Nat} {o : Opnds} {ok : State → Group → Prop}
    (f : State → Issue → Group → Regs → Word) (hi : ∀ s g, ok s g → exec i s = scalarOp o d none none f s)
    (hf : ∀ s c g r h, f (s.modGroup c.g h) c g r = f s c g r) :
    ScalarGives i o d ok (fun s c g => f s c g (c.view g)) := by
  intro s c g hs h hok
  obtain ⟨g1, g', e1, hg, he, hm, hg'⟩ := issueIns_group hs h (fun u x => x.writeScalar d (f u c g (c.view g))) (fun u x => by simp)
  refine ⟨_, g', by rw [hi s g hok, scalarOp, atIssue_of_stands hs], hg, ?_, ?_, ?_, hm, ?_, hg'⟩
  · rw [he.scalar, e1, hf]; simp [Group.writeScalar_scalar]
  · rw [he.fflags, e1]; simp
  · rw [he.flagsNow, e1]; exact Group.flagsNow_congr (by simp) (by simp)
  · subst e1
    exact he.frame (fun n l hn hl _ => by simp [hn]) (fun l _ => by simp)
      (fun n hn => by simp [Group.writeScalar_scalar]; intro hnd; simp [hnd] at hn) (fun n _ => by simp) (by simp) (by simp) (by simp)

theorem orFlags_zero (L : List Nat) : orFlags (L.map (fun _ => (0 : FFlags))) = 0 := by
  unfold orFlags
  induction L with
  | nil => rfl
  | cons x L ih => simpa using ih

theorem guardLanes_zero (c : Issue) (g : Group) : guardLanes c g 0 = c.lanes := by
  simp only [guardLanes, Regs.pred, if_true]
  exact BitVec.and_allOnes

end Sys2Proof.Machine
end

