-- ==== Sys2Proof/Laws/Vector.lean ====
section
/-!
SUPPORT. The shapes of the lane-wise families, said once: compares, block results and lane exchanges.
-/
namespace Sys2Proof.Machine

theorem getLsbD_maskOf (p : Nat → Bool) (l : Nat) : (maskOf p).getLsbD l = (decide (l < 32) && p l) := by
  have key : ∀ (L : List Nat) (m : Lanes), (∀ x ∈ L, x < 32) →
      (L.foldl (fun m l => if p l then m ||| (1#32 <<< l) else m) m).getLsbD l = (m.getLsbD l || (decide (l ∈ L) && p l)) := by
    intro L
    induction L with
    | nil => intro m _; simp
    | cons x L ih =>
      intro m hL
      rw [List.foldl_cons, ih _ (fun y hy => hL y (by simp [hy]))]
      have hx : x < 32 := hL x (by simp)
      by_cases hp : p x = true
      · simp only [hp, if_true]
        by_cases hlx : l = x
        · subst hlx
          simp [hx, hp]
        · have h1 : (1#32 <<< x).getLsbD l = false := by
            simp only [BitVec.getLsbD_shiftLeft, BitVec.getLsbD_one]
            by_cases hlt : l < x
            · simp [hlt]
            · have : ¬ l - x = 0 := by omega
              simp [this]
          simp [hlx, h1]
      · simp only [hp, Bool.false_eq_true, if_false]
        by_cases hlx : l = x
        · subst hlx; simp [hp]
        · simp [hlx]
  rw [maskOf, key _ _ (fun x hx => by rw [mem_upto] at hx; omega)]
  simp [mem_upto]

/-- The conclusion of a predicate result, from a predicate write on the issuing group. -/
theorem predWrite_gives {i : Instr} {o : Opnds} {pd p : Nat} {ok : State → Group → Prop} (f : Issue → Group → Lanes) (fl : Issue → Group → FFlags)
    (hi : ∀ s c g, Stands s c g → ok s g → exec i s = .next (issueIns s c g o none none none none (fun u => u.modGroup c.g (fun x =>
      (x.writePred pd (guardLanes c g p) (f c g)).raiseAt (u.writeback g.die 2) (fl c g))))) :
    PredGives i o pd p ok f fl := by
  intro s c g hs h hok
  obtain ⟨g1, g', e1, hg, he, hm, hg'⟩ := issueIns_group hs h (fun u x =>
      (x.writePred pd (guardLanes c g p) (f c g)).raiseAt (u.writeback g.die 2) (fl c g)) (fun u x => by simp)
  refine ⟨_, g', hi s c g hs hok, hg, ?_, ?_, ?_, ?_, ?_, hm, ?_, hg'⟩
  · intro l hl hd
    simp only [Regs.predAt]
    rw [he.pred, e1]
    simp [Group.writePred_pred, hd, hl]
  · intro l hl32 hl
    simp only [Regs.predAt]
    rw [he.pred, e1]
    simp only [Group.raiseAt_regs, Group.writePred_pred, Group.drawRegs_regs, true_and]
    split
    · simp only [BitVec.getLsbD_or, BitVec.getLsbD_and, BitVec.getLsbD_not, hl, hl32, decide_true, Bool.not_false, Bool.and_true,
        Bool.and_false, Bool.or_false]
    · rfl
  · simp [Regs.pred]
  · rw [he.flagsNow, e1, Group.raiseAt_flagsNow]; congr 1; exact Group.flagsNow_congr (by simp) (by simp)
  · rw [he.fflags, e1]; simp
  · subst e1
    exact he.frame (fun n l _ _ _ => by simp) (fun l _ => by simp) (fun n _ => by simp)
      (fun n hn => by simp [Group.writePred_pred]; intro hnd; simp [hnd] at hn) (by simp) (by simp) (by simp)

/-- A compare or predicate operation (R145, R146). -/
theorem vp_gives {i : Instr} {acc : BitVec 1} {guard pd : Nat} {o : Opnds} {ok : State → Group → Prop} (f : Regs → Nat → Bool × FFlags)
    (hi : ∀ s g, ok s g → exec i s = vp acc guard o pd none f s) :
    PredGives i { o with preds := guard :: (if acc = 1 then pd :: o.preds else o.preds), guard := guard } pd guard ok
      (fun c g => if acc = 1 then (c.view g).pred pd &&& maskOf (fun l => (f (c.view g) l).1) else maskOf (fun l => (f (c.view g) l).1))
      (fun c g => orFlags ((lanesOf (guardLanes c g guard)).map (fun l => (f (c.view g) l).2))) := by
  apply predWrite_gives
  intro s c g hs hok
  rw [hi s g hok, vp, atIssue_of_stands hs]

end Sys2Proof.Machine
end

