-- ==== Sys2Proof/Laws/Memory.lean ====
section
/-!
SUPPORT. What the memory operations do: a read after a write, what a write leaves alone, and that every operation keeps the memories in
canonical form.
-/
namespace Sys2Proof.Machine

/-! ### Bytes -/

/-- Reading a byte after a write: the byte of the list where the address lies in the run, else what stood there. -/
theorem get_writeBytes (l : List Byte) (m : Map Byte) (a k : Nat) :
    Map.get (writeBytes m a l) 0 k = if a ≤ k ∧ k < a + l.length then l.getD (k - a) 0 else Map.get m 0 k := by
  induction l generalizing m a with
  | nil =>
    have : ¬ (a ≤ k ∧ k < a + 0) := by omega
    simp only [writeBytes, List.length_nil, if_neg this]
  | cons b l ih =>
    simp only [writeBytes, ih, Map.get_set, List.length_cons]
    by_cases h1 : a + 1 ≤ k ∧ k < a + 1 + l.length
    · have h2 : a ≤ k ∧ k < a + (l.length + 1) := by omega
      obtain ⟨n, rfl⟩ : ∃ n, k = a + 1 + n := ⟨k - (a + 1), by omega⟩
      have e1 : a + 1 + n - (a + 1) = n := by omega
      have e2 : a + 1 + n - a = n + 1 := by omega
      simp only [if_pos h1, if_pos h2, e1, e2, List.getD_cons_succ]
    · by_cases h3 : k = a
      · subst h3
        have h2 : k ≤ k ∧ k < k + (l.length + 1) := by omega
        simp only [if_neg h1, if_pos h2, if_pos, Nat.sub_self, List.getD_cons_zero]
      · have h2 : ¬ (a ≤ k ∧ k < a + (l.length + 1)) := by omega
        simp only [if_neg h1, if_neg h2, if_neg h3]

/-- A write leaves every address outside its run alone. -/
theorem get_writeBytes_other (l : List Byte) (m : Map Byte) {a k : Nat} (h : k < a ∨ a + l.length ≤ k) :
    Map.get (writeBytes m a l) 0 k = Map.get m 0 k := by
  rw [get_writeBytes, if_neg (by omega)]

theorem length_upto (a n : Nat) : (upto a n).length = n := by
  induction n generalizing a with
  | zero => rfl
  | succ n ih => simp only [upto, List.length_cons, ih]

theorem getElem?_upto (a n i : Nat) : (upto a n)[i]? = if i < n then some (a + i) else none := by
  induction n generalizing a i with
  | zero => simp [upto]
  | succ n ih =>
    cases i with
    | zero => simp [upto]
    | succ i =>
      simp only [upto, List.getElem?_cons_succ, ih]
      by_cases h : i < n
      · have h' : i + 1 < n + 1 := by omega
        have e : a + 1 + i = a + (i + 1) := by omega
        rw [if_pos h, if_pos h', e]
      · rw [if_neg h, if_neg (by omega)]

/-- A read after a write of the same run gives the bytes written. -/
theorem readBytes_writeBytes (l : List Byte) (m : Map Byte) (a : Nat) : readBytes (writeBytes m a l) a l.length = l := by
  apply List.ext_getElem?
  intro i
  simp only [readBytes, List.getElem?_map, getElem?_upto]
  by_cases h : i < l.length
  · have e : a + (0 + i) - a = i := by omega
    rw [if_pos h, Option.map_some, get_writeBytes, if_pos (by omega), e, List.getD_eq_getElem?_getD, List.getElem?_eq_getElem h]
    rfl
  · rw [if_neg h, List.getElem?_eq_none (by omega)]; rfl

/-- A read of a run that a write does not meet gives what it gave before. -/
theorem readBytes_writeBytes_other (l : List Byte) (m : Map Byte) {a b n : Nat} (h : b + n ≤ a ∨ a + l.length ≤ b) :
    readBytes (writeBytes m a l) b n = readBytes m b n := by
  simp only [readBytes]
  apply List.map_congr_left
  intro i hi
  rw [get_writeBytes_other]
  have := (mem_upto 0 n i).1 hi
  omega

theorem wf_writeBytes {m : Map Byte} (a : Nat) (l : List Byte) (w : Map.wf 0 m = true) : Map.wf 0 (writeBytes m a l) = true := by
  induction l generalizing m a with
  | nil => exact w
  | cons b l ih => exact ih (a + 1) (Map.wf_set a b w)

/-! ### The memories of a state -/

theorem memoriesWf_iff (s : State) : s.memoriesWf = true ↔
    Map.wf 0 s.hbm = true ∧ Map.wf 0 s.scratch = true ∧ Map.wf 0 s.team = true ∧ Map.wf 0 s.tiles = true := by
  simp only [State.memoriesWf, Bool.and_eq_true, and_assoc]

/-- The canonical form speaks of the four memories alone. -/
theorem memoriesWf_congr {s t : State} (h1 : t.hbm = s.hbm) (h2 : t.scratch = s.scratch) (h3 : t.team = s.team) (h4 : t.tiles = s.tiles) :
    t.memoriesWf = s.memoriesWf := by
  simp only [State.memoriesWf, h1, h2, h3, h4]

@[simp] theorem memoriesWf_clearBad (s : State) (sp : Space) (k n : Nat) : (s.clearBad sp k n).memoriesWf = s.memoriesWf := by
  unfold State.clearBad; split <;> rfl

theorem memoriesWf_setMem {s : State} (sp : Space) {m : Map Byte} (w : s.memoriesWf = true) (h : Map.wf 0 m = true) :
    (s.setMem sp m).memoriesWf = true := by
  rw [memoriesWf_iff] at w ⊢
  obtain ⟨h1, h2, h3, h4⟩ := w
  cases sp <;> simp only [State.setMem] <;> exact ⟨by assumption, by assumption, by assumption, h4⟩

theorem wf_memOf {s : State} (sp : Space) (w : s.memoriesWf = true) : Map.wf 0 (s.memOf sp) = true := by
  obtain ⟨h1, h2, h3, h4⟩ := (memoriesWf_iff s).1 w
  cases sp <;> simp only [State.memOf] <;> first | assumption | rfl

/-- A store keeps the canonical form. -/
theorem memoriesWf_store {s : State} (sp : Space) (key : Nat) (l : List Byte) (w : s.memoriesWf = true) : (s.store sp key l).memoriesWf = true := by
  unfold State.store
  rw [memoriesWf_clearBad]
  exact memoriesWf_setMem sp w (wf_writeBytes key l (wf_memOf sp w))

/-- A write of one tile word keeps the canonical form. -/
theorem memoriesWf_setTile {s : State} (k : Nat) (x : Word) (w : s.memoriesWf = true) : (s.setTile k x).memoriesWf = true := by
  unfold State.setTile
  rw [memoriesWf_clearBad, memoriesWf_iff]
  obtain ⟨h1, h2, h3, h4⟩ := (memoriesWf_iff s).1 w
  exact ⟨h1, h2, h3, Map.wf_set k x h4⟩

theorem sortedFrom_append {α : Type} {m n : Map α} {lo mid : Nat} (hm : Map.sortedFrom lo m = true) (hb : ∀ e ∈ m, e.1 < mid)
    (hn : Map.sortedFrom mid n = true) (h : lo ≤ mid) : Map.sortedFrom lo (m ++ n) = true := by
  induction m generalizing lo with
  | nil => exact Map.sortedFrom_mono h hn
  | cons e m ih =>
    obtain ⟨j, a⟩ := e
    simp only [Map.sortedFrom, List.cons_append, Bool.and_eq_true, decide_eq_true_eq] at hm ⊢
    exact ⟨hm.1, ih hm.2 (fun e he => hb e (List.mem_cons_of_mem _ he)) (hb (j, a) (List.mem_cons_self ..))⟩

theorem le_of_sortedFrom {α : Type} {m : Map α} {lo : Nat} (w : Map.sortedFrom lo m = true) : ∀ e ∈ m, lo ≤ e.1 := by
  induction m generalizing lo with
  | nil => intro e he; cases he
  | cons x m ih =>
    obtain ⟨j, a⟩ := x
    simp only [Map.sortedFrom, Bool.and_eq_true, decide_eq_true_eq] at w
    intro e he
    rcases List.mem_cons.1 he with rfl | he
    · exact w.1
    · have := ih w.2 e he; omega

theorem sortedFrom_of_le {α : Type} {m : Map α} {lo mid : Nat} (w : Map.sortedFrom lo m = true) (h : ∀ e ∈ m, mid ≤ e.1) :
    Map.sortedFrom mid m = true := by
  cases m with
  | nil => rfl
  | cons x m =>
    obtain ⟨j, a⟩ := x
    simp only [Map.sortedFrom, Bool.and_eq_true, decide_eq_true_eq] at w ⊢
    exact ⟨h (j, a) (List.mem_cons_self ..), w.2⟩

/-- The words of a list from a key up, zeros left out, are listed in order below the end of the run. -/
theorem sorted_fresh (l : List Word) (lo a n : Nat) : Map.sortedFrom (lo + a)
      (((upto a n).zip l).filterMap (fun e => if e.2 = 0 then none else some (lo + e.1, e.2))) = true ∧
    ∀ e ∈ ((upto a n).zip l).filterMap (fun e => if e.2 = 0 then none else some (lo + e.1, e.2)), e.1 < lo + (a + n) ∧ e.2 ≠ 0 := by
  induction n generalizing a l with
  | zero => exact ⟨rfl, fun e he => by cases he⟩
  | succ n ih =>
    cases l with
    | nil => simp [upto, Map.sortedFrom]
    | cons x l =>
      obtain ⟨h1, h2⟩ := ih l (a + 1)
      simp only [upto, List.zip_cons_cons, List.filterMap_cons]
      by_cases hx : x = 0
      · simp only [hx, if_pos]
        refine ⟨Map.sortedFrom_mono (by omega) h1, fun e he => ?_⟩
        have := h2 e he
        exact ⟨by omega, this.2⟩
      · simp only [hx, if_neg, not_false_iff]
        refine ⟨by simp only [Map.sortedFrom, Bool.and_eq_true, decide_eq_true_eq]; exact ⟨Nat.le_refl _, h1⟩, fun e he => ?_⟩
        rcases List.mem_cons.1 he with rfl | he
        · exact ⟨by show lo + a < _; omega, hx⟩
        · have := h2 e he
          exact ⟨by omega, this.2⟩

/-- Replacing a run of a memory by a list of words keeps the canonical form. -/
theorem wf_replaceRun {m : Map Word} (lo n : Nat) (l : List Word) (w : Map.wf 0 m = true) :
    Map.wf 0 (Map.keep m (fun k => decide (k < lo)) ++
      ((upto 0 n).zip l).filterMap (fun e => if e.2 = 0 then none else some (lo + e.1, e.2)) ++
      Map.keep m (fun k => decide (lo + n ≤ k))) = true := by
  rw [Map.wf_iff] at w ⊢
  obtain ⟨f1, f2⟩ := sorted_fresh l lo 0 n
  refine ⟨sortedFrom_append (mid := lo + n) (sortedFrom_append (mid := lo)
    (Map.sortedFrom_filter _ w.1) ?_ f1 (Nat.zero_le _)) ?_ (sortedFrom_of_le (Map.sortedFrom_filter _ w.1) ?_) (Nat.zero_le _), ?_⟩
  · intro e he
    simpa using (List.mem_filter.1 he).2
  · intro e he
    rcases List.mem_append.1 he with he | he
    · have := (List.mem_filter.1 he).2
      simp only [decide_eq_true_eq] at this
      omega
    · have := (f2 e he).1
      omega
  · intro e he
    simpa using (List.mem_filter.1 he).2
  · intro e he
    rcases List.mem_append.1 he with he | he
    · rcases List.mem_append.1 he with he | he
      · exact w.2 e (List.mem_filter.1 he).1
      · exact (f2 e he).2
    · exact w.2 e (List.mem_filter.1 he).1

/-- Replacing a whole tile keeps the canonical form. -/
theorem memoriesWf_setTileAll {s : State} (team tile : Nat) (l : List Word) (w : s.memoriesWf = true) :
    (s.setTileAll team tile l).memoriesWf = true := by
  unfold State.setTileAll
  rw [memoriesWf_clearBad, memoriesWf_iff]
  obtain ⟨h1, h2, h3, h4⟩ := (memoriesWf_iff s).1 w
  exact ⟨h1, h2, h3, wf_replaceRun _ _ l h4⟩

/-- Zeroing cells of a memory keeps the canonical form. -/
theorem memoriesWf_zeroTeam {s : State} (p : Nat × Byte → Bool) (w : s.memoriesWf = true) :
    ({ s with team := s.team.filter p } : State).memoriesWf = true := by
  obtain ⟨h1, h2, h3, h4⟩ := (memoriesWf_iff s).1 w
  exact (memoriesWf_iff _).2 ⟨h1, h2, Map.wf_filter p h3, h4⟩

theorem memoriesWf_zeroHbm {s : State} (p : Nat × Byte → Bool) (w : s.memoriesWf = true) :
    ({ s with hbm := s.hbm.filter p } : State).memoriesWf = true := by
  obtain ⟨h1, h2, h3, h4⟩ := (memoriesWf_iff s).1 w
  exact (memoriesWf_iff _).2 ⟨Map.wf_filter p h1, h2, h3, h4⟩

theorem memoriesWf_zeroScratch {s : State} (p : Nat × Byte → Bool) (w : s.memoriesWf = true) :
    ({ s with scratch := s.scratch.filter p } : State).memoriesWf = true := by
  obtain ⟨h1, h2, h3, h4⟩ := (memoriesWf_iff s).1 w
  exact (memoriesWf_iff _).2 ⟨h1, Map.wf_filter p h2, h3, h4⟩

end Sys2Proof.Machine
end

