-- ==== Sys2Proof/Laws/PerInstr.lean ====
section
/-!
SUPPORT. What holds of every instruction as syntax, constructor by constructor: its encoding fits the length that its first bits give, and an
instruction of the opcode map is well formed (R15, R38).
-/
namespace Sys2Proof.Laws.Encoded

/-- The words of an instruction fit the length that they name, and only well-formed terms have words. -/
def Statement (i : Instr) : Prop := ∀ w, encode i = some w → w < 2 ^ (8 * lengthOf w) ∧ i.wf = true

theorem short (w : Nat) (h : w % 2 = 0) (b : w < 65536) : w < 2 ^ (8 * lengthOf w) := by
  have e : lengthOf w = 2 := by simp [lengthOf, h]
  rw [e]; exact b

theorem word (w : Nat) (h : w % 2 = 1) (m : w / 2 % 128 < 104 ∨ 106 < w / 2 % 128) (b : w < 4294967296) : w < 2 ^ (8 * lengthOf w) := by
  have e : lengthOf w = 4 := by simp only [lengthOf]; split <;> first | omega | (split <;> omega)
  rw [e]; exact b

theorem long (w : Nat) (h : w % 2 = 1) (m : 104 ≤ w / 2 % 128 ∧ w / 2 % 128 ≤ 106) (b : w < 2 ^ 160) : w < 2 ^ (8 * lengthOf w) := by
  have e : lengthOf w = 20 := by simp only [lengthOf]; split <;> omega
  rw [e]; exact b

theorem movShort (l : BitVec 1) (sl : BitVec 5) (d : BitVec 5) : Statement (.movShort l sl d) := by
  intro w h; cases h
  have := l.isLt
  have := sl.isLt
  have := d.isLt
  exact ⟨short _ (by omega) (by omega), rfl⟩
theorem iaddShort (l : BitVec 1) (sl : BitVec 5) (d : BitVec 5) : Statement (.iaddShort l sl d) := by
  intro w h; cases h
  have := l.isLt
  have := sl.isLt
  have := d.isLt
  exact ⟨short _ (by omega) (by omega), rfl⟩
theorem isubShort (l : BitVec 1) (sl : BitVec 5) (d : BitVec 5) : Statement (.isubShort l sl d) := by
  intro w h; cases h
  have := l.isLt
  have := sl.isLt
  have := d.isLt
  exact ⟨short _ (by omega) (by omega), rfl⟩
theorem imulShort (l : BitVec 1) (sl : BitVec 5) (d : BitVec 5) : Statement (.imulShort l sl d) := by
  intro w h; cases h
  have := l.isLt
  have := sl.isLt
  have := d.isLt
  exact ⟨short _ (by omega) (by omega), rfl⟩
theorem andShort (l : BitVec 1) (sl : BitVec 5) (d : BitVec 5) : Statement (.andShort l sl d) := by
  intro w h; cases h
  have := l.isLt
  have := sl.isLt
  have := d.isLt
  exact ⟨short _ (by omega) (by omega), rfl⟩
theorem orShort (l : BitVec 1) (sl : BitVec 5) (d : BitVec 5) : Statement (.orShort l sl d) := by
  intro w h; cases h
  have := l.isLt
  have := sl.isLt
  have := d.isLt
  exact ⟨short _ (by omega) (by omega), rfl⟩
theorem xorShort (l : BitVec 1) (sl : BitVec 5) (d : BitVec 5) : Statement (.xorShort l sl d) := by
  intro w h; cases h
  have := l.isLt
  have := sl.isLt
  have := d.isLt
  exact ⟨short _ (by omega) (by omega), rfl⟩
theorem shlShort (l : BitVec 1) (sl : BitVec 5) (d : BitVec 5) : Statement (.shlShort l sl d) := by
  intro w h; cases h
  have := l.isLt
  have := sl.isLt
  have := d.isLt
  exact ⟨short _ (by omega) (by omega), rfl⟩
theorem shrlShort (l : BitVec 1) (sl : BitVec 5) (d : BitVec 5) : Statement (.shrlShort l sl d) := by
  intro w h; cases h
  have := l.isLt
  have := sl.isLt
  have := d.isLt
  exact ⟨short _ (by omega) (by omega), rfl⟩
theorem shraShort (l : BitVec 1) (sl : BitVec 5) (d : BitVec 5) : Statement (.shraShort l sl d) := by
  intro w h; cases h
  have := l.isLt
  have := sl.isLt
  have := d.isLt
  exact ⟨short _ (by omega) (by omega), rfl⟩
theorem faddShort (l : BitVec 1) (sl : BitVec 5) (d : BitVec 5) : Statement (.faddShort l sl d) := by
  intro w h; cases h
  have := l.isLt
  have := sl.isLt
  have := d.isLt
  exact ⟨short _ (by omega) (by omega), rfl⟩
theorem fsubShort (l : BitVec 1) (sl : BitVec 5) (d : BitVec 5) : Statement (.fsubShort l sl d) := by
  intro w h; cases h
  have := l.isLt
  have := sl.isLt
  have := d.isLt
  exact ⟨short _ (by omega) (by omega), rfl⟩
theorem fmulShort (l : BitVec 1) (sl : BitVec 5) (d : BitVec 5) : Statement (.fmulShort l sl d) := by
  intro w h; cases h
  have := l.isLt
  have := sl.isLt
  have := d.isLt
  exact ⟨short _ (by omega) (by omega), rfl⟩
theorem fmaxShort (l : BitVec 1) (sl : BitVec 5) (d : BitVec 5) : Statement (.fmaxShort l sl d) := by
  intro w h; cases h
  have := l.isLt
  have := sl.isLt
  have := d.isLt
  exact ⟨short _ (by omega) (by omega), rfl⟩
theorem fminShort (l : BitVec 1) (sl : BitVec 5) (d : BitVec 5) : Statement (.fminShort l sl d) := by
  intro w h; cases h
  have := l.isLt
  have := sl.isLt
  have := d.isLt
  exact ⟨short _ (by omega) (by omega), rfl⟩
theorem nop : Statement .nop := by
  intro w h; cases h
  exact ⟨short _ (by omega) (by omega), rfl⟩
theorem iadd (g : BitVec 3) (b : BitVec 7) (a : BitVec 7) (d : BitVec 7) : Statement (.iadd g b a d) := by
  intro w h; cases h
  have := g.isLt
  have := b.isLt
  have := a.isLt
  have := d.isLt
  exact ⟨word _ (by omega) (by omega) (by omega), rfl⟩
theorem isub (g : BitVec 3) (b : BitVec 7) (a : BitVec 7) (d : BitVec 7) : Statement (.isub g b a d) := by
  intro w h; cases h
  have := g.isLt
  have := b.isLt
  have := a.isLt
  have := d.isLt
  exact ⟨word _ (by omega) (by omega) (by omega), rfl⟩
theorem imul (g : BitVec 3) (b : BitVec 7) (a : BitVec 7) (d : BitVec 7) : Statement (.imul g b a d) := by
  intro w h; cases h
  have := g.isLt
  have := b.isLt
  have := a.isLt
  have := d.isLt
  exact ⟨word _ (by omega) (by omega) (by omega), rfl⟩
theorem imulhs (g : BitVec 3) (b : BitVec 7) (a : BitVec 7) (d : BitVec 7) : Statement (.imulhs g b a d) := by
  intro w h; cases h
  have := g.isLt
  have := b.isLt
  have := a.isLt
  have := d.isLt
  exact ⟨word _ (by omega) (by omega) (by omega), rfl⟩
theorem imulhn (g : BitVec 3) (b : BitVec 7) (a : BitVec 7) (d : BitVec 7) : Statement (.imulhn g b a d) := by
  intro w h; cases h
  have := g.isLt
  have := b.isLt
  have := a.isLt
  have := d.isLt
  exact ⟨word _ (by omega) (by omega) (by omega), rfl⟩
theorem imins (g : BitVec 3) (b : BitVec 7) (a : BitVec 7) (d : BitVec 7) : Statement (.imins g b a d) := by
  intro w h; cases h
  have := g.isLt
  have := b.isLt
  have := a.isLt
  have := d.isLt
  exact ⟨word _ (by omega) (by omega) (by omega), rfl⟩
theorem imaxs (g : BitVec 3) (b : BitVec 7) (a : BitVec 7) (d : BitVec 7) : Statement (.imaxs g b a d) := by
  intro w h; cases h
  have := g.isLt
  have := b.isLt
  have := a.isLt
  have := d.isLt
  exact ⟨word _ (by omega) (by omega) (by omega), rfl⟩
theorem iminn (g : BitVec 3) (b : BitVec 7) (a : BitVec 7) (d : BitVec 7) : Statement (.iminn g b a d) := by
  intro w h; cases h
  have := g.isLt
  have := b.isLt
  have := a.isLt
  have := d.isLt
  exact ⟨word _ (by omega) (by omega) (by omega), rfl⟩
theorem imaxn (g : BitVec 3) (b : BitVec 7) (a : BitVec 7) (d : BitVec 7) : Statement (.imaxn g b a d) := by
  intro w h; cases h
  have := g.isLt
  have := b.isLt
  have := a.isLt
  have := d.isLt
  exact ⟨word _ (by omega) (by omega) (by omega), rfl⟩
theorem and (g : BitVec 3) (b : BitVec 7) (a : BitVec 7) (d : BitVec 7) : Statement (.and g b a d) := by
  intro w h; cases h
  have := g.isLt
  have := b.isLt
  have := a.isLt
  have := d.isLt
  exact ⟨word _ (by omega) (by omega) (by omega), rfl⟩
theorem or (g : BitVec 3) (b : BitVec 7) (a : BitVec 7) (d : BitVec 7) : Statement (.or g b a d) := by
  intro w h; cases h
  have := g.isLt
  have := b.isLt
  have := a.isLt
  have := d.isLt
  exact ⟨word _ (by omega) (by omega) (by omega), rfl⟩
theorem xor (g : BitVec 3) (b : BitVec 7) (a : BitVec 7) (d : BitVec 7) : Statement (.xor g b a d) := by
  intro w h; cases h
  have := g.isLt
  have := b.isLt
  have := a.isLt
  have := d.isLt
  exact ⟨word _ (by omega) (by omega) (by omega), rfl⟩
theorem andn (g : BitVec 3) (b : BitVec 7) (a : BitVec 7) (d : BitVec 7) : Statement (.andn g b a d) := by
  intro w h; cases h
  have := g.isLt
  have := b.isLt
  have := a.isLt
  have := d.isLt
  exact ⟨word _ (by omega) (by omega) (by omega), rfl⟩
theorem shl (g : BitVec 3) (b : BitVec 7) (a : BitVec 7) (d : BitVec 7) : Statement (.shl g b a d) := by
  intro w h; cases h
  have := g.isLt
  have := b.isLt
  have := a.isLt
  have := d.isLt
  exact ⟨word _ (by omega) (by omega) (by omega), rfl⟩
theorem shrl (g : BitVec 3) (b : BitVec 7) (a : BitVec 7) (d : BitVec 7) : Statement (.shrl g b a d) := by
  intro w h; cases h
  have := g.isLt
  have := b.isLt
  have := a.isLt
  have := d.isLt
  exact ⟨word _ (by omega) (by omega) (by omega), rfl⟩
theorem shra (g : BitVec 3) (b : BitVec 7) (a : BitVec 7) (d : BitVec 7) : Statement (.shra g b a d) := by
  intro w h; cases h
  have := g.isLt
  have := b.isLt
  have := a.isLt
  have := d.isLt
  exact ⟨word _ (by omega) (by omega) (by omega), rfl⟩
theorem rotl (g : BitVec 3) (b : BitVec 7) (a : BitVec 7) (d : BitVec 7) : Statement (.rotl g b a d) := by
  intro w h; cases h
  have := g.isLt
  have := b.isLt
  have := a.isLt
  have := d.isLt
  exact ⟨word _ (by omega) (by omega) (by omega), rfl⟩
theorem iabsd (g : BitVec 3) (b : BitVec 7) (a : BitVec 7) (d : BitVec 7) : Statement (.iabsd g b a d) := by
  intro w h; cases h
  have := g.isLt
  have := b.isLt
  have := a.isLt
  have := d.isLt
  exact ⟨word _ (by omega) (by omega) (by omega), rfl⟩
theorem fadd (g : BitVec 3) (b : BitVec 7) (a : BitVec 7) (d : BitVec 7) : Statement (.fadd g b a d) := by
  intro w h; cases h
  have := g.isLt
  have := b.isLt
  have := a.isLt
  have := d.isLt
  exact ⟨word _ (by omega) (by omega) (by omega), rfl⟩
theorem fsub (g : BitVec 3) (b : BitVec 7) (a : BitVec 7) (d : BitVec 7) : Statement (.fsub g b a d) := by
  intro w h; cases h
  have := g.isLt
  have := b.isLt
  have := a.isLt
  have := d.isLt
  exact ⟨word _ (by omega) (by omega) (by omega), rfl⟩
theorem fmul (g : BitVec 3) (b : BitVec 7) (a : BitVec 7) (d : BitVec 7) : Statement (.fmul g b a d) := by
  intro w h; cases h
  have := g.isLt
  have := b.isLt
  have := a.isLt
  have := d.isLt
  exact ⟨word _ (by omega) (by omega) (by omega), rfl⟩
theorem fmac (g : BitVec 3) (b : BitVec 7) (a : BitVec 7) (d : BitVec 7) : Statement (.fmac g b a d) := by
  intro w h; cases h
  have := g.isLt
  have := b.isLt
  have := a.isLt
  have := d.isLt
  exact ⟨word _ (by omega) (by omega) (by omega), rfl⟩
theorem fmin (g : BitVec 3) (b : BitVec 7) (a : BitVec 7) (d : BitVec 7) : Statement (.fmin g b a d) := by
  intro w h; cases h
  have := g.isLt
  have := b.isLt
  have := a.isLt
  have := d.isLt
  exact ⟨word _ (by omega) (by omega) (by omega), rfl⟩
theorem fmax (g : BitVec 3) (b : BitVec 7) (a : BitVec 7) (d : BitVec 7) : Statement (.fmax g b a d) := by
  intro w h; cases h
  have := g.isLt
  have := b.isLt
  have := a.isLt
  have := d.isLt
  exact ⟨word _ (by omega) (by omega) (by omega), rfl⟩
theorem fcpys (g : BitVec 3) (b : BitVec 7) (a : BitVec 7) (d : BitVec 7) : Statement (.fcpys g b a d) := by
  intro w h; cases h
  have := g.isLt
  have := b.isLt
  have := a.isLt
  have := d.isLt
  exact ⟨word _ (by omega) (by omega) (by omega), rfl⟩
theorem fscale (g : BitVec 3) (b : BitVec 7) (a : BitVec 7) (d : BitVec 7) : Statement (.fscale g b a d) := by
  intro w h; cases h
  have := g.isLt
  have := b.isLt
  have := a.isLt
  have := d.isLt
  exact ⟨word _ (by omega) (by omega) (by omega), rfl⟩
theorem hadd2 (g : BitVec 3) (b : BitVec 7) (a : BitVec 7) (d : BitVec 7) : Statement (.hadd2 g b a d) := by
  intro w h; cases h
  have := g.isLt
  have := b.isLt
  have := a.isLt
  have := d.isLt
  exact ⟨word _ (by omega) (by omega) (by omega), rfl⟩
theorem hsub2 (g : BitVec 3) (b : BitVec 7) (a : BitVec 7) (d : BitVec 7) : Statement (.hsub2 g b a d) := by
  intro w h; cases h
  have := g.isLt
  have := b.isLt
  have := a.isLt
  have := d.isLt
  exact ⟨word _ (by omega) (by omega) (by omega), rfl⟩
theorem hmul2 (g : BitVec 3) (b : BitVec 7) (a : BitVec 7) (d : BitVec 7) : Statement (.hmul2 g b a d) := by
  intro w h; cases h
  have := g.isLt
  have := b.isLt
  have := a.isLt
  have := d.isLt
  exact ⟨word _ (by omega) (by omega) (by omega), rfl⟩
theorem hfmac2 (g : BitVec 3) (b : BitVec 7) (a : BitVec 7) (d : BitVec 7) : Statement (.hfmac2 g b a d) := by
  intro w h; cases h
  have := g.isLt
  have := b.isLt
  have := a.isLt
  have := d.isLt
  exact ⟨word _ (by omega) (by omega) (by omega), rfl⟩
theorem hmin2 (g : BitVec 3) (b : BitVec 7) (a : BitVec 7) (d : BitVec 7) : Statement (.hmin2 g b a d) := by
  intro w h; cases h
  have := g.isLt
  have := b.isLt
  have := a.isLt
  have := d.isLt
  exact ⟨word _ (by omega) (by omega) (by omega), rfl⟩
theorem hmax2 (g : BitVec 3) (b : BitVec 7) (a : BitVec 7) (d : BitVec 7) : Statement (.hmax2 g b a d) := by
  intro w h; cases h
  have := g.isLt
  have := b.isLt
  have := a.isLt
  have := d.isLt
  exact ⟨word _ (by omega) (by omega) (by omega), rfl⟩
theorem badd2 (g : BitVec 3) (b : BitVec 7) (a : BitVec 7) (d : BitVec 7) : Statement (.badd2 g b a d) := by
  intro w h; cases h
  have := g.isLt
  have := b.isLt
  have := a.isLt
  have := d.isLt
  exact ⟨word _ (by omega) (by omega) (by omega), rfl⟩
theorem bsub2 (g : BitVec 3) (b : BitVec 7) (a : BitVec 7) (d : BitVec 7) : Statement (.bsub2 g b a d) := by
  intro w h; cases h
  have := g.isLt
  have := b.isLt
  have := a.isLt
  have := d.isLt
  exact ⟨word _ (by omega) (by omega) (by omega), rfl⟩
theorem bmul2 (g : BitVec 3) (b : BitVec 7) (a : BitVec 7) (d : BitVec 7) : Statement (.bmul2 g b a d) := by
  intro w h; cases h
  have := g.isLt
  have := b.isLt
  have := a.isLt
  have := d.isLt
  exact ⟨word _ (by omega) (by omega) (by omega), rfl⟩
theorem bfmac2 (g : BitVec 3) (b : BitVec 7) (a : BitVec 7) (d : BitVec 7) : Statement (.bfmac2 g b a d) := by
  intro w h; cases h
  have := g.isLt
  have := b.isLt
  have := a.isLt
  have := d.isLt
  exact ⟨word _ (by omega) (by omega) (by omega), rfl⟩
theorem bmin2 (g : BitVec 3) (b : BitVec 7) (a : BitVec 7) (d : BitVec 7) : Statement (.bmin2 g b a d) := by
  intro w h; cases h
  have := g.isLt
  have := b.isLt
  have := a.isLt
  have := d.isLt
  exact ⟨word _ (by omega) (by omega) (by omega), rfl⟩
theorem bmax2 (g : BitVec 3) (b : BitVec 7) (a : BitVec 7) (d : BitVec 7) : Statement (.bmax2 g b a d) := by
  intro w h; cases h
  have := g.isLt
  have := b.isLt
  have := a.isLt
  have := d.isLt
  exact ⟨word _ (by omega) (by omega) (by omega), rfl⟩
theorem sel (g : BitVec 3) (b : BitVec 7) (a : BitVec 7) (d : BitVec 7) : Statement (.sel g b a d) := by
  intro w h; cases h
  have := g.isLt
  have := b.isLt
  have := a.isLt
  have := d.isLt
  exact ⟨word _ (by omega) (by omega) (by omega), rfl⟩
theorem prmt (g : BitVec 3) (b : BitVec 7) (a : BitVec 7) (d : BitVec 7) : Statement (.prmt g b a d) := by
  intro w h; cases h
  have := g.isLt
  have := b.isLt
  have := a.isLt
  have := d.isLt
  exact ⟨word _ (by omega) (by omega) (by omega), rfl⟩
theorem iaddi (im : BitVec 10) (a : BitVec 7) (d : BitVec 7) : Statement (.iaddi im a d) := by
  intro w h; cases h
  have := im.isLt
  have := a.isLt
  have := d.isLt
  exact ⟨word _ (by omega) (by omega) (by omega), rfl⟩
theorem imuli (im : BitVec 10) (a : BitVec 7) (d : BitVec 7) : Statement (.imuli im a d) := by
  intro w h; cases h
  have := im.isLt
  have := a.isLt
  have := d.isLt
  exact ⟨word _ (by omega) (by omega) (by omega), rfl⟩
theorem andi (im : BitVec 10) (a : BitVec 7) (d : BitVec 7) : Statement (.andi im a d) := by
  intro w h; cases h
  have := im.isLt
  have := a.isLt
  have := d.isLt
  exact ⟨word _ (by omega) (by omega) (by omega), rfl⟩
theorem ori (im : BitVec 10) (a : BitVec 7) (d : BitVec 7) : Statement (.ori im a d) := by
  intro w h; cases h
  have := im.isLt
  have := a.isLt
  have := d.isLt
  exact ⟨word _ (by omega) (by omega) (by omega), rfl⟩
theorem xori (im : BitVec 10) (a : BitVec 7) (d : BitVec 7) : Statement (.xori im a d) := by
  intro w h; cases h
  have := im.isLt
  have := a.isLt
  have := d.isLt
  exact ⟨word _ (by omega) (by omega) (by omega), rfl⟩
theorem shli (c : BitVec 5) (a : BitVec 7) (d : BitVec 7) : Statement (.shli c a d) := by
  intro w h; cases h
  have := c.isLt
  have := a.isLt
  have := d.isLt
  exact ⟨word _ (by omega) (by omega) (by omega), rfl⟩
theorem shrli (c : BitVec 5) (a : BitVec 7) (d : BitVec 7) : Statement (.shrli c a d) := by
  intro w h; cases h
  have := c.isLt
  have := a.isLt
  have := d.isLt
  exact ⟨word _ (by omega) (by omega) (by omega), rfl⟩
theorem shrai (c : BitVec 5) (a : BitVec 7) (d : BitVec 7) : Statement (.shrai c a d) := by
  intro w h; cases h
  have := c.isLt
  have := a.isLt
  have := d.isLt
  exact ⟨word _ (by omega) (by omega) (by omega), rfl⟩
theorem movi (im : BitVec 10) (d : BitVec 7) : Statement (.movi im d) := by
  intro w h; cases h
  have := im.isLt
  have := d.isLt
  exact ⟨word _ (by omega) (by omega) (by omega), rfl⟩
theorem movhi (im : BitVec 10) (a : BitVec 7) (d : BitVec 7) : Statement (.movhi im a d) := by
  intro w h; cases h
  have := im.isLt
  have := a.isLt
  have := d.isLt
  exact ⟨word _ (by omega) (by omega) (by omega), rfl⟩
theorem icmps (c : BitVec 1) (g : BitVec 3) (b : BitVec 7) (a : BitVec 7) (n : BitVec 3) (p : BitVec 3) : Statement (.icmps c g b a n p) := by
  intro w h; cases h
  have := c.isLt
  have := g.isLt
  have := b.isLt
  have := a.isLt
  have := n.isLt
  have := p.isLt
  exact ⟨word _ (by omega) (by omega) (by omega), rfl⟩
theorem icmpn (c : BitVec 1) (g : BitVec 3) (b : BitVec 7) (a : BitVec 7) (n : BitVec 3) (p : BitVec 3) : Statement (.icmpn c g b a n p) := by
  intro w h; cases h
  have := c.isLt
  have := g.isLt
  have := b.isLt
  have := a.isLt
  have := n.isLt
  have := p.isLt
  exact ⟨word _ (by omega) (by omega) (by omega), rfl⟩
theorem fcmp (c : BitVec 1) (g : BitVec 3) (b : BitVec 7) (a : BitVec 7) (n : BitVec 3) (p : BitVec 3) : Statement (.fcmp c g b a n p) := by
  intro w h; cases h
  have := c.isLt
  have := g.isLt
  have := b.isLt
  have := a.isLt
  have := n.isLt
  have := p.isLt
  exact ⟨word _ (by omega) (by omega) (by omega), rfl⟩
theorem plop (c : BitVec 1) (g : BitVec 3) (b : BitVec 3) (a : BitVec 3) (n : BitVec 3) (p : BitVec 3) : Statement (.plop c g b a n p) := by
  intro w h; cases h
  have := c.isLt
  have := g.isLt
  have := b.isLt
  have := a.isLt
  have := n.isLt
  have := p.isLt
  exact ⟨word _ (by omega) (by omega) (by omega), rfl⟩
theorem frcp (g : BitVec 3) (a : BitVec 7) (d : BitVec 7) : Statement (.frcp g a d) := by
  intro w h; cases h
  have := g.isLt
  have := a.isLt
  have := d.isLt
  exact ⟨word _ (by omega) (by omega) (by omega), rfl⟩
theorem frsq (g : BitVec 3) (a : BitVec 7) (d : BitVec 7) : Statement (.frsq g a d) := by
  intro w h; cases h
  have := g.isLt
  have := a.isLt
  have := d.isLt
  exact ⟨word _ (by omega) (by omega) (by omega), rfl⟩
theorem fsqrt (g : BitVec 3) (a : BitVec 7) (d : BitVec 7) : Statement (.fsqrt g a d) := by
  intro w h; cases h
  have := g.isLt
  have := a.isLt
  have := d.isLt
  exact ⟨word _ (by omega) (by omega) (by omega), rfl⟩
theorem fexp2 (g : BitVec 3) (a : BitVec 7) (d : BitVec 7) : Statement (.fexp2 g a d) := by
  intro w h; cases h
  have := g.isLt
  have := a.isLt
  have := d.isLt
  exact ⟨word _ (by omega) (by omega) (by omega), rfl⟩
theorem flog2 (g : BitVec 3) (a : BitVec 7) (d : BitVec 7) : Statement (.flog2 g a d) := by
  intro w h; cases h
  have := g.isLt
  have := a.isLt
  have := d.isLt
  exact ⟨word _ (by omega) (by omega) (by omega), rfl⟩
theorem fsin (g : BitVec 3) (a : BitVec 7) (d : BitVec 7) : Statement (.fsin g a d) := by
  intro w h; cases h
  have := g.isLt
  have := a.isLt
  have := d.isLt
  exact ⟨word _ (by omega) (by omega) (by omega), rfl⟩
theorem fcos (g : BitVec 3) (a : BitVec 7) (d : BitVec 7) : Statement (.fcos g a d) := by
  intro w h; cases h
  have := g.isLt
  have := a.isLt
  have := d.isLt
  exact ⟨word _ (by omega) (by omega) (by omega), rfl⟩
theorem ftanh (g : BitVec 3) (a : BitVec 7) (d : BitVec 7) : Statement (.ftanh g a d) := by
  intro w h; cases h
  have := g.isLt
  have := a.isLt
  have := d.isLt
  exact ⟨word _ (by omega) (by omega) (by omega), rfl⟩
theorem fabs (g : BitVec 3) (a : BitVec 7) (d : BitVec 7) : Statement (.fabs g a d) := by
  intro w h; cases h
  have := g.isLt
  have := a.isLt
  have := d.isLt
  exact ⟨word _ (by omega) (by omega) (by omega), rfl⟩
theorem fneg (g : BitVec 3) (a : BitVec 7) (d : BitVec 7) : Statement (.fneg g a d) := by
  intro w h; cases h
  have := g.isLt
  have := a.isLt
  have := d.isLt
  exact ⟨word _ (by omega) (by omega) (by omega), rfl⟩
theorem ffloor (g : BitVec 3) (a : BitVec 7) (d : BitVec 7) : Statement (.ffloor g a d) := by
  intro w h; cases h
  have := g.isLt
  have := a.isLt
  have := d.isLt
  exact ⟨word _ (by omega) (by omega) (by omega), rfl⟩
theorem fceil (g : BitVec 3) (a : BitVec 7) (d : BitVec 7) : Statement (.fceil g a d) := by
  intro w h; cases h
  have := g.isLt
  have := a.isLt
  have := d.isLt
  exact ⟨word _ (by omega) (by omega) (by omega), rfl⟩
theorem frint (g : BitVec 3) (a : BitVec 7) (d : BitVec 7) : Statement (.frint g a d) := by
  intro w h; cases h
  have := g.isLt
  have := a.isLt
  have := d.isLt
  exact ⟨word _ (by omega) (by omega) (by omega), rfl⟩
theorem fexpn (g : BitVec 3) (a : BitVec 7) (d : BitVec 7) : Statement (.fexpn g a d) := by
  intro w h; cases h
  have := g.isLt
  have := a.isLt
  have := d.isLt
  exact ⟨word _ (by omega) (by omega) (by omega), rfl⟩
theorem not (g : BitVec 3) (a : BitVec 7) (d : BitVec 7) : Statement (.not g a d) := by
  intro w h; cases h
  have := g.isLt
  have := a.isLt
  have := d.isLt
  exact ⟨word _ (by omega) (by omega) (by omega), rfl⟩
theorem neg (g : BitVec 3) (a : BitVec 7) (d : BitVec 7) : Statement (.neg g a d) := by
  intro w h; cases h
  have := g.isLt
  have := a.isLt
  have := d.isLt
  exact ⟨word _ (by omega) (by omega) (by omega), rfl⟩
theorem abs (g : BitVec 3) (a : BitVec 7) (d : BitVec 7) : Statement (.abs g a d) := by
  intro w h; cases h
  have := g.isLt
  have := a.isLt
  have := d.isLt
  exact ⟨word _ (by omega) (by omega) (by omega), rfl⟩
theorem popc (g : BitVec 3) (a : BitVec 7) (d : BitVec 7) : Statement (.popc g a d) := by
  intro w h; cases h
  have := g.isLt
  have := a.isLt
  have := d.isLt
  exact ⟨word _ (by omega) (by omega) (by omega), rfl⟩
theorem clz (g : BitVec 3) (a : BitVec 7) (d : BitVec 7) : Statement (.clz g a d) := by
  intro w h; cases h
  have := g.isLt
  have := a.isLt
  have := d.isLt
  exact ⟨word _ (by omega) (by omega) (by omega), rfl⟩
theorem brev (g : BitVec 3) (a : BitVec 7) (d : BitVec 7) : Statement (.brev g a d) := by
  intro w h; cases h
  have := g.isLt
  have := a.isLt
  have := d.isLt
  exact ⟨word _ (by omega) (by omega) (by omega), rfl⟩
theorem sext8 (g : BitVec 3) (a : BitVec 7) (d : BitVec 7) : Statement (.sext8 g a d) := by
  intro w h; cases h
  have := g.isLt
  have := a.isLt
  have := d.isLt
  exact ⟨word _ (by omega) (by omega) (by omega), rfl⟩
theorem sext16 (g : BitVec 3) (a : BitVec 7) (d : BitVec 7) : Statement (.sext16 g a d) := by
  intro w h; cases h
  have := g.isLt
  have := a.isLt
  have := d.isLt
  exact ⟨word _ (by omega) (by omega) (by omega), rfl⟩
theorem cvtS32F32 (g : BitVec 3) (r : BitVec 3) (a : BitVec 7) (d : BitVec 7) : Statement (.cvtS32F32 g r a d) := by
  intro w h; cases h
  have := g.isLt
  have := r.isLt
  have := a.isLt
  have := d.isLt
  exact ⟨word _ (by omega) (by omega) (by omega), rfl⟩
theorem cvtN32F32 (g : BitVec 3) (r : BitVec 3) (a : BitVec 7) (d : BitVec 7) : Statement (.cvtN32F32 g r a d) := by
  intro w h; cases h
  have := g.isLt
  have := r.isLt
  have := a.isLt
  have := d.isLt
  exact ⟨word _ (by omega) (by omega) (by omega), rfl⟩
theorem cvtF32S32 (g : BitVec 3) (r : BitVec 3) (a : BitVec 7) (d : BitVec 7) : Statement (.cvtF32S32 g r a d) := by
  intro w h; cases h
  have := g.isLt
  have := r.isLt
  have := a.isLt
  have := d.isLt
  exact ⟨word _ (by omega) (by omega) (by omega), rfl⟩
theorem cvtF32N32 (g : BitVec 3) (r : BitVec 3) (a : BitVec 7) (d : BitVec 7) : Statement (.cvtF32N32 g r a d) := by
  intro w h; cases h
  have := g.isLt
  have := r.isLt
  have := a.isLt
  have := d.isLt
  exact ⟨word _ (by omega) (by omega) (by omega), rfl⟩
theorem cvtH2F32 (g : BitVec 3) (r : BitVec 3) (a : BitVec 7) (d : BitVec 7) : Statement (.cvtH2F32 g r a d) := by
  intro w h; cases h
  have := g.isLt
  have := r.isLt
  have := a.isLt
  have := d.isLt
  exact ⟨word _ (by omega) (by omega) (by omega), rfl⟩
theorem cvtB2F32 (g : BitVec 3) (r : BitVec 3) (a : BitVec 7) (d : BitVec 7) : Statement (.cvtB2F32 g r a d) := by
  intro w h; cases h
  have := g.isLt
  have := r.isLt
  have := a.isLt
  have := d.isLt
  exact ⟨word _ (by omega) (by omega) (by omega), rfl⟩
theorem cvtF32H2 (g : BitVec 3) (r : BitVec 3) (a : BitVec 7) (d : BitVec 7) : Statement (.cvtF32H2 g r a d) := by
  intro w h; cases h
  have := g.isLt
  have := r.isLt
  have := a.isLt
  have := d.isLt
  exact ⟨word _ (by omega) (by omega) (by omega), rfl⟩
theorem cvtF32B2 (g : BitVec 3) (r : BitVec 3) (a : BitVec 7) (d : BitVec 7) : Statement (.cvtF32B2 g r a d) := by
  intro w h; cases h
  have := g.isLt
  have := r.isLt
  have := a.isLt
  have := d.isLt
  exact ⟨word _ (by omega) (by omega) (by omega), rfl⟩
theorem cvtB2H2 (g : BitVec 3) (r : BitVec 3) (a : BitVec 7) (d : BitVec 7) : Statement (.cvtB2H2 g r a d) := by
  intro w h; cases h
  have := g.isLt
  have := r.isLt
  have := a.isLt
  have := d.isLt
  exact ⟨word _ (by omega) (by omega) (by omega), rfl⟩
theorem cvtH2B2 (g : BitVec 3) (r : BitVec 3) (a : BitVec 7) (d : BitVec 7) : Statement (.cvtH2B2 g r a d) := by
  intro w h; cases h
  have := g.isLt
  have := r.isLt
  have := a.isLt
  have := d.isLt
  exact ⟨word _ (by omega) (by omega) (by omega), rfl⟩
theorem qnt4 (f : BitVec 3) (b : BitVec 7) (a : BitVec 7) (d : BitVec 7) : Statement (.qnt4 f b a d) := by
  intro w h; cases h
  have := f.isLt
  have := b.isLt
  have := a.isLt
  have := d.isLt
  exact ⟨word _ (by omega) (by omega) (by omega), rfl⟩
theorem qnt8 (f : BitVec 3) (b : BitVec 7) (a : BitVec 7) (d : BitVec 7) : Statement (.qnt8 f b a d) := by
  intro w h; cases h
  have := f.isLt
  have := b.isLt
  have := a.isLt
  have := d.isLt
  exact ⟨word _ (by omega) (by omega) (by omega), rfl⟩
theorem dqnt4 (f : BitVec 3) (b : BitVec 7) (a : BitVec 7) (q : BitVec 5) : Statement (.dqnt4 f b a q) := by
  intro w h; cases h
  have := f.isLt
  have := b.isLt
  have := a.isLt
  have := q.isLt
  exact ⟨word _ (by omega) (by omega) (by omega), rfl⟩
theorem dqnt8 (f : BitVec 3) (b : BitVec 7) (a : BitVec 7) (q : BitVec 5) : Statement (.dqnt8 f b a q) := by
  intro w h; cases h
  have := f.isLt
  have := b.isLt
  have := a.isLt
  have := q.isLt
  exact ⟨word _ (by omega) (by omega) (by omega), rfl⟩
theorem amax (g : BitVec 3) (sl : BitVec 2) (l : BitVec 2) (a : BitVec 7) (d : BitVec 7) : Statement (.amax g sl l a d) := by
  intro w h; cases h
  have := g.isLt
  have := sl.isLt
  have := l.isLt
  have := a.isLt
  have := d.isLt
  exact ⟨word _ (by omega) (by omega) (by omega), rfl⟩
theorem shfl (m : BitVec 2) (b : BitVec 7) (a : BitVec 7) (d : BitVec 7) : Statement (.shfl m b a d) := by
  intro w h; cases h
  have := m.isLt
  have := b.isLt
  have := a.isLt
  have := d.isLt
  exact ⟨word _ (by omega) (by omega) (by omega), rfl⟩
theorem ballot (sl : BitVec 3) (d : BitVec 7) : Statement (.ballot sl d) := by
  intro w h; cases h
  have := sl.isLt
  have := d.isLt
  exact ⟨word _ (by omega) (by omega) (by omega), rfl⟩
theorem voteAny (p : BitVec 3) (sl : BitVec 3) : Statement (.voteAny p sl) := by
  intro w h; cases h
  have := p.isLt
  have := sl.isLt
  exact ⟨word _ (by omega) (by omega) (by omega), rfl⟩
theorem voteAll (p : BitVec 3) (sl : BitVec 3) : Statement (.voteAll p sl) := by
  intro w h; cases h
  have := p.isLt
  have := sl.isLt
  exact ⟨word _ (by omega) (by omega) (by omega), rfl⟩
theorem voteUni (p : BitVec 3) (sl : BitVec 3) : Statement (.voteUni p sl) := by
  intro w h; cases h
  have := p.isLt
  have := sl.isLt
  exact ⟨word _ (by omega) (by omega) (by omega), rfl⟩
theorem reduxIadd (a : BitVec 7) (d : BitVec 7) : Statement (.reduxIadd a d) := by
  intro w h; cases h
  have := a.isLt
  have := d.isLt
  exact ⟨word _ (by omega) (by omega) (by omega), rfl⟩
theorem reduxImins (a : BitVec 7) (d : BitVec 7) : Statement (.reduxImins a d) := by
  intro w h; cases h
  have := a.isLt
  have := d.isLt
  exact ⟨word _ (by omega) (by omega) (by omega), rfl⟩
theorem reduxImaxs (a : BitVec 7) (d : BitVec 7) : Statement (.reduxImaxs a d) := by
  intro w h; cases h
  have := a.isLt
  have := d.isLt
  exact ⟨word _ (by omega) (by omega) (by omega), rfl⟩
theorem reduxIminn (a : BitVec 7) (d : BitVec 7) : Statement (.reduxIminn a d) := by
  intro w h; cases h
  have := a.isLt
  have := d.isLt
  exact ⟨word _ (by omega) (by omega) (by omega), rfl⟩
theorem reduxImaxn (a : BitVec 7) (d : BitVec 7) : Statement (.reduxImaxn a d) := by
  intro w h; cases h
  have := a.isLt
  have := d.isLt
  exact ⟨word _ (by omega) (by omega) (by omega), rfl⟩
theorem reduxAnd (a : BitVec 7) (d : BitVec 7) : Statement (.reduxAnd a d) := by
  intro w h; cases h
  have := a.isLt
  have := d.isLt
  exact ⟨word _ (by omega) (by omega) (by omega), rfl⟩
theorem reduxOr (a : BitVec 7) (d : BitVec 7) : Statement (.reduxOr a d) := by
  intro w h; cases h
  have := a.isLt
  have := d.isLt
  exact ⟨word _ (by omega) (by omega) (by omega), rfl⟩
theorem reduxXor (a : BitVec 7) (d : BitVec 7) : Statement (.reduxXor a d) := by
  intro w h; cases h
  have := a.isLt
  have := d.isLt
  exact ⟨word _ (by omega) (by omega) (by omega), rfl⟩
theorem reduxFadd (a : BitVec 7) (d : BitVec 7) : Statement (.reduxFadd a d) := by
  intro w h; cases h
  have := a.isLt
  have := d.isLt
  exact ⟨word _ (by omega) (by omega) (by omega), rfl⟩
theorem reduxFmax (a : BitVec 7) (d : BitVec 7) : Statement (.reduxFmax a d) := by
  intro w h; cases h
  have := a.isLt
  have := d.isLt
  exact ⟨word _ (by omega) (by omega) (by omega), rfl⟩
theorem matchLanes (p : BitVec 3) (a : BitVec 7) (d : BitVec 7) : Statement (.matchLanes p a d) := by
  intro w h; cases h
  have := p.isLt
  have := a.isLt
  have := d.isLt
  exact ⟨word _ (by omega) (by omega) (by omega), rfl⟩
theorem readlane (k : BitVec 5) (a : BitVec 7) (d : BitVec 7) : Statement (.readlane k a d) := by
  intro w h; cases h
  have := k.isLt
  have := a.isLt
  have := d.isLt
  exact ⟨word _ (by omega) (by omega) (by omega), rfl⟩
theorem tmovToReg (t : BitVec 6) (x : BitVec 1) (sl : BitVec 6) (im : BitVec 5) (v : BitVec 5) : Statement (.tmovToReg t x sl im v) := by
  intro w h; cases h
  have := t.isLt
  have := x.isLt
  have := sl.isLt
  have := im.isLt
  have := v.isLt
  exact ⟨word _ (by omega) (by omega) (by omega), rfl⟩
theorem tmovToTile (t : BitVec 6) (x : BitVec 1) (sl : BitVec 6) (im : BitVec 5) (v : BitVec 5) : Statement (.tmovToTile t x sl im v) := by
  intro w h; cases h
  have := t.isLt
  have := x.isLt
  have := sl.isLt
  have := im.isLt
  have := v.isLt
  exact ⟨word _ (by omega) (by omega) (by omega), rfl⟩
theorem tzero (t : BitVec 6) : Statement (.tzero t) := by
  intro w h; cases h
  have := t.isLt
  exact ⟨word _ (by omega) (by omega) (by omega), rfl⟩
theorem tldt (t : BitVec 6) (a : BitVec 6) (x : BitVec 6) : Statement (.tldt t a x) := by
  intro w h; cases h
  have := t.isLt
  have := a.isLt
  have := x.isLt
  exact ⟨word _ (by omega) (by omega) (by omega), rfl⟩
theorem tstt (t : BitVec 6) (a : BitVec 6) (x : BitVec 6) : Statement (.tstt t a x) := by
  intro w h; cases h
  have := t.isLt
  have := a.isLt
  have := x.isLt
  exact ⟨word _ (by omega) (by omega) (by omega), rfl⟩
theorem tepi (t : BitVec 6) (a : BitVec 6) (x : BitVec 6) (f : BitVec 3) : Statement (.tepi t a x f) := by
  intro w h; cases h
  have := t.isLt
  have := a.isLt
  have := x.isLt
  have := f.isLt
  exact ⟨word _ (by omega) (by omega) (by omega), rfl⟩
theorem mma (t : BitVec 6) (sl : BitVec 5) (b : BitVec 3) (a : BitVec 3) (c : BitVec 1) (y : BitVec 1) (r : BitVec 1) (v : BitVec 3) : Statement (.mma t sl b a c y r v) := by
  intro w h; cases h
  have := t.isLt
  have := sl.isLt
  have := b.isLt
  have := a.isLt
  have := c.isLt
  have := y.isLt
  have := r.isLt
  have := v.isLt
  exact ⟨word _ (by omega) (by omega) (by omega), rfl⟩
theorem mmaF16 (t : BitVec 6) (sl : BitVec 5) (y : BitVec 1) (r : BitVec 1) (v : BitVec 3) : Statement (.mmaF16 t sl y r v) := by
  intro w h; cases h
  have := t.isLt
  have := sl.isLt
  have := y.isLt
  have := r.isLt
  have := v.isLt
  exact ⟨word _ (by omega) (by omega) (by omega), rfl⟩
theorem mmaBf16 (t : BitVec 6) (sl : BitVec 5) (y : BitVec 1) (r : BitVec 1) (v : BitVec 3) : Statement (.mmaBf16 t sl y r v) := by
  intro w h; cases h
  have := t.isLt
  have := sl.isLt
  have := y.isLt
  have := r.isLt
  have := v.isLt
  exact ⟨word _ (by omega) (by omega) (by omega), rfl⟩
theorem rcfg (k : BitVec 3) (a : BitVec 6) (b : BitVec 6) : Statement (.rcfg k a b) := by
  intro w h; cases h
  have := k.isLt
  have := a.isLt
  have := b.isLt
  exact ⟨word _ (by omega) (by omega) (by omega), rfl⟩
theorem rwaitF (k : BitVec 3) (p : BitVec 1) (im : BitVec 4) (a : BitVec 6) : Statement (.rwaitF k p im a) := by
  intro w h; cases h
  have := k.isLt
  have := p.isLt
  have := im.isLt
  have := a.isLt
  exact ⟨word _ (by omega) (by omega) (by omega), rfl⟩
theorem rwaitE (k : BitVec 3) (p : BitVec 1) (im : BitVec 4) (a : BitVec 6) : Statement (.rwaitE k p im a) := by
  intro w h; cases h
  have := k.isLt
  have := p.isLt
  have := im.isLt
  have := a.isLt
  exact ⟨word _ (by omega) (by omega) (by omega), rfl⟩
theorem rrel (k : BitVec 3) (im : BitVec 4) (a : BitVec 6) : Statement (.rrel k im a) := by
  intro w h; cases h
  have := k.isLt
  have := im.isLt
  have := a.isLt
  exact ⟨word _ (by omega) (by omega) (by omega), rfl⟩
theorem rarv (k : BitVec 3) (im : BitVec 4) (a : BitVec 6) : Statement (.rarv k im a) := by
  intro w h; cases h
  have := k.isLt
  have := im.isLt
  have := a.isLt
  exact ⟨word _ (by omega) (by omega) (by omega), rfl⟩
theorem rstat (k : BitVec 3) (a : BitVec 6) (b : BitVec 6) : Statement (.rstat k a b) := by
  intro w h; cases h
  have := k.isLt
  have := a.isLt
  have := b.isLt
  exact ⟨word _ (by omega) (by omega) (by omega), rfl⟩
theorem bar (im : BitVec 4) : Statement (.bar im) := by
  intro w h; cases h
  have := im.isLt
  exact ⟨word _ (by omega) (by omega) (by omega), rfl⟩
theorem barP (im : BitVec 2) : Statement (.barP im) := by
  intro w h; cases h
  have := im.isLt
  exact ⟨word _ (by omega) (by omega) (by omega), rfl⟩
theorem barArv (im : BitVec 4) : Statement (.barArv im) := by
  intro w h; cases h
  have := im.isLt
  exact ⟨word _ (by omega) (by omega) (by omega), rfl⟩
theorem barPArv (im : BitVec 2) : Statement (.barPArv im) := by
  intro w h; cases h
  have := im.isLt
  exact ⟨word _ (by omega) (by omega) (by omega), rfl⟩
theorem fdset (f : BitVec 3) (sl : BitVec 6) : Statement (.fdset f sl) := by
  intro w h; cases h
  have := f.isLt
  have := sl.isLt
  exact ⟨word _ (by omega) (by omega) (by omega), rfl⟩
theorem fdget (f : BitVec 3) (d : BitVec 6) : Statement (.fdget f d) := by
  intro w h; cases h
  have := f.isLt
  have := d.isLt
  exact ⟨word _ (by omega) (by omega) (by omega), rfl⟩
theorem sadd (b : BitVec 6) (a : BitVec 6) (d : BitVec 6) : Statement (.sadd b a d) := by
  intro w h; cases h
  have := b.isLt
  have := a.isLt
  have := d.isLt
  exact ⟨word _ (by omega) (by omega) (by omega), rfl⟩
theorem ssub (b : BitVec 6) (a : BitVec 6) (d : BitVec 6) : Statement (.ssub b a d) := by
  intro w h; cases h
  have := b.isLt
  have := a.isLt
  have := d.isLt
  exact ⟨word _ (by omega) (by omega) (by omega), rfl⟩
theorem smul (b : BitVec 6) (a : BitVec 6) (d : BitVec 6) : Statement (.smul b a d) := by
  intro w h; cases h
  have := b.isLt
  have := a.isLt
  have := d.isLt
  exact ⟨word _ (by omega) (by omega) (by omega), rfl⟩
theorem smulhn (b : BitVec 6) (a : BitVec 6) (d : BitVec 6) : Statement (.smulhn b a d) := by
  intro w h; cases h
  have := b.isLt
  have := a.isLt
  have := d.isLt
  exact ⟨word _ (by omega) (by omega) (by omega), rfl⟩
theorem sand (b : BitVec 6) (a : BitVec 6) (d : BitVec 6) : Statement (.sand b a d) := by
  intro w h; cases h
  have := b.isLt
  have := a.isLt
  have := d.isLt
  exact ⟨word _ (by omega) (by omega) (by omega), rfl⟩
theorem sor (b : BitVec 6) (a : BitVec 6) (d : BitVec 6) : Statement (.sor b a d) := by
  intro w h; cases h
  have := b.isLt
  have := a.isLt
  have := d.isLt
  exact ⟨word _ (by omega) (by omega) (by omega), rfl⟩
theorem sxor (b : BitVec 6) (a : BitVec 6) (d : BitVec 6) : Statement (.sxor b a d) := by
  intro w h; cases h
  have := b.isLt
  have := a.isLt
  have := d.isLt
  exact ⟨word _ (by omega) (by omega) (by omega), rfl⟩
theorem sshl (b : BitVec 6) (a : BitVec 6) (d : BitVec 6) : Statement (.sshl b a d) := by
  intro w h; cases h
  have := b.isLt
  have := a.isLt
  have := d.isLt
  exact ⟨word _ (by omega) (by omega) (by omega), rfl⟩
theorem sshrl (b : BitVec 6) (a : BitVec 6) (d : BitVec 6) : Statement (.sshrl b a d) := by
  intro w h; cases h
  have := b.isLt
  have := a.isLt
  have := d.isLt
  exact ⟨word _ (by omega) (by omega) (by omega), rfl⟩
theorem sshra (b : BitVec 6) (a : BitVec 6) (d : BitVec 6) : Statement (.sshra b a d) := by
  intro w h; cases h
  have := b.isLt
  have := a.isLt
  have := d.isLt
  exact ⟨word _ (by omega) (by omega) (by omega), rfl⟩
theorem smins (b : BitVec 6) (a : BitVec 6) (d : BitVec 6) : Statement (.smins b a d) := by
  intro w h; cases h
  have := b.isLt
  have := a.isLt
  have := d.isLt
  exact ⟨word _ (by omega) (by omega) (by omega), rfl⟩
theorem smaxs (b : BitVec 6) (a : BitVec 6) (d : BitVec 6) : Statement (.smaxs b a d) := by
  intro w h; cases h
  have := b.isLt
  have := a.isLt
  have := d.isLt
  exact ⟨word _ (by omega) (by omega) (by omega), rfl⟩
theorem sminn (b : BitVec 6) (a : BitVec 6) (d : BitVec 6) : Statement (.sminn b a d) := by
  intro w h; cases h
  have := b.isLt
  have := a.isLt
  have := d.isLt
  exact ⟨word _ (by omega) (by omega) (by omega), rfl⟩
theorem smaxn (b : BitVec 6) (a : BitVec 6) (d : BitVec 6) : Statement (.smaxn b a d) := by
  intro w h; cases h
  have := b.isLt
  have := a.isLt
  have := d.isLt
  exact ⟨word _ (by omega) (by omega) (by omega), rfl⟩
theorem smov (a : BitVec 6) (d : BitVec 6) : Statement (.smov a d) := by
  intro w h; cases h
  have := a.isLt
  have := d.isLt
  exact ⟨word _ (by omega) (by omega) (by omega), rfl⟩
theorem saddi (im : BitVec 18) (d : BitVec 6) : Statement (.saddi im d) := by
  intro w h; cases h
  have := im.isLt
  have := d.isLt
  exact ⟨word _ (by omega) (by omega) (by omega), rfl⟩
theorem slit (im : BitVec 18) (d : BitVec 6) : Statement (.slit im d) := by
  intro w h; cases h
  have := im.isLt
  have := d.isLt
  exact ⟨word _ (by omega) (by omega) (by omega), rfl⟩
theorem shi (im : BitVec 14) (d : BitVec 6) : Statement (.shi im d) := by
  intro w h; cases h
  have := im.isLt
  have := d.isLt
  exact ⟨word _ (by omega) (by omega) (by omega), rfl⟩
theorem scmp (n : BitVec 1) (c : BitVec 3) (b : BitVec 6) (a : BitVec 6) (p : BitVec 3) : Statement (.scmp n c b a p) := by
  intro w h; cases h
  have := n.isLt
  have := c.isLt
  have := b.isLt
  have := a.isLt
  have := p.isLt
  exact ⟨word _ (by omega) (by omega) (by omega), rfl⟩
theorem v2sFirst (a : BitVec 7) (d : BitVec 6) : Statement (.v2sFirst a d) := by
  intro w h; cases h
  have := a.isLt
  have := d.isLt
  exact ⟨word _ (by omega) (by omega) (by omega), rfl⟩
theorem v2sLane (k : BitVec 5) (a : BitVec 7) (d : BitVec 6) : Statement (.v2sLane k a d) := by
  intro w h; cases h
  have := k.isLt
  have := a.isLt
  have := d.isLt
  exact ⟨word _ (by omega) (by omega) (by omega), rfl⟩
theorem ssr (n : BitVec 6) (d : BitVec 6) : Statement (.ssr n d) := by
  intro w h; cases h
  have := n.isLt
  have := d.isLt
  exact ⟨word _ (by omega) (by omega) (by omega), rfl⟩
theorem ssw (n : BitVec 6) (sl : BitVec 6) : Statement (.ssw n sl) := by
  intro w h; cases h
  have := n.isLt
  have := sl.isLt
  exact ⟨word _ (by omega) (by omega) (by omega), rfl⟩
theorem sset (sl : BitVec 6) : Statement (.sset sl) := by
  intro w h; cases h
  have := sl.isLt
  exact ⟨word _ (by omega) (by omega) (by omega), rfl⟩
theorem sclr (sl : BitVec 6) : Statement (.sclr sl) := by
  intro w h; cases h
  have := sl.isLt
  exact ⟨word _ (by omega) (by omega) (by omega), rfl⟩
theorem lds (f : BitVec 1) (sl : BitVec 3) (w : BitVec 6) (a : BitVec 7) (d : BitVec 7) : Statement (.lds f sl w a d) := by
  intro w h; cases h
  have := f.isLt
  have := sl.isLt
  have := w.isLt
  have := a.isLt
  have := d.isLt
  exact ⟨word _ (by omega) (by omega) (by omega), rfl⟩
theorem sts (f : BitVec 1) (sl : BitVec 3) (w : BitVec 6) (a : BitVec 7) (d : BitVec 7) : Statement (.sts f sl w a d) := by
  intro w h; cases h
  have := f.isLt
  have := sl.isLt
  have := w.isLt
  have := a.isLt
  have := d.isLt
  exact ⟨word _ (by omega) (by omega) (by omega), rfl⟩
theorem ldt (f : BitVec 1) (sl : BitVec 3) (w : BitVec 6) (a : BitVec 7) (d : BitVec 7) : Statement (.ldt f sl w a d) := by
  intro w h; cases h
  have := f.isLt
  have := sl.isLt
  have := w.isLt
  have := a.isLt
  have := d.isLt
  exact ⟨word _ (by omega) (by omega) (by omega), rfl⟩
theorem stt (f : BitVec 1) (sl : BitVec 3) (w : BitVec 6) (a : BitVec 7) (d : BitVec 7) : Statement (.stt f sl w a d) := by
  intro w h; cases h
  have := f.isLt
  have := sl.isLt
  have := w.isLt
  have := a.isLt
  have := d.isLt
  exact ⟨word _ (by omega) (by omega) (by omega), rfl⟩
theorem ldro (f : BitVec 1) (sl : BitVec 3) (w : BitVec 6) (a : BitVec 7) (d : BitVec 7) : Statement (.ldro f sl w a d) := by
  intro w h; cases h
  have := f.isLt
  have := sl.isLt
  have := w.isLt
  have := a.isLt
  have := d.isLt
  exact ⟨word _ (by omega) (by omega) (by omega), rfl⟩
theorem atsAdd (f : BitVec 1) (b : BitVec 7) (a : BitVec 7) (q : BitVec 5) : Statement (.atsAdd f b a q) := by
  intro w h; cases h
  have := f.isLt
  have := b.isLt
  have := a.isLt
  have := q.isLt
  exact ⟨word _ (by omega) (by omega) (by omega), rfl⟩
theorem atsAdd64 (f : BitVec 1) (b : BitVec 7) (a : BitVec 7) (q : BitVec 5) : Statement (.atsAdd64 f b a q) := by
  intro w h; cases h
  have := f.isLt
  have := b.isLt
  have := a.isLt
  have := q.isLt
  exact ⟨word _ (by omega) (by omega) (by omega), rfl⟩
theorem atsMins (f : BitVec 1) (b : BitVec 7) (a : BitVec 7) (q : BitVec 5) : Statement (.atsMins f b a q) := by
  intro w h; cases h
  have := f.isLt
  have := b.isLt
  have := a.isLt
  have := q.isLt
  exact ⟨word _ (by omega) (by omega) (by omega), rfl⟩
theorem atsMaxs (f : BitVec 1) (b : BitVec 7) (a : BitVec 7) (q : BitVec 5) : Statement (.atsMaxs f b a q) := by
  intro w h; cases h
  have := f.isLt
  have := b.isLt
  have := a.isLt
  have := q.isLt
  exact ⟨word _ (by omega) (by omega) (by omega), rfl⟩
theorem atsMinn (f : BitVec 1) (b : BitVec 7) (a : BitVec 7) (q : BitVec 5) : Statement (.atsMinn f b a q) := by
  intro w h; cases h
  have := f.isLt
  have := b.isLt
  have := a.isLt
  have := q.isLt
  exact ⟨word _ (by omega) (by omega) (by omega), rfl⟩
theorem atsMaxn (f : BitVec 1) (b : BitVec 7) (a : BitVec 7) (q : BitVec 5) : Statement (.atsMaxn f b a q) := by
  intro w h; cases h
  have := f.isLt
  have := b.isLt
  have := a.isLt
  have := q.isLt
  exact ⟨word _ (by omega) (by omega) (by omega), rfl⟩
theorem atsAnd (f : BitVec 1) (b : BitVec 7) (a : BitVec 7) (q : BitVec 5) : Statement (.atsAnd f b a q) := by
  intro w h; cases h
  have := f.isLt
  have := b.isLt
  have := a.isLt
  have := q.isLt
  exact ⟨word _ (by omega) (by omega) (by omega), rfl⟩
theorem atsOr (f : BitVec 1) (b : BitVec 7) (a : BitVec 7) (q : BitVec 5) : Statement (.atsOr f b a q) := by
  intro w h; cases h
  have := f.isLt
  have := b.isLt
  have := a.isLt
  have := q.isLt
  exact ⟨word _ (by omega) (by omega) (by omega), rfl⟩
theorem atsXor (f : BitVec 1) (b : BitVec 7) (a : BitVec 7) (q : BitVec 5) : Statement (.atsXor f b a q) := by
  intro w h; cases h
  have := f.isLt
  have := b.isLt
  have := a.isLt
  have := q.isLt
  exact ⟨word _ (by omega) (by omega) (by omega), rfl⟩
theorem atsExch (f : BitVec 1) (b : BitVec 7) (a : BitVec 7) (q : BitVec 5) : Statement (.atsExch f b a q) := by
  intro w h; cases h
  have := f.isLt
  have := b.isLt
  have := a.isLt
  have := q.isLt
  exact ⟨word _ (by omega) (by omega) (by omega), rfl⟩
theorem atsExch64 (f : BitVec 1) (b : BitVec 7) (a : BitVec 7) (q : BitVec 5) : Statement (.atsExch64 f b a q) := by
  intro w h; cases h
  have := f.isLt
  have := b.isLt
  have := a.isLt
  have := q.isLt
  exact ⟨word _ (by omega) (by omega) (by omega), rfl⟩
theorem atsCas (f : BitVec 1) (b : BitVec 7) (a : BitVec 7) (q : BitVec 5) : Statement (.atsCas f b a q) := by
  intro w h; cases h
  have := f.isLt
  have := b.isLt
  have := a.isLt
  have := q.isLt
  exact ⟨word _ (by omega) (by omega) (by omega), rfl⟩
theorem atsCas64 (f : BitVec 1) (b : BitVec 7) (a : BitVec 7) (q : BitVec 5) : Statement (.atsCas64 f b a q) := by
  intro w h; cases h
  have := f.isLt
  have := b.isLt
  have := a.isLt
  have := q.isLt
  exact ⟨word _ (by omega) (by omega) (by omega), rfl⟩
theorem atsIncw (f : BitVec 1) (b : BitVec 7) (a : BitVec 7) (q : BitVec 5) : Statement (.atsIncw f b a q) := by
  intro w h; cases h
  have := f.isLt
  have := b.isLt
  have := a.isLt
  have := q.isLt
  exact ⟨word _ (by omega) (by omega) (by omega), rfl⟩
theorem atsFadd (f : BitVec 1) (b : BitVec 7) (a : BitVec 7) (q : BitVec 5) : Statement (.atsFadd f b a q) := by
  intro w h; cases h
  have := f.isLt
  have := b.isLt
  have := a.isLt
  have := q.isLt
  exact ⟨word _ (by omega) (by omega) (by omega), rfl⟩
theorem atsFaddb2 (f : BitVec 1) (b : BitVec 7) (a : BitVec 7) (q : BitVec 5) : Statement (.atsFaddb2 f b a q) := by
  intro w h; cases h
  have := f.isLt
  have := b.isLt
  have := a.isLt
  have := q.isLt
  exact ⟨word _ (by omega) (by omega) (by omega), rfl⟩
theorem atsFmin (f : BitVec 1) (b : BitVec 7) (a : BitVec 7) (q : BitVec 5) : Statement (.atsFmin f b a q) := by
  intro w h; cases h
  have := f.isLt
  have := b.isLt
  have := a.isLt
  have := q.isLt
  exact ⟨word _ (by omega) (by omega) (by omega), rfl⟩
theorem atsFmax (f : BitVec 1) (b : BitVec 7) (a : BitVec 7) (q : BitVec 5) : Statement (.atsFmax f b a q) := by
  intro w h; cases h
  have := f.isLt
  have := b.isLt
  have := a.isLt
  have := q.isLt
  exact ⟨word _ (by omega) (by omega) (by omega), rfl⟩
theorem attAdd (f : BitVec 1) (b : BitVec 7) (a : BitVec 7) (q : BitVec 5) : Statement (.attAdd f b a q) := by
  intro w h; cases h
  have := f.isLt
  have := b.isLt
  have := a.isLt
  have := q.isLt
  exact ⟨word _ (by omega) (by omega) (by omega), rfl⟩
theorem attAdd64 (f : BitVec 1) (b : BitVec 7) (a : BitVec 7) (q : BitVec 5) : Statement (.attAdd64 f b a q) := by
  intro w h; cases h
  have := f.isLt
  have := b.isLt
  have := a.isLt
  have := q.isLt
  exact ⟨word _ (by omega) (by omega) (by omega), rfl⟩
theorem attMins (f : BitVec 1) (b : BitVec 7) (a : BitVec 7) (q : BitVec 5) : Statement (.attMins f b a q) := by
  intro w h; cases h
  have := f.isLt
  have := b.isLt
  have := a.isLt
  have := q.isLt
  exact ⟨word _ (by omega) (by omega) (by omega), rfl⟩
theorem attMaxs (f : BitVec 1) (b : BitVec 7) (a : BitVec 7) (q : BitVec 5) : Statement (.attMaxs f b a q) := by
  intro w h; cases h
  have := f.isLt
  have := b.isLt
  have := a.isLt
  have := q.isLt
  exact ⟨word _ (by omega) (by omega) (by omega), rfl⟩
theorem attMinn (f : BitVec 1) (b : BitVec 7) (a : BitVec 7) (q : BitVec 5) : Statement (.attMinn f b a q) := by
  intro w h; cases h
  have := f.isLt
  have := b.isLt
  have := a.isLt
  have := q.isLt
  exact ⟨word _ (by omega) (by omega) (by omega), rfl⟩
theorem attMaxn (f : BitVec 1) (b : BitVec 7) (a : BitVec 7) (q : BitVec 5) : Statement (.attMaxn f b a q) := by
  intro w h; cases h
  have := f.isLt
  have := b.isLt
  have := a.isLt
  have := q.isLt
  exact ⟨word _ (by omega) (by omega) (by omega), rfl⟩
theorem attAnd (f : BitVec 1) (b : BitVec 7) (a : BitVec 7) (q : BitVec 5) : Statement (.attAnd f b a q) := by
  intro w h; cases h
  have := f.isLt
  have := b.isLt
  have := a.isLt
  have := q.isLt
  exact ⟨word _ (by omega) (by omega) (by omega), rfl⟩
theorem attOr (f : BitVec 1) (b : BitVec 7) (a : BitVec 7) (q : BitVec 5) : Statement (.attOr f b a q) := by
  intro w h; cases h
  have := f.isLt
  have := b.isLt
  have := a.isLt
  have := q.isLt
  exact ⟨word _ (by omega) (by omega) (by omega), rfl⟩
theorem attXor (f : BitVec 1) (b : BitVec 7) (a : BitVec 7) (q : BitVec 5) : Statement (.attXor f b a q) := by
  intro w h; cases h
  have := f.isLt
  have := b.isLt
  have := a.isLt
  have := q.isLt
  exact ⟨word _ (by omega) (by omega) (by omega), rfl⟩
theorem attExch (f : BitVec 1) (b : BitVec 7) (a : BitVec 7) (q : BitVec 5) : Statement (.attExch f b a q) := by
  intro w h; cases h
  have := f.isLt
  have := b.isLt
  have := a.isLt
  have := q.isLt
  exact ⟨word _ (by omega) (by omega) (by omega), rfl⟩
theorem attExch64 (f : BitVec 1) (b : BitVec 7) (a : BitVec 7) (q : BitVec 5) : Statement (.attExch64 f b a q) := by
  intro w h; cases h
  have := f.isLt
  have := b.isLt
  have := a.isLt
  have := q.isLt
  exact ⟨word _ (by omega) (by omega) (by omega), rfl⟩
theorem attCas (f : BitVec 1) (b : BitVec 7) (a : BitVec 7) (q : BitVec 5) : Statement (.attCas f b a q) := by
  intro w h; cases h
  have := f.isLt
  have := b.isLt
  have := a.isLt
  have := q.isLt
  exact ⟨word _ (by omega) (by omega) (by omega), rfl⟩
theorem attCas64 (f : BitVec 1) (b : BitVec 7) (a : BitVec 7) (q : BitVec 5) : Statement (.attCas64 f b a q) := by
  intro w h; cases h
  have := f.isLt
  have := b.isLt
  have := a.isLt
  have := q.isLt
  exact ⟨word _ (by omega) (by omega) (by omega), rfl⟩
theorem attIncw (f : BitVec 1) (b : BitVec 7) (a : BitVec 7) (q : BitVec 5) : Statement (.attIncw f b a q) := by
  intro w h; cases h
  have := f.isLt
  have := b.isLt
  have := a.isLt
  have := q.isLt
  exact ⟨word _ (by omega) (by omega) (by omega), rfl⟩
theorem attFadd (f : BitVec 1) (b : BitVec 7) (a : BitVec 7) (q : BitVec 5) : Statement (.attFadd f b a q) := by
  intro w h; cases h
  have := f.isLt
  have := b.isLt
  have := a.isLt
  have := q.isLt
  exact ⟨word _ (by omega) (by omega) (by omega), rfl⟩
theorem attFaddb2 (f : BitVec 1) (b : BitVec 7) (a : BitVec 7) (q : BitVec 5) : Statement (.attFaddb2 f b a q) := by
  intro w h; cases h
  have := f.isLt
  have := b.isLt
  have := a.isLt
  have := q.isLt
  exact ⟨word _ (by omega) (by omega) (by omega), rfl⟩
theorem attFmin (f : BitVec 1) (b : BitVec 7) (a : BitVec 7) (q : BitVec 5) : Statement (.attFmin f b a q) := by
  intro w h; cases h
  have := f.isLt
  have := b.isLt
  have := a.isLt
  have := q.isLt
  exact ⟨word _ (by omega) (by omega) (by omega), rfl⟩
theorem attFmax (f : BitVec 1) (b : BitVec 7) (a : BitVec 7) (q : BitVec 5) : Statement (.attFmax f b a q) := by
  intro w h; cases h
  have := f.isLt
  have := b.isLt
  have := a.isLt
  have := q.isLt
  exact ⟨word _ (by omega) (by omega) (by omega), rfl⟩
theorem spill (n : BitVec 3) (sl : BitVec 12) (b : BitVec 7) : Statement (.spill n sl b) := by
  intro w h; cases h
  have := n.isLt
  have := sl.isLt
  have := b.isLt
  exact ⟨word _ (by omega) (by omega) (by omega), rfl⟩
theorem fill (f : BitVec 1) (n : BitVec 3) (sl : BitVec 12) (b : BitVec 7) : Statement (.fill f n sl b) := by
  intro w h; cases h
  have := f.isLt
  have := n.isLt
  have := sl.isLt
  have := b.isLt
  exact ⟨word _ (by omega) (by omega) (by omega), rfl⟩
theorem prefL1 (n : BitVec 6) (a : BitVec 7) : Statement (.prefL1 n a) := by
  intro w h; cases h
  have := n.isLt
  have := a.isLt
  exact ⟨word _ (by omega) (by omega) (by omega), rfl⟩
theorem prefRo (n : BitVec 6) (a : BitVec 7) : Statement (.prefRo n a) := by
  intro w h; cases h
  have := n.isLt
  have := a.isLt
  exact ⟨word _ (by omega) (by omega) (by omega), rfl⟩
theorem cpy (f : BitVec 1) (p : BitVec 1) (r : BitVec 1) (k : BitVec 3) (a : BitVec 6) (d : BitVec 6) (w : BitVec 6) (h : BitVec 128) : Statement (.cpy f p r k a d w h) := by
  intro w h; cases h
  have := f.isLt
  have := p.isLt
  have := r.isLt
  have := k.isLt
  have := a.isLt
  have := d.isLt
  have := w.isLt
  have := h.isLt
  exact ⟨long _ (by omega) (by omega) (by omega), rfl⟩
theorem cpyo (f : BitVec 1) (p : BitVec 1) (r : BitVec 1) (k : BitVec 3) (a : BitVec 6) (d : BitVec 6) (w : BitVec 6) (h : BitVec 128) : Statement (.cpyo f p r k a d w h) := by
  intro w h; cases h
  have := f.isLt
  have := p.isLt
  have := r.isLt
  have := k.isLt
  have := a.isLt
  have := d.isLt
  have := w.isLt
  have := h.isLt
  exact ⟨long _ (by omega) (by omega) (by omega), rfl⟩
theorem hbxGath (f : BitVec 1) (p : BitVec 1) (a : BitVec 6) (d : BitVec 6) (w : BitVec 6) (h : BitVec 128) : Statement (.hbxGath f p a d w h) := by
  intro w h; cases h
  have := f.isLt
  have := p.isLt
  have := a.isLt
  have := d.isLt
  have := w.isLt
  have := h.isLt
  exact ⟨long _ (by omega) (by omega) (by omega), rfl⟩
theorem hbxRdce (f : BitVec 1) (p : BitVec 1) (a : BitVec 6) (d : BitVec 6) (w : BitVec 6) (h : BitVec 128) : Statement (.hbxRdce f p a d w h) := by
  intro w h; cases h
  have := f.isLt
  have := p.isLt
  have := a.isLt
  have := d.isLt
  have := w.isLt
  have := h.isLt
  exact ⟨long _ (by omega) (by omega) (by omega), rfl⟩
theorem hbxConv (f : BitVec 1) (p : BitVec 1) (a : BitVec 6) (d : BitVec 6) (w : BitVec 6) (h : BitVec 128) : Statement (.hbxConv f p a d w h) := by
  intro w h; cases h
  have := f.isLt
  have := p.isLt
  have := a.isLt
  have := d.isLt
  have := w.isLt
  have := h.isLt
  exact ⟨long _ (by omega) (by omega) (by omega), rfl⟩
theorem hbxFillz (f : BitVec 1) (p : BitVec 1) (a : BitVec 6) (d : BitVec 6) (w : BitVec 6) (h : BitVec 128) : Statement (.hbxFillz f p a d w h) := by
  intro w h; cases h
  have := f.isLt
  have := p.isLt
  have := a.isLt
  have := d.isLt
  have := w.isLt
  have := h.isLt
  exact ⟨long _ (by omega) (by omega) (by omega), rfl⟩
theorem cpyxStat (c : BitVec 4) (d : BitVec 6) : Statement (.cpyxStat c d) := by
  intro w h; cases h
  have := c.isLt
  have := d.isLt
  exact ⟨word _ (by omega) (by omega) (by omega), rfl⟩
theorem cpyxCancel (c : BitVec 4) : Statement (.cpyxCancel c) := by
  intro w h; cases h
  have := c.isLt
  exact ⟨word _ (by omega) (by omega) (by omega), rfl⟩
theorem wmerge (g : BitVec 3) (b : BitVec 6) (a : BitVec 6) (d : BitVec 6) : Statement (.wmerge g b a d) := by
  intro w h; cases h
  have := g.isLt
  have := b.isLt
  have := a.isLt
  have := d.isLt
  exact ⟨word _ (by omega) (by omega) (by omega), rfl⟩
theorem wreduce (g : BitVec 3) (a : BitVec 6) (d : BitVec 6) : Statement (.wreduce g a d) := by
  intro w h; cases h
  have := g.isLt
  have := a.isLt
  have := d.isLt
  exact ⟨word _ (by omega) (by omega) (by omega), rfl⟩
theorem wall (d : BitVec 6) : Statement (.wall d) := by
  intro w h; cases h
  have := d.isLt
  exact ⟨word _ (by omega) (by omega) (by omega), rfl⟩
theorem wwait (a : BitVec 6) : Statement (.wwait a) := by
  intro w h; cases h
  have := a.isLt
  exact ⟨word _ (by omega) (by omega) (by omega), rfl⟩
theorem wtest (p : BitVec 3) (a : BitVec 6) : Statement (.wtest p a) := by
  intro w h; cases h
  have := p.isLt
  have := a.isLt
  exact ⟨word _ (by omega) (by omega) (by omega), rfl⟩
theorem qres (f : BitVec 1) (t : BitVec 1) (c : BitVec 5) (h : BitVec 6) (d : BitVec 6) : Statement (.qres f t c h d) := by
  intro w h; cases h
  have := f.isLt
  have := t.isLt
  have := c.isLt
  have := h.isLt
  have := d.isLt
  exact ⟨word _ (by omega) (by omega) (by omega), rfl⟩
theorem qresA (f : BitVec 1) (t : BitVec 1) (h : BitVec 6) (d : BitVec 6) : Statement (.qresA f t h d) := by
  intro w h; cases h
  have := f.isLt
  have := t.isLt
  have := h.isLt
  have := d.isLt
  exact ⟨word _ (by omega) (by omega) (by omega), rfl⟩
theorem qenqL (k : BitVec 5) (b : BitVec 7) (r : BitVec 6) : Statement (.qenqL k b r) := by
  intro w h; cases h
  have := k.isLt
  have := b.isLt
  have := r.isLt
  exact ⟨word _ (by omega) (by omega) (by omega), rfl⟩
theorem qenqG (k : BitVec 5) (b : BitVec 7) (r : BitVec 6) : Statement (.qenqG k b r) := by
  intro w h; cases h
  have := k.isLt
  have := b.isLt
  have := r.isLt
  exact ⟨word _ (by omega) (by omega) (by omega), rfl⟩
theorem qenqM (k : BitVec 5) (a : BitVec 6) (r : BitVec 6) : Statement (.qenqM k a r) := by
  intro w h; cases h
  have := k.isLt
  have := a.isLt
  have := r.isLt
  exact ⟨word _ (by omega) (by omega) (by omega), rfl⟩
theorem qpostL (b : BitVec 7) (h : BitVec 6) : Statement (.qpostL b h) := by
  intro w h; cases h
  have := b.isLt
  have := h.isLt
  exact ⟨word _ (by omega) (by omega) (by omega), rfl⟩
theorem qpostG (b : BitVec 7) (h : BitVec 6) : Statement (.qpostG b h) := by
  intro w h; cases h
  have := b.isLt
  have := h.isLt
  exact ⟨word _ (by omega) (by omega) (by omega), rfl⟩
theorem qpostM (a : BitVec 6) (h : BitVec 6) : Statement (.qpostM a h) := by
  intro w h; cases h
  have := a.isLt
  have := h.isLt
  exact ⟨word _ (by omega) (by omega) (by omega), rfl⟩
theorem qdeqL (f : BitVec 1) (sl : BitVec 1) (p : BitVec 3) (d : BitVec 7) (h : BitVec 6) (w : BitVec 4) : Statement (.qdeqL f sl p d h w) := by
  intro w h; cases h
  have := f.isLt
  have := sl.isLt
  have := p.isLt
  have := d.isLt
  have := h.isLt
  have := w.isLt
  exact ⟨word _ (by omega) (by omega) (by omega), rfl⟩
theorem qdeqG (f : BitVec 1) (sl : BitVec 1) (p : BitVec 3) (d : BitVec 7) (h : BitVec 6) (w : BitVec 4) : Statement (.qdeqG f sl p d h w) := by
  intro w h; cases h
  have := f.isLt
  have := sl.isLt
  have := p.isLt
  have := d.isLt
  have := h.isLt
  have := w.isLt
  exact ⟨word _ (by omega) (by omega) (by omega), rfl⟩
theorem qdeqM (f : BitVec 1) (sl : BitVec 1) (p : BitVec 3) (a : BitVec 6) (h : BitVec 6) (w : BitVec 4) : Statement (.qdeqM f sl p a h w) := by
  intro w h; cases h
  have := f.isLt
  have := sl.isLt
  have := p.isLt
  have := a.isLt
  have := h.isLt
  have := w.isLt
  exact ⟨word _ (by omega) (by omega) (by omega), rfl⟩
theorem qwait (a : BitVec 6) (h : BitVec 6) : Statement (.qwait a h) := by
  intro w h; cases h
  have := a.isLt
  have := h.isLt
  exact ⟨word _ (by omega) (by omega) (by omega), rfl⟩
theorem qflush (f : BitVec 1) (h : BitVec 6) (d : BitVec 6) : Statement (.qflush f h d) := by
  intro w h; cases h
  have := f.isLt
  have := h.isLt
  have := d.isLt
  exact ⟨word _ (by omega) (by omega) (by omega), rfl⟩
theorem qvoid (a : BitVec 6) (h : BitVec 6) : Statement (.qvoid a h) := by
  intro w h; cases h
  have := a.isLt
  have := h.isLt
  exact ⟨word _ (by omega) (by omega) (by omega), rfl⟩
theorem qstat (f : BitVec 1) (a : BitVec 6) (h : BitVec 6) (d : BitVec 6) : Statement (.qstat f a h d) := by
  intro w h; cases h
  have := f.isLt
  have := a.isLt
  have := h.isLt
  have := d.isLt
  exact ⟨word _ (by omega) (by omega) (by omega), rfl⟩
theorem br (o : BitVec 19) (n : BitVec 1) (p : BitVec 3) : Statement (.br o n p) := by
  intro w h; cases h
  have := o.isLt
  have := n.isLt
  have := p.isLt
  exact ⟨word _ (by omega) (by omega) (by omega), rfl⟩
theorem brRg (o : BitVec 19) (n : BitVec 1) (p : BitVec 3) : Statement (.brRg o n p) := by
  intro w h; cases h
  have := o.isLt
  have := n.isLt
  have := p.isLt
  exact ⟨word _ (by omega) (by omega) (by omega), rfl⟩
theorem bru (o : BitVec 19) (p : BitVec 3) (m : BitVec 2) : Statement (.bru o p m) := by
  intro w h; cases h
  have := o.isLt
  have := p.isLt
  have := m.isLt
  exact ⟨word _ (by omega) (by omega) (by omega), rfl⟩
theorem jmp (o : BitVec 23) : Statement (.jmp o) := by
  intro w h; cases h
  have := o.isLt
  exact ⟨word _ (by omega) (by omega) (by omega), rfl⟩
theorem call (o : BitVec 23) : Statement (.call o) := by
  intro w h; cases h
  have := o.isLt
  exact ⟨word _ (by omega) (by omega) (by omega), rfl⟩
theorem jmpi (a : BitVec 7) : Statement (.jmpi a) := by
  intro w h; cases h
  have := a.isLt
  exact ⟨word _ (by omega) (by omega) (by omega), rfl⟩
theorem calli (a : BitVec 7) : Statement (.calli a) := by
  intro w h; cases h
  have := a.isLt
  exact ⟨word _ (by omega) (by omega) (by omega), rfl⟩
theorem ret : Statement .ret := by
  intro w h; cases h
  exact ⟨word _ (by omega) (by omega) (by omega), rfl⟩
theorem join (b : BitVec 20) : Statement (.join b) := by
  intro w h; cases h
  have := b.isLt
  exact ⟨word _ (by omega) (by omega) (by omega), rfl⟩
theorem joinO : Statement .joinO := by
  intro w h; cases h
  exact ⟨word _ (by omega) (by omega) (by omega), rfl⟩
theorem regroup (a : BitVec 7) (sl : BitVec 6) : Statement (.regroup a sl) := by
  intro w h; cases h
  have := a.isLt
  have := sl.isLt
  exact ⟨word _ (by omega) (by omega) (by omega), rfl⟩
theorem yield : Statement .yield := by
  intro w h; cases h
  exact ⟨word _ (by omega) (by omega) (by omega), rfl⟩
theorem exit : Statement .exit := by
  intro w h; cases h
  exact ⟨word _ (by omega) (by omega) (by omega), rfl⟩
theorem tseg (d : BitVec 6) : Statement (.tseg d) := by
  intro w h; cases h
  have := d.isLt
  exact ⟨word _ (by omega) (by omega) (by omega), rfl⟩
theorem tsegAddr (a : BitVec 6) (d : BitVec 6) : Statement (.tsegAddr a d) := by
  intro w h; cases h
  have := a.isLt
  have := d.isLt
  exact ⟨word _ (by omega) (by omega) (by omega), rfl⟩
theorem tstat (sl : BitVec 4) (a : BitVec 6) (d : BitVec 6) : Statement (.tstat sl a d) := by
  intro w h; cases h
  have := sl.isLt
  have := a.isLt
  have := d.isLt
  exact ⟨word _ (by omega) (by omega) (by omega), rfl⟩
theorem thint (h : BitVec 4) : Statement (.thint h) := by
  intro w h; cases h
  have := h.isLt
  exact ⟨word _ (by omega) (by omega) (by omega), rfl⟩
theorem trap (im : BitVec 20) : Statement (.trap im) := by
  intro w h; cases h
  have := im.isLt
  exact ⟨word _ (by omega) (by omega) (by omega), rfl⟩
theorem bkpt : Statement .bkpt := by
  intro w h; cases h
  exact ⟨word _ (by omega) (by omega) (by omega), rfl⟩
theorem cntr (k : BitVec 3) (d : BitVec 6) : Statement (.cntr k d) := by
  intro w h; cases h
  have := k.isLt
  have := d.isLt
  exact ⟨word _ (by omega) (by omega) (by omega), rfl⟩
theorem isync : Statement .isync := by
  intro w h; cases h
  exact ⟨word _ (by omega) (by omega) (by omega), rfl⟩
theorem nop32 : Statement .nop32 := by
  intro w h; cases h
  exact ⟨word _ (by omega) (by omega) (by omega), rfl⟩
theorem clauseBegin : Statement .clauseBegin := by
  intro w h; cases h
theorem rcfgComplete (g : Nat) : Statement (.rcfgComplete g) := by
  intro w h; cases h
theorem copyRetire (cmd : Nat) : Statement (.copyRetire cmd) := by
  intro w h; cases h
theorem copyTranslationFault (cmd : Nat) : Statement (.copyTranslationFault cmd) := by
  intro w h; cases h
theorem copyProtectionFault (cmd : Nat) : Statement (.copyProtectionFault cmd) := by
  intro w h; cases h
theorem witnessWake (g : Nat) : Statement (.witnessWake g) := by
  intro w h; cases h
theorem handleTranslationReply (core : Nat) (handle : Nat) : Statement (.handleTranslationReply core handle) := by
  intro w h; cases h
theorem qresRequest (msg : Nat) : Statement (.qresRequest msg) := by
  intro w h; cases h
theorem qresDeferredGrant (queue : Nat) : Statement (.qresDeferredGrant queue) := by
  intro w h; cases h
theorem qresGrantReceive (msg : Nat) : Statement (.qresGrantReceive msg) := by
  intro w h; cases h
theorem elementArrival (msg : Nat) : Statement (.elementArrival msg) := by
  intro w h; cases h
theorem postArrival (msg : Nat) : Statement (.postArrival msg) := by
  intro w h; cases h
theorem qdeqClaim (op : Nat) : Statement (.qdeqClaim op) := by
  intro w h; cases h
theorem qdeqDeliveryComplete (op : Nat) : Statement (.qdeqDeliveryComplete op) := by
  intro w h; cases h
theorem qflushComplete (op : Nat) : Statement (.qflushComplete op) := by
  intro w h; cases h
theorem qstatComplete (op : Nat) : Statement (.qstatComplete op) := by
  intro w h; cases h
theorem refillStep (queue : Nat) : Statement (.refillStep queue) := by
  intro w h; cases h
theorem answerAck (msg : Nat) : Statement (.answerAck msg) := by
  intro w h; cases h
theorem answerRetry (msg : Nat) : Statement (.answerRetry msg) := by
  intro w h; cases h
theorem answerMoved (msg : Nat) : Statement (.answerMoved msg) := by
  intro w h; cases h
theorem answerCheck (msg : Nat) : Statement (.answerCheck msg) := by
  intro w h; cases h
theorem answerRefused (msg : Nat) : Statement (.answerRefused msg) := by
  intro w h; cases h
theorem retentionTimeout (copy : Nat) : Statement (.retentionTimeout copy) := by
  intro w h; cases h
theorem streamMessageArrival (msg : Nat) : Statement (.streamMessageArrival msg) := by
  intro w h; cases h
theorem streamDeliveryAck (msg : Nat) : Statement (.streamDeliveryAck msg) := by
  intro w h; cases h
theorem streamResendTimeout (stream : Nat) : Statement (.streamResendTimeout stream) := by
  intro w h; cases h
theorem flitReceive (link : Nat) : Statement (.flitReceive link) := by
  intro w h; cases h
theorem parityRequest (link : Nat) : Statement (.parityRequest link) := by
  intro w h; cases h
theorem parityResponse (link : Nat) : Statement (.parityResponse link) := by
  intro w h; cases h
theorem replayRequest (link : Nat) : Statement (.replayRequest link) := by
  intro w h; cases h
theorem linkAck (link : Nat) (upto : Nat) : Statement (.linkAck link upto) := by
  intro w h; cases h
theorem linkRetrainComplete (link : Nat) : Statement (.linkRetrainComplete link) := by
  intro w h; cases h
theorem bufferEntryError (link : Nat) : Statement (.bufferEntryError link) := by
  intro w h; cases h
theorem withdrawalAnnounce (die : Nat) (link : Nat) : Statement (.withdrawalAnnounce die link) := by
  intro w h; cases h
theorem channelATimeout (link : Nat) : Statement (.channelATimeout link) := by
  intro w h; cases h
theorem fabricPacketReceive (port : Nat) : Statement (.fabricPacketReceive port) := by
  intro w h; cases h
theorem pdsRetransmit (port : Nat) : Statement (.pdsRetransmit port) := by
  intro w h; cases h
theorem pauseFrameReceive (port : Nat) : Statement (.pauseFrameReceive port) := by
  intro w h; cases h
theorem joinBoundExpiry (g : Nat) : Statement (.joinBoundExpiry g) := by
  intro w h; cases h
theorem poolArrival (g : Nat) : Statement (.poolArrival g) := by
  intro w h; cases h
theorem regroupRelease (pool : Nat) : Statement (.regroupRelease pool) := by
  intro w h; cases h
theorem threadDepart (g : Nat) : Statement (.threadDepart g) := by
  intro w h; cases h
theorem packerStage (core : Nat) : Statement (.packerStage core) := by
  intro w h; cases h
theorem packerWindowEmit (core : Nat) : Statement (.packerWindowEmit core) := by
  intro w h; cases h
theorem segmentLoadComplete (grid : Nat) (seg : Nat) : Statement (.segmentLoadComplete grid seg) := by
  intro w h; cases h
theorem groupEvict (core : Nat) : Statement (.groupEvict core) := by
  intro w h; cases h
theorem loadComplete (op : Nat) : Statement (.loadComplete op) := by
  intro w h; cases h
theorem storeComplete (op : Nat) : Statement (.storeComplete op) := by
  intro w h; cases h
theorem atomicComplete (op : Nat) : Statement (.atomicComplete op) := by
  intro w h; cases h
theorem fillComplete (op : Nat) : Statement (.fillComplete op) := by
  intro w h; cases h
theorem sliceWrite (msg : Nat) : Statement (.sliceWrite msg) := by
  intro w h; cases h
theorem sliceAtomic (msg : Nat) : Statement (.sliceAtomic msg) := by
  intro w h; cases h
theorem sliceRead (msg : Nat) : Statement (.sliceRead msg) := by
  intro w h; cases h
theorem storeAnswer (msg : Nat) : Statement (.storeAnswer msg) := by
  intro w h; cases h
theorem teamMemoryWindowAccess (msg : Nat) : Statement (.teamMemoryWindowAccess msg) := by
  intro w h; cases h
theorem l1Invalidation (msg : Nat) : Statement (.l1Invalidation msg) := by
  intro w h; cases h
theorem invalidationAck (msg : Nat) : Statement (.invalidationAck msg) := by
  intro w h; cases h
theorem peerProbe (msg : Nat) : Statement (.peerProbe msg) := by
  intro w h; cases h
theorem probeRefusal (msg : Nat) : Statement (.probeRefusal msg) := by
  intro w h; cases h
theorem sharerRegistration (msg : Nat) : Statement (.sharerRegistration msg) := by
  intro w h; cases h
theorem registrationConfirm (msg : Nat) : Statement (.registrationConfirm msg) := by
  intro w h; cases h
theorem l1Fill (msg : Nat) : Statement (.l1Fill msg) := by
  intro w h; cases h
theorem directoryEviction (die : Nat) (line : Nat) : Statement (.directoryEviction die line) := by
  intro w h; cases h
theorem flueSnapshot (die : Nat) : Statement (.flueSnapshot die) := by
  intro w h; cases h
theorem flueApply (die : Nat) : Statement (.flueApply die) := by
  intro w h; cases h
theorem ticketSettle (core : Nat) : Statement (.ticketSettle core) := by
  intro w h; cases h
theorem registerGrant (core : Nat) : Statement (.registerGrant core) := by
  intro w h; cases h
theorem registerRefill (core : Nat) : Statement (.registerRefill core) := by
  intro w h; cases h
theorem codeLineFill (core : Nat) (ctx : Nat) (addr : Nat) : Statement (.codeLineFill core ctx addr) := by
  intro w h; cases h
theorem launchStart (die : Nat) : Statement (.launchStart die) := by
  intro w h; cases h
theorem plotDispatch (die : Nat) : Statement (.plotDispatch die) := by
  intro w h; cases h
theorem travelLaunchStart (grid : Nat) : Statement (.travelLaunchStart grid) := by
  intro w h; cases h
theorem activeEntry (quarter : Nat) : Statement (.activeEntry quarter) := by
  intro w h; cases h
theorem timeSliceExpiry (g : Nat) : Statement (.timeSliceExpiry g) := by
  intro w h; cases h
theorem fallowReturn (g : Nat) : Statement (.fallowReturn g) := by
  intro w h; cases h
theorem groupEnd (g : Nat) : Statement (.groupEnd g) := by
  intro w h; cases h
theorem teamCompletion (team : Nat) : Statement (.teamCompletion team) := by
  intro w h; cases h
theorem gridEnd (grid : Nat) : Statement (.gridEnd grid) := by
  intro w h; cases h
theorem preemptTrigger (grid : Nat) : Statement (.preemptTrigger grid) := by
  intro w h; cases h
theorem launchUnitRestore (ctx : Nat) : Statement (.launchUnitRestore ctx) := by
  intro w h; cases h
theorem faultDeliveryTimeout (g : Nat) : Statement (.faultDeliveryTimeout g) := by
  intro w h; cases h
theorem scrubEccError (die : Nat) (sub : Nat) (key : Nat) : Statement (.scrubEccError die sub key) := by
  intro w h; cases h
theorem contextSave (ctx : Nat) : Statement (.contextSave ctx) := by
  intro w h; cases h
theorem dieReset (die : Nat) : Statement (.dieReset die) := by
  intro w h; cases h
theorem droopTrip (die : Nat) : Statement (.droopTrip die) := by
  intro w h; cases h
theorem damperRelease (die : Nat) : Statement (.damperRelease die) := by
  intro w h; cases h
theorem fatalDieError (die : Nat) (cause : Nat) : Statement (.fatalDieError die cause) := by
  intro w h; cases h
theorem hbmWrite (chan : Nat) : Statement (.hbmWrite chan) := by
  intro w h; cases h
theorem hbmRead (chan : Nat) : Statement (.hbmRead chan) := by
  intro w h; cases h
theorem enqueue (chan : Nat) : Statement (.enqueue chan) := by
  intro w h; cases h
theorem dequeue (chan : Nat) : Statement (.dequeue chan) := by
  intro w h; cases h
theorem mgmtRegisterWrite (chan : Nat) : Statement (.mgmtRegisterWrite chan) := by
  intro w h; cases h
theorem mgmtRegisterRead (chan : Nat) : Statement (.mgmtRegisterRead chan) := by
  intro w h; cases h
theorem managementReset (chan : Nat) : Statement (.managementReset chan) := by
  intro w h; cases h
theorem contextCreate (chan : Nat) : Statement (.contextCreate chan) := by
  intro w h; cases h
theorem contextDestroy (chan : Nat) : Statement (.contextDestroy chan) := by
  intro w h; cases h
theorem tlbInvalidate (chan : Nat) : Statement (.tlbInvalidate chan) := by
  intro w h; cases h
theorem queueTranslationWrite (chan : Nat) : Statement (.queueTranslationWrite chan) := by
  intro w h; cases h
theorem multicastGroupWrite (chan : Nat) : Statement (.multicastGroupWrite chan) := by
  intro w h; cases h
theorem queueDescriptorWrite (chan : Nat) : Statement (.queueDescriptorWrite chan) := by
  intro w h; cases h
theorem accessListWrite (chan : Nat) : Statement (.accessListWrite chan) := by
  intro w h; cases h
theorem queueMove (chan : Nat) : Statement (.queueMove chan) := by
  intro w h; cases h
theorem preempt (chan : Nat) : Statement (.preempt chan) := by
  intro w h; cases h
theorem restore (chan : Nat) : Statement (.restore chan) := by
  intro w h; cases h
theorem haltRetry (chan : Nat) : Statement (.haltRetry chan) := by
  intro w h; cases h
theorem haltSkip (chan : Nat) : Statement (.haltSkip chan) := by
  intro w h; cases h
theorem haltResumeCopy (chan : Nat) : Statement (.haltResumeCopy chan) := by
  intro w h; cases h
theorem haltKill (chan : Nat) : Statement (.haltKill chan) := by
  intro w h; cases h
theorem keyInstall (chan : Nat) : Statement (.keyInstall chan) := by
  intro w h; cases h
theorem counterAssign (chan : Nat) : Statement (.counterAssign chan) := by
  intro w h; cases h
theorem attestationQuote (chan : Nat) : Statement (.attestationQuote chan) := by
  intro w h; cases h
theorem illegalInstruction (word : BitVec 32) : Statement (.illegalInstruction word) := by
  intro w h; cases h
theorem returnAddressSpillComplete (g : Nat) (lanes : Nat) : Statement (.returnAddressSpillComplete g lanes) := by
  intro w h; cases h
theorem fabricPortLinkChange (port : Nat) (up : Nat) : Statement (.fabricPortLinkChange port up) := by
  intro w h; cases h
theorem chimneyPortLinkUp : Statement .chimneyPortLinkUp := by
  intro w h; cases h
theorem chimneyCommandDiscard (chan : Nat) : Statement (.chimneyCommandDiscard chan) := by
  intro w h; cases h
theorem fallbackTableSwitch (die : Nat) : Statement (.fallbackTableSwitch die) := by
  intro w h; cases h

end Sys2Proof.Laws.Encoded
end

