-- ==== Sys2Proof/Tests/Slice0.lean ====
section
/-!
SUPPORT. The model's own tests: terms that are not well formed, words written out from the encodings, single steps with results worked out
from the manual, and for the statements of Certificates/Slice0 states and operands that meet their hypotheses.
-/
namespace Sys2Proof.Machine.Tests

open Sys2Proof Sys2Proof.Machine

set_option Elab.async false

/-! ### Well-formed terms -/

/-- One ill-formed term for each check, refused, and one that stands at the edge of it and passes. -/
theorem test_wf_core : Instr.wf (.ticketSettle 192) = false ∧ Instr.wf (.ticketSettle 191) = true := by decide
theorem test_wf_die : Instr.wf (.dieReset 8) = false ∧ Instr.wf (.dieReset 7) = true := by decide
theorem test_wf_link : Instr.wf (.flitReceive 24) = false ∧ Instr.wf (.flitReceive 23) = true := by decide
theorem test_wf_port : Instr.wf (.pdsRetransmit 16) = false ∧ Instr.wf (.pdsRetransmit 15) = true := by decide
theorem test_wf_channel : Instr.wf (.hbmRead 16) = false ∧ Instr.wf (.hbmRead 15) = true := by decide
theorem test_wf_queue : Instr.wf (.refillStep 131072) = false ∧ Instr.wf (.refillStep 131071) = true := by decide
theorem test_wf_quarter : Instr.wf (.activeEntry 768) = false ∧ Instr.wf (.activeEntry 767) = true := by decide
theorem test_wf_context : Instr.wf (.contextSave 524288) = false ∧ Instr.wf (.contextSave 524287) = true := by decide
theorem test_wf_line : Instr.wf (.codeLineFill 0 0 64) = false ∧ Instr.wf (.codeLineFill 0 0 128) = true := by decide
theorem test_wf_sub : Instr.wf (.scrubEccError 0 4 0) = false ∧ Instr.wf (.scrubEccError 0 3 0) = true := by decide
theorem test_wf_lanes : Instr.wf (.returnAddressSpillComplete 1 (2 ^ 32)) = false ∧ Instr.wf (.returnAddressSpillComplete 1 (2 ^ 32 - 1)) = true := by
  decide

/-! ### Decoding -/

/-- A word is refused, with its length. -/
def isIllegal (d : Decoded) (n : Nat) : Bool :=
  match d with
  | .illegal _ m => decide (m = n)
  | .ok _ _ => false

/-- Words of the family, written out from the encodings and worked examples of R25, R26. -/
theorem test_decode_short :
    decode 0b0_00100_00011_1100_0 = .ok (.fmulShort 0 4 3) 2 ∧
    decode 0b1_00000_11111_0000_0 = .ok (.movShort 1 0 31) 2 ∧
    decode 0b0_00000_00000_1111_0 = .ok (.nop) 2 := by decide +kernel

/-- Words of the family, written out from the encodings and worked examples of R27, R38, R139 to R143. -/
theorem test_decode_v3 :
    decode 0b000_0000011_0000010_0000001_0000000_1 = .ok (.iadd 0 3 2 1) 4 ∧
    decode 0b000_0000101_0000011_0000011_0011000_1 = .ok (.fadd 0 5 3 3) 4 ∧
    decode 0b010_1100001_1101000_0001000_0011010_1 = .ok (.fmul 2 97 104 8) 4 ∧
    decode 0b000_1100010_0000100_0000101_0011011_1 = .ok (.fmac 0 98 4 5) 4 ∧
    decode 0b111_1111111_1000000_1011111_0101001_1 = .ok (.bfmac2 7 127 64 95) 4 ∧
    decode 0b101_0000001_0000010_0000011_0101100_1 = .ok (.sel 5 1 2 3) 4 ∧
    decode 0b001_0000100_0000101_0000110_0101101_1 = .ok (.prmt 1 4 5 6) 4 := by decide +kernel

/-- Words of the family, written out from the encodings and worked examples of R27, R144. -/
theorem test_decode_immediates :
    decode 0b1111111111_0000010_0000001_0110000_1 = .ok (.iaddi 0x3FF 2 1) 4 ∧
    decode 0b0000011111_0000010_0000001_0110101_1 = .ok (.shli 31 2 1) 4 ∧
    decode 0b1000000000_0000000_1101001_0111000_1 = .ok (.movi 0x200 105) 4 := by decide +kernel

/-- Words of the family, written out from the encodings and worked examples of R27, R145, R146. -/
theorem test_decode_compares :
    decode 0b0_000_0000011_0000010_010_001_0111100_1 = .ok (.icmps 0 0 3 2 2 1) 4 ∧
    decode 0b1_011_0000011_0000010_110_111_0111110_1 = .ok (.fcmp 1 3 3 2 6 7) 4 ∧
    decode 0b0_001_0000101_0000100_011_010_0111111_1 = .ok (.plop 0 1 5 4 3 2) 4 := by decide +kernel

/-- Words of the family, written out from the encodings and worked examples of R27, R147, R148. -/
theorem test_decode_unary :
    decode 0b0_001_000000_0000010_0000011_1000000_1 = .ok (.frcp 1 2 3) 4 ∧
    decode 0b0_000_000000_0000010_0000011_1000001_1 = .ok (.not 0 2 3) 4 := by decide +kernel

/-- Words of the family, written out from the encodings and worked examples of R149 to R153. -/
theorem test_decode_conversions :
    decode 0b000_0000_001_0000010_0000001_1000010_1 = .ok (.cvtS32F32 0 1 2 1) 4 ∧
    decode 0b100_1001_111_0000010_0000001_1000010_1 = .ok (.cvtH2B2 4 7 2 1) 4 ∧
    decode 0b001_0001001_0010000_0000010_1000011_1 = .ok (.qnt4 1 9 16 2) 4 := by decide +kernel

/-- Words of the family, written out from the encodings and worked examples of R154 to R156. -/
theorem test_decode_lane_exchanges :
    decode 0b01_0_0000011_0000010_0000001_1000111_1 = .ok (.shfl 1 3 2 1) 4 ∧
    decode 0b11000000000000111000001110010001 = .ok (.reduxFadd 7 3) 4 := by decide +kernel

/-- Words of the family, written out from the encodings and worked examples of R168, R183, R184. -/
theorem test_decode_matrix :
    decode 0b00010000000100000100100010010011 = .ok (.tmovToReg 4 0 2 1 8) 4 ∧
    decode 0b00000100000000000000000010010101 = .ok (.tzero 4) 4 ∧
    decode 0b01000100000110000111000010010101 = .ok (.tldt 4 6 7) 4 ∧
    decode 0b10000100000110000111000010010101 = .ok (.tstt 4 6 7) 4 ∧
    decode 0b11000100000110000111001010010101 = .ok (.tepi 4 6 7 1) 4 ∧
    decode 0b00010000011000000010100110010111 = .ok (.mma 4 3 0 0 1 0 1 1) 4 := by decide +kernel

/-- Words of the family, written out from the encodings and worked examples of R87, R89, R121. -/
theorem test_decode_rings_and_barriers :
    decode 0b00000000000000010000010110011001 = .ok (.rcfg 0 4 5) 4 ∧
    decode 0b00010001000000100100000010011001 = .ok (.rwaitF 0 1 0 9) 4 ∧
    decode 0b00000011000000000000000010011011 = .ok (.bar 3) 4 ∧
    decode 0b00110001000000000000000010011011 = .ok (.barPArv 1) 4 := by decide +kernel

/-- Words of the family, written out from the encodings and worked examples of R160 to R164. -/
theorem test_decode_scalars :
    decode 0b00_0000_000011_000010_000001_1010000_1 = .ok (.sadd 3 2 1) 4 ∧
    decode 0b000000111111100000_001010_1010011_1 = .ok (.shi 0xFE0 10) 4 ∧
    decode 0b1_00_101_000011_000010_001_000_1010100_1 = .ok (.scmp 1 5 3 2 1) 4 ∧
    decode 0b01_000_11111_0000111_0_001001_1010101_1 = .ok (.v2sLane 31 7 9) 4 ∧
    decode 0b01000000100100001100000010101101 = .ok (.ssw 9 3) 4 := by decide +kernel

/-- Words of the family, written out from the encodings and worked examples of R27, R110, R115, R118, R120. -/
theorem test_decode_memory :
    decode 0b1_010_110011_0000110_0000100_1011000_1 = .ok (.lds 1 2 51 6 4) 4 ∧
    decode 0b0_010_000101_0000110_0000101_1011001_1 = .ok (.sts 0 2 5 6 5) 4 ∧
    decode 0b00000000101000011000010010111011 = .ok (.atsAdd 0 5 6 2) 4 ∧
    decode 0b00011000000000010001000011001011 = .ok (.spill 3 2 16) 4 ∧
    decode 0b00_00_000011_0000110_0000000_1100110_1 = .ok (.prefL1 3 6) 4 := by decide +kernel

/-- Words of the family, written out from the encodings and worked examples of R198, R199, R200. -/
theorem test_decode_witnesses :
    decode 0b00000011001000010100011011011001 = .ok (.wmerge 0 50 5 6) 4 ∧
    decode 0b00000000000000010111010011011011 = .ok (.wreduce 0 5 52) 4 := by decide +kernel

/-- Words of the family, written out from the encodings and worked examples of R225 to R229. -/
theorem test_decode_queues :
    decode 0b00000011000000001000101011100001 = .ok (.qres 0 0 3 2 10) 4 ∧
    decode 0b00000000010000001010000011100011 = .ok (.qenqL 0 16 10) 4 ∧
    decode 0b10000000000000001010000011100011 = .ok (.qenqM 0 0 10) 4 ∧
    decode 0b11000010010100000010111111100111 = .ok (.qdeqL 1 1 1 20 2 15) 4 ∧
    decode 0b01000000000000011001010011101001 = .ok (.qflush 0 3 10) 4 := by decide +kernel

/-- Words of the family, written out from the encodings and worked examples of R249 to R258. -/
theorem test_decode_control :
    decode 0b1111111111111110101_0_0_011_1110110_1 = .ok (.br 0x7FFF5 0 3) 4 ∧
    decode 0b1111111111111011000_1_0_001_1110110_1 = .ok (.brRg 0x7FFD8 0 1) 4 ∧
    decode 0b0000000000000001010_010_00_1110111_1 = .ok (.bru 10 2 0) 4 ∧
    decode 0b00000000000000000010100_1_1111000_1 = .ok (.call 20) 4 ∧
    decode 0b00000000100000000000000011110011 = .ok (.jmpi 4) 4 ∧
    decode 0b00010000100000000000000011110011 = .ok (.calli 4) 4 ∧
    decode 0b00100000000000000000000011110011 = .ok (.ret) 4 := by decide +kernel

/-- Words of the family, written out from the encodings and worked examples of R282, R315. -/
theorem test_decode_travel_and_system :
    decode 0b0000_0000_0000_000000_000100_1111011_1 = .ok (.tseg 4) 4 ∧
    decode 0b0000_0001_0000_000110_000101_1111011_1 = .ok (.tsegAddr 6 5) 4 ∧
    decode 0b0001_0001_0000_000110_001010_1111011_1 = .ok (.tstat 1 6 10) 4 ∧
    decode 0b0010_0001_0000_000000_000000_1111011_1 = .ok (.thint 1) 4 ∧
    decode 0b00000000000000000010101011111101 = .ok (.trap 0x2A) 4 ∧
    decode 0b00010000000000000000000011111101 = .ok (.bkpt) 4 ∧
    decode 0b00100110000000000000010011111101 = .ok (.cntr 3 4) 4 ∧
    decode 0b00110000000000000000000011111101 = .ok (.isync) 4 ∧
    decode 0b01000000000000000000000011111101 = .ok (.nop32) 4 := by decide +kernel

/-- R39: words that are reserved are refused by name: a reserved major, a clause header in an instruction position, a reserved bit of VX, the reserved bit of SHFL, op 15 with a register, PREF kind 2. -/
theorem test_decode_refuses :
    isIllegal (decode 0b000000000000000000000000_0010010_1) 4 = true ∧
    isIllegal (decode 0b000000000000000000000000_1111111_1) 4 = true ∧
    isIllegal (decode 0b1_000_000000_0000000_0000000_1000000_1) 4 = true ∧
    isIllegal (decode 0b00_1_0000000_0000000_0000000_1000111_1) 4 = true ∧
    isIllegal (decode 0b0_00001_00000_1111_0) 2 = true ∧
    isIllegal (decode 0b00_10_000000_0000000_0000000_1100110_1) 4 = true := by decide +kernel
/-! ### States for the witnesses

The hypotheses of a statement about an instruction are that its path stands at the issue stage, that its operands pass the checks, and what
the statement adds. A witness is a state, made from the one that withFetchWord gives, that meets all of them together. -/

/-- A group in the state of withFetchWord after reset, with its path at the issue stage: f changes the group and h the rest. -/
def seat (f : Group → Group := id) (h : State → State := id) (m : Lanes := 0xFFFFFFFF) : State :=
  let s := State.reset.withFetchWord 32 0
  h { s with issue := [], cur := some { g := 1, lanes := m, len := 4 }, groups := Map.put s.groups 1 (f (s.groupAt 1)) }

/-- The path at the issue stage. -/
def path (s : State) : Issue := s.cur.getD { g := 0, lanes := 0 }

/-- Stands and Clear as one computation. -/
def poised (s : State) (c : Issue) (g : Group) (o : Opnds) : Bool :=
  decide (s.cur = some c) && decide (Map.find s.groups c.g = some g) &&
  (List.range 32).all (fun l => !c.lanes.getLsbD l || (Map.find g.threads l).isSome) &&
  decide (codeFault o = none) && decide (latchFault o c g = none) && decide (readyFault o c g = none) && decide (ceilingFault o g = none) &&
  decide (allocStall s o c g = none) && decide (poisonRead o c g = none) && decide (upsetLanes o c g = 0) && decide (fallFault s c g = none)

theorem of_poised {s : State} {c : Issue} {g : Group} {o : Opnds} (h : poised s c g o = true) : Stands s c g ∧ Clear s c g o := by
  simp only [poised, Bool.and_eq_true, decide_eq_true_eq] at h
  obtain ⟨⟨⟨⟨⟨⟨⟨⟨⟨⟨h1, h2⟩, h3⟩, h4⟩, h5⟩, h6⟩, h7⟩, h8⟩, h9⟩, h9b⟩, h10⟩ := h
  refine ⟨⟨h1, h2, fun l hl => ?_⟩, ⟨h4, h5, h6, h7, h8, h9, h9b⟩, h10⟩
  have hl' : l < 32 := BitVec.lt_of_getLsbD hl
  simpa [hl] using List.all_eq_true.1 h3 l (List.mem_range.2 hl')

/-- Some state, path and group meet Stands and Clear for the operands o, and p. -/
def Meets (o : Opnds) (p : State → Issue → Group → Prop) : Prop := ∃ s c g, Stands s c g ∧ Clear s c g o ∧ p s c g

theorem meets {o : Opnds} {p : State → Issue → Group → Prop} (s : State) (h : poised s (path s) (s.groupAt 1) o = true)
    (hp : p s (path s) (s.groupAt 1)) : Meets o p :=
  ⟨s, path s, s.groupAt 1, (of_poised h).1, (of_poised h).2, hp⟩

/-- The path of seat with all lanes, with nothing further asked. -/
def Poised (o : Opnds) : Prop := Meets o fun _ _ _ => True

theorem poised_seat {o : Opnds} (h : poised seat (path seat) ((seat).groupAt 1) o = true) : Poised o := meets seat h trivial

/-- A group with scalars, main registers of lane 0, and predicates. -/
def regs (s : Map Word := []) (v : Map Word := []) (p : Map Lanes := []) (g : Group) : Group := { g with regs := { g.regs with s := s, v := v, p := p } }

/-- A thread of every lane, changed. -/
def threads (f : Thread → Thread) (g : Group) : Group := { g with threads := g.threads.map fun e => (e.1, f e.2) }

/-- A team whose descriptor 7 is d. -/
def fd7 (d : Word) (s : State) : State := { s with teams := Map.put s.teams 4 { s.teamAt 4 with fds := [(7, d)] } }

/-- The latch is valid in every lane. -/
def latched (g : Group) : Group := { g with regs := { g.regs with lrValid := 0xFFFFFFFF } }

/-! ### Witnesses: lane-wise instructions -/

theorem witness_IntegerResults : Poised (v3Operands 7 103 0 95) ∧ Poised (v3Operands 0 105 105 105) :=
  ⟨poised_seat (by decide +kernel), poised_seat (by decide +kernel)⟩

theorem witness_FloatResults : Poised (v3Operands 7 103 0 95) ∧ Poised (v3AccOperands 7 103 0 95) :=
  ⟨poised_seat (by decide +kernel), poised_seat (by decide +kernel)⟩

/-- The source is v31, or the latch where it is valid. -/
theorem witness_ShortResults : Poised (v3Operands 0 (shortRight 0 31) 31 31) ∧
    Meets (v3Operands 0 (shortRight 1 0) 31 31) (fun _ _ _ => (1 : BitVec 1) = 1 → (0 : BitVec 5) = 0) ∧
    Meets { reads := [shortRight 1 0], preds := [0], dests := [31], second := relOf (shortRight 1 0) }
      (fun _ _ _ => (1 : BitVec 1) = 1 → (0 : BitVec 5) = 0) :=
  ⟨poised_seat (by decide +kernel), meets (seat latched) (by decide +kernel) (fun _ => rfl),
    meets (seat latched) (by decide +kernel) (fun _ => rfl)⟩

theorem witness_PackedResults : Poised (v3Operands 1 112 127 0) ∧ Poised (v3AccOperands 1 112 127 0) :=
  ⟨poised_seat (by decide +kernel), poised_seat (by decide +kernel)⟩

theorem witness_SelectionAndImmediates :
    Poised { reads := [95, 96], preds := [0, 7], dests := [105], first := relOf 95, second := relOf 96 } ∧
    Meets { reads := [1, 2, 103], preds := [7], dests := [103], first := relOf 1, second := relOf 2, guard := 7 }
      (fun _ _ _ => (103 : BitVec 7) ≠ 104 ∧ (103 : BitVec 7) ≠ 105) ∧
    Poised (vxOperands 0 95 0) ∧ Poised { preds := [0], dests := [95] } :=
  ⟨poised_seat (by decide +kernel), meets seat (by decide +kernel) (by decide), poised_seat (by decide +kernel), poised_seat (by decide +kernel)⟩

theorem witness_CompareResults : Poised (vpOperands 1 7 95 0 7) ∧ Poised (vpOperands 0 0 103 105 0) ∧
    Meets { preds := 7 :: (if (1 : BitVec 1) = 1 then [7, 1, 2] else [1, 2]), guard := 7 } (fun _ _ _ => (5 : BitVec 3).toNat < 6) :=
  ⟨poised_seat (by decide +kernel), poised_seat (by decide +kernel), meets seat (by decide +kernel) (by decide)⟩

theorem witness_UnaryResults : Poised (vxOperands 7 95 95) ∧ Poised (vxOperands 0 105 105) :=
  ⟨poised_seat (by decide +kernel), poised_seat (by decide +kernel)⟩

theorem witness_CvtResults :
    Meets (vxOperands 7 95 95) (fun s _ g => modeField 4 s g) ∧ Meets (vxOperands 7 95 95) (fun s _ g => modeField 7 s g) ∧
    (eligible 94 2 = true ∧ Meets { reads := block 94 2, preds := [7], dests := [0], first := (block 94 2).filter (fun k => decide (k < 96)), bases := baseOf (block 94 2), guard := 7 }
      (fun s _ g => modeField 7 s g)) ∧
    (94 % 2 = 0 ∧ 94 + 2 ≤ 96 ∧ Meets { reads := [0], preds := [7], dests := block 94 2, first := relOf 0, guard := 7 } (fun s _ g => modeField 0 s g)) :=
  ⟨meets seat (by decide +kernel) (by unfold modeField; decide), meets seat (by decide +kernel) (by unfold modeField; decide),
    ⟨by decide, meets seat (by decide +kernel) (by unfold modeField; decide)⟩, by decide, by decide,
    meets seat (by decide +kernel) (by unfold modeField; decide)⟩

/-- Descriptor 7 as an 8-bit format with codes of one byte, and as a 4-bit one with two to a byte. -/
theorem witness_NarrowResults :
    (eligible 92 4 = true ∧ Meets { reads := block 92 4 ++ [0], dests := [1], first := (block 92 4).filter (fun k => decide (k < 96)), second := relOf 0, bases := baseOf (block 92 4) }
      (fun s _ g => usesDescriptor 7 0 s g)) ∧
    (eligible 88 8 = true ∧ Meets { reads := block 88 8 ++ [0], dests := [1], first := (block 88 8).filter (fun k => decide (k < 96)), second := relOf 0, bases := baseOf (block 88 8) }
      (fun s _ g => usesDescriptor 7 1 s g)) ∧
    Meets { reads := [1, 2], dests := block (4 * 23) 4, first := relOf 1, second := relOf 2 } (fun s _ g => usesDescriptor 7 0 s g) ∧
    Meets { reads := [1, 2], dests := block (8 * 11) 8, first := relOf 1, second := relOf 2 } (fun s _ g => usesDescriptor 7 1 s g) ∧
    ((88 % 2 ^ 3 = 0 ∧ 88 + 2 ^ 3 ≤ 96) ∧
      Poised { reads := block 88 (2 ^ 3), preds := [7], dests := [0], first := (block 88 (2 ^ 3)).filter (fun k => decide (k < 96)), bases := baseOf (block 88 (2 ^ 3)), guard := 7 }) :=
  ⟨⟨by decide, meets (seat id (fd7 0x18C1E100)) (by decide +kernel) ⟨by decide +kernel, by decide +kernel, by decide +kernel⟩⟩,
    ⟨by decide, meets (seat id (fd7 0x14404140)) (by decide +kernel) ⟨by decide +kernel, by decide +kernel, by decide +kernel⟩⟩,
    meets (seat id (fd7 0x18C1E100)) (by decide +kernel) ⟨by decide +kernel, by decide +kernel, by decide +kernel⟩,
    meets (seat id (fd7 0x14404140)) (by decide +kernel) ⟨by decide +kernel, by decide +kernel, by decide +kernel⟩,
    by decide, poised_seat (by decide +kernel)⟩

theorem witness_LaneExchangeResults :
    ((103 : BitVec 7) ≠ 104 ∧ Poised { reads := [103, 0], dests := [95], first := relOf 103, second := relOf 0 }) ∧
    Poised { preds := [7], dests := [105] } ∧ Poised { preds := [7] } ∧ Poised { reads := [95], dests := [0], first := relOf 95 } ∧
    ((105 : BitVec 7) ≠ 104 ∧ Poised { readsAt := [(105, laneBit 31)], dests := [0], first := relOf 105 }) :=
  ⟨⟨by decide, poised_seat (by decide +kernel)⟩, poised_seat (by decide +kernel), poised_seat (by decide +kernel), poised_seat (by decide +kernel),
    by decide, poised_seat (by decide +kernel)⟩

/-! ### Witnesses: scalars, descriptors, counters -/

theorem witness_ScalarResults : Poised { scalars := [63, 0] } ∧ Poised { scalars := [63] } ∧ Poised {} :=
  ⟨poised_seat (by decide +kernel), poised_seat (by decide +kernel), poised_seat (by decide +kernel)⟩

theorem witness_SpecialRegisters :
    Meets { scalars := [63, 0] } (fun _ _ _ => (5 : BitVec 3).toNat < 6) ∧
    Meets { readsAt := [(95, laneBit (lowLane (laneBit 31)))], first := relOf 95 } (fun _ c _ => c.lanes = laneBit 31) ∧
    Meets { readsAt := [(95, laneBit 31)], first := relOf 95 } (fun _ _ _ => (95 : BitVec 7) ≠ 104) ∧
    Meets {} (fun _ _ _ => (10 : BitVec 6).toNat ≤ 10) ∧
    Meets { scalars := [3] } (fun _ c g => ((9 : BitVec 6) = 8 ∨ (9 : BitVec 6) = 9) ∧ ((9 : BitVec 6) = 9 → ((c.view g).scalar 3).toNat % 8 ≤ 4)) ∧
    Poised { scalars := [3] } :=
  ⟨meets seat (by decide +kernel) (by decide), meets (seat id id (laneBit 31)) (by decide +kernel) rfl,
    meets seat (by decide +kernel) (by decide), meets seat (by decide +kernel) (by decide),
    meets (seat (regs [(3, 0xFFFFFFFC)])) (by decide +kernel) ⟨by decide, by decide +kernel⟩, poised_seat (by decide +kernel)⟩

theorem witness_DescriptorsAndCounters :
    Meets { scalars := [3] } (fun s c g => s.inTravel g = false ∧ descValid ((c.view g).scalar 3) = true ∧ (Map.find s.teams g.team).isSome = true) ∧
    Meets {} (fun s _ g => s.inTravel g = false) ∧ Meets {} (fun _ _ _ => (62 : BitVec 6).toNat % 2 = 0) :=
  ⟨meets (seat (regs [(3, 0x18C1E100)])) (by decide +kernel) ⟨by decide +kernel, by decide +kernel, by decide +kernel⟩,
    meets seat (by decide +kernel) (by decide +kernel), meets seat (by decide +kernel) (by decide)⟩

/-! ### Witnesses: memory instructions -/

/-- Reaches as one computation. -/
def reachable (s : State) (sp : Space) (c : Issue) (g : Group) (addr : Nat → Nat) (n : Nat) (write : Bool) (w : Option (Nat → Wit)) : Bool :=
  decide (s.bad = []) && (decide (sp ≠ .team) || !s.inTravel g) && decide (accessLate s sp c g addr n w = none) &&
  decide (accessStall s sp g ((lanesOf c.lanes).map fun l => (s.keyOf sp g (addr l) n).getD 0) n write = none) &&
  decide ((s.coreAt (coreKey g.die g.core)).lineUsed + 32 ≤ Config.lineRequests)

theorem of_reachable {s : State} {sp : Space} {c : Issue} {g : Group} {addr : Nat → Nat} {n : Nat} {write : Bool} {w : Option (Nat → Wit)}
    (h : reachable s sp c g addr n write w = true) : Reaches s sp c g addr n write w := by
  simp only [reachable, Bool.and_eq_true, Bool.or_eq_true, decide_eq_true_eq, Bool.not_eq_true'] at h
  obtain ⟨⟨⟨⟨h1, h2⟩, h3⟩, h4⟩, h5⟩ := h
  exact ⟨h1, fun e => h2.resolve_left (fun k => k e), h3, h4, h5⟩

/-- Nothing is outstanding, so every access has its turn. -/
theorem turnOpenAt {s : State} {g : Group} {ctx target : Nat} (h : s.memOps = []) (k : s.qops = []) : TurnOpenAt s g ctx target := by
  intro n; simp [State.turnFree, h, k]

theorem turnOpen {s : State} {g : Group} (h : s.memOps = []) (k : s.qops = []) : TurnOpen s g := turnOpenAt h k

/-- No command is outstanding, so no index list is ahead. -/
theorem noList {s : State} {g : Group} {key : Nat} (h : s.cmds = []) : NoListAhead s g key := by
  intro n; simp [State.listAhead, h]

theorem noneBehind {s : State} {k l p n : Nat} (h : s.memOps = []) : NoneBehind s k l p n := by
  intro e he; rw [h] at he; cases he

/-- What holds in each of the 32 lanes holds in each of a mask. -/
theorem inLanes {m : Lanes} {p : Nat → Prop} (f : Nat → Bool) (hf : ∀ l, f l = true → p l) (h : (List.range 32).all f = true) :
    ∀ l, m.getLsbD l = true → p l := fun l hl => hf l (List.all_eq_true.1 h l (List.mem_range.2 (BitVec.lt_of_getLsbD hl)))

/-- A plot of two teams side by side on cores 0 and 1, whose descriptor 7 is d. -/
def pair (d : Word) (s : State) : State :=
  { s with teams := Map.put (Map.put s.teams 4 { s.teamAt 4 with fds := [(7, d)] }) 5 { s.teamAt 4 with core := 1, member := 1 }
           plots := Map.put s.plots 3 { s.plotAt 3 with w := 2, teams := [4, 5] } }

/-- Lane 31 of the group of a plot of two teams addresses the other team's memory, the other lanes their own core's. -/
def reaching : State := seat (regs [] [(31, 0x80200000)]) (pair 0)

/-- TeamOpen where nothing is outstanding. -/
theorem teamOpen {s : State} {c : Issue} {g : Group} {a n : Nat} (h : s.memOps = []) (k : s.qops = []) (d : s.cmds = [])
    (r : s.homeRoom g.die (coreHome g.core) (ownLanes s c g a n).length = true) : TeamOpen s c g a n :=
  ⟨fun _ _ => turnOpenAt h k, fun _ _ => noList d, fun _ => r⟩

/-- The line 0 of the scratchpad in the L1 of core 0, and in its read-only cache for the launch of seat. -/
def held (s : State) : State :=
  { s with cores := Map.put s.cores 0 { s.coreAt 0 with l1 := [(lineOf (scratchKey 0 0), .shared 5 6)], ro := [(roKey 2 (lineOf (scratchKey 0 0)), 7)] } }

/-- A load of 16 bytes to v92 to v95 counting on flag 1, in each of the two spaces; a store with and without a witness pair; a store by one lane
to the last 4 bytes of its core's team memory. -/
theorem witness_AccessesIssue :
    Meets ((({ reads := [0], dests := loadDests 92 16, first := relOf 0 } : Opnds)).present 0) (fun s c g =>
      namesFlag c g 1 1 ∧ Reaches s .scratch c g (fun l => ((c.view g).read 0 l).toNat) 16 false (some fun l => (c.view g).wit 0 l)) ∧
    Meets ((({ reads := [0], dests := loadDests 92 16, first := relOf 0 } : Opnds)).present 63) (fun s c g =>
      namesFlag c g 0 0 ∧ Reaches s .team c g (fun l => ((c.view g).read 0 l).toNat) 16 false (some fun l => (c.view g).wit 63 l)) ∧
    Meets (storeOperands 0 88 16 47) (fun s c g => mayName c g 1 (47 ≠ 63) 1 ∧ eligible 88 4 = true ∧
      Reaches s .scratch c g (fun l => ((c.view g).read 0 l).toNat) 16 true none) ∧
    Meets (storeOperands 0 105 4 63) (fun s c g => mayName c g 0 (63 ≠ 63) 0 ∧
      Reaches s .scratch c g (fun l => ((c.view g).read 0 l).toNat) 4 true none) ∧
    Meets (storeOperands 0 105 4 63) (fun s c g => c.lanes = laneBit 31 ∧ mayName c g 0 (63 ≠ 63) 0 ∧
      Reaches s .team c g (fun l => ((c.view g).read 0 l).toNat) 4 true none ∧ TurnOpen s g ∧ s.homeRoom g.die (coreHome g.core) 1 = true ∧
      s.keyOf .team g ((c.view g).read 0 31).toNat 4 = some 2097148 ∧ 2097148 / 2 ^ 21 = coreKey g.die g.core ∧ NoListAhead s g 2097148) ∧
    Meets ((({ reads := [0], dests := loadDests 92 16, first := relOf 0 } : Opnds)).present 63) (fun s c g => namesFlag c g 0 0 ∧
      Reaches s .team c g (fun l => ((c.view g).read 0 l).toNat) 16 false (some fun l => (c.view g).wit 63 l) ∧
      (∀ l, c.lanes.getLsbD l = true → s.satisfied g.die g.core ((c.view g).wit 63 l) = true ∧
        TurnOpenAt s g (s.teamAt g.team).ctx (laneKey s .team c g 0 16 l / 2 ^ 21)) ∧ 0 ∈ ownLanes s c g 0 16 ∧ 31 ∉ ownLanes s c g 0 16) ∧
    Meets ((({ reads := [0], dests := loadDests 92 16, first := relOf 0 } : Opnds)).present 63) (fun s c g => namesFlag c g 0 0 ∧
      Reaches s .scratch c g (fun l => ((c.view g).read 0 l).toNat) 16 false (some fun l => (c.view g).wit 63 l) ∧
      c.lanes.getLsbD 31 = true ∧ s.scratchAddr g ((c.view g).read 0 31).toNat 16 = some (scratchKey 0 0) ∧ NoneBehind s c.g 31 (scratchKey 0 0) 16 ∧
      s.satisfied g.die g.core ((c.view g).wit 63 31) = true ∧
      Map.find (s.coreAt (coreKey g.die g.core)).l1 (lineOf (scratchKey 0 0)) = some (.shared 5 6) ∧
      Map.find (s.coreAt (coreKey g.die g.core)).ro (roKey g.grid (lineOf (scratchKey 0 0))) = some 7 ∧
      roKey g.grid (lineOf (scratchKey 0 0)) ∉ (s.coreAt (coreKey g.die g.core)).roBypass) ∧
    Meets (storeOperands 0 88 16 47) (fun s c g => mayName c g 1 (47 ≠ 63) 1 ∧ eligible 88 4 = true ∧
      Reaches s .team c g (fun l => ((c.view g).read 0 l).toNat) 16 true none ∧ TeamOpen s c g 0 16 ∧ 31 ∉ ownLanes s c g 0 16) := by
  refine ⟨meets seat (by decide +kernel) ⟨?_, of_reachable (by decide +kernel)⟩, meets seat (by decide +kernel) ⟨?_, of_reachable (by decide +kernel)⟩,
    meets seat (by decide +kernel) ⟨⟨fun _ => ?_, fun h => ?_⟩, by decide, of_reachable (by decide +kernel)⟩,
    meets seat (by decide +kernel) ⟨⟨fun h => ?_, fun _ => rfl⟩, of_reachable (by decide +kernel)⟩,
    meets (seat (regs [] [(31, 0x1FFFFC)]) id (laneBit 31)) (by decide +kernel)
      ⟨rfl, ⟨fun h => ?_, fun _ => rfl⟩, of_reachable (by decide +kernel), turnOpen (by decide +kernel) (by decide +kernel), by decide +kernel,
        by decide +kernel, by decide +kernel, noList (by decide +kernel)⟩,
    meets reaching (by decide +kernel) ⟨?_, of_reachable (by decide +kernel), fun l hl =>
      ⟨inLanes (fun l => reaching.satisfied 0 0 (((path reaching).view (reaching.groupAt 1)).wit 63 l)) (fun _ h => h) (by decide +kernel) l hl,
        turnOpenAt (by decide +kernel) (by decide +kernel)⟩, by decide +kernel, by decide +kernel⟩,
    meets (seat id held) (by decide +kernel) ⟨?_, of_reachable (by decide +kernel), by decide +kernel, by decide +kernel,
      noneBehind (by decide +kernel),
      by decide +kernel, by decide +kernel, by decide +kernel, by decide +kernel⟩,
    meets reaching (by decide +kernel) ⟨⟨fun _ => ?_, fun h => ?_⟩, by decide, of_reachable (by decide +kernel),
      teamOpen (by decide +kernel) (by decide +kernel) (by decide +kernel) (by decide +kernel), by decide +kernel⟩⟩
  · unfold namesFlag; decide +kernel
  · unfold namesFlag; decide +kernel
  · unfold namesFlag; decide +kernel
  · exact absurd (by decide : (47 : Nat) ≠ 63) h
  · exact absurd rfl h
  · exact absurd rfl h
  · unfold namesFlag; decide +kernel
  · unfold namesFlag; decide +kernel
  · unfold namesFlag; decide +kernel
  · exact absurd (by decide : (47 : Nat) ≠ 63) h

/-- A compare and swap of 8 bytes with its result in v92 to v95, and an add without one, in each of the two spaces. -/
theorem witness_AtomicsIssue :
    Meets (atomicOperands .cas 8 0 92 23) (fun s c g => atomicFields .cas 8 92 23 ∧ mayName c g 1 ((23 : BitVec 5).toNat ≠ 31) 1 ∧
      Reaches s .scratch c g (fun l => ((c.view g).read 0 l).toNat) 8 true none) ∧
    Meets (atomicOperands .add 4 0 127 31) (fun s c g => atomicFields .add 4 127 31 ∧ mayName c g 0 ((31 : BitVec 5).toNat ≠ 31) 0 ∧
      Reaches s .scratch c g (fun l => ((c.view g).read 0 l).toNat) 4 true none) ∧
    Meets (atomicOperands .cas 8 0 92 23) (fun s c g => atomicFields .cas 8 92 23 ∧ c.lanes = laneBit 31 ∧
      mayName c g 1 ((23 : BitVec 5).toNat ≠ 31) 1 ∧ Reaches s .team c g (fun l => ((c.view g).read 0 l).toNat) 8 true none ∧
      TurnOpen s g ∧ s.homeRoom g.die (coreHome g.core) 1 = true ∧ s.keyOf .team g ((c.view g).read 0 31).toNat 8 = some 2097144 ∧
      2097144 / 2 ^ 21 = coreKey g.die g.core ∧ NoListAhead s g 2097144) ∧
    Meets (atomicOperands .cas 8 0 92 23) (fun s c g => atomicFields .cas 8 92 23 ∧ mayName c g 1 ((23 : BitVec 5).toNat ≠ 31) 1 ∧
      Reaches s .team c g (fun l => ((c.view g).read 0 l).toNat) 8 true none ∧ TeamOpen s c g 0 8 ∧ 31 ∉ ownLanes s c g 0 8) := by
  refine ⟨meets seat (by decide +kernel) ⟨by unfold atomicFields; decide, ⟨fun _ => ?_, fun h => ?_⟩, of_reachable (by decide +kernel)⟩,
    meets seat (by decide +kernel) ⟨by unfold atomicFields; decide, ⟨fun h => ?_, fun _ => rfl⟩, of_reachable (by decide +kernel)⟩,
    meets (seat (regs [] [(31, 0x1FFFF8)]) id (laneBit 31)) (by decide +kernel)
      ⟨by unfold atomicFields; decide, rfl, ⟨fun _ => ?_, fun h => ?_⟩, of_reachable (by decide +kernel), turnOpen (by decide +kernel) (by decide +kernel),
        by decide +kernel, by decide +kernel, by decide +kernel, noList (by decide +kernel)⟩,
    meets reaching (by decide +kernel) ⟨by unfold atomicFields; decide, ⟨fun _ => ?_, fun h => ?_⟩, of_reachable (by decide +kernel),
      teamOpen (by decide +kernel) (by decide +kernel) (by decide +kernel) (by decide +kernel), by decide +kernel⟩⟩
  · unfold namesFlag; decide +kernel
  · exact absurd (by decide) h
  · exact absurd rfl h
  · unfold namesFlag; decide +kernel
  · exact absurd (by decide) h
  · unfold namesFlag; decide +kernel
  · exact absurd (by decide) h

/-- An operation of the group of seat, outstanding under number 9. -/
def opOut (o : MemOp) : State := seat id fun s => { s with memOps := [(9, o)] }

theorem witness_CompletionsLand :
    (let o : MemOp := { kind := .load, g := 1, die := 0, core := 0, team := 4, grid := 2, dst := 100 }
     Map.find (opOut o).memOps 9 = some o ∧ (Map.find (opOut o).groups o.g).isSome = true) ∧
    (let o : MemOp := { kind := .store, g := 1, die := 0, core := 0, team := 4, grid := 2, wp := 47 }
     Map.find (opOut o).memOps 9 = some o ∧ (Map.find (opOut o).groups o.g).isSome = true ∧ o.wp < 48 ∧
       (opOut o).ctxSaved o.die ((opOut o).groupAt o.g).ctx = false) ∧
    (let o : MemOp := { kind := .atomic .add, g := 1, die := 0, core := 0, team := 4, grid := 2, dst := 92, size := 8 }
     Map.find (opOut o).memOps 9 = some o ∧ (Map.find (opOut o).groups o.g).isSome = true ∧ o.dst + 3 < 96) ∧
    (let o : MemOp := { kind := .fill, g := 1, die := 0, core := 0, team := 4, grid := 2, dst := 94, size := 2,
                        lanes := (List.range 2).map (fun i => { lane := i, addr := 0, st := .done, val := [5, 6].getD i 0 }) }
     Map.find (opOut o).memOps 9 = some o ∧ (Map.find (opOut o).groups o.g).isSome = true ∧ o.dst + 2 ≤ 96 ∧ [5, 6].length = 2) := by
  decide +kernel

/-- A grid that gives each group 2 spill slots. -/
def slots2 (s : State) : State := { s with grids := Map.put s.grids 2 { s.gridAt 2 with packet := BitVec.ofNat 2048 (2 * 2 ^ 240) } }
/-- The page at 0 is mapped for the hardware's own accesses. -/
def mapped (s : State) : State :=
  { s with cores := Map.put s.cores 0 { s.coreAt 0 with tlb := [{ ctx := ((s.groupAt 1).ctx), base := 0, size := 65536, pte := 0x41 }] } }

/-- Both homes of the HBM of die 0 have given as many counts as the lead lets them. -/
def ahead (s : State) : State := s.modDie 0 fun d => { d with given := [(24, Config.lead), (25, Config.lead)] }

/-- Two registers, to the last two slots and from the last two registers; a write of the hardware that its home takes and one that waits there. -/
theorem witness_SpillFillPrefetch :
    Meets (spillOperands 94 1) (fun s _ g =>
      94 + 1 + 1 ≤ 96 ∧ 0 + 1 + 1 ≤ (s.gridAt g.grid).slots ∧ s.inTravel g = false ∧ s.spillRoom g.die (1 + 1) = true) ∧
    (∀ b, ∃ (s u : State) (g : Group) (va pa : Nat) (x : List Byte),
      s.translate (coreKey g.die g.core) g.die g.ctx va .system = (.ok pa, u) ∧ x.length = 128 ∧ u.homeRoom g.die (hbmHome pa) 1 = b) ∧
    Meets { dests := block 94 (1 + 1) } (fun s c g => 94 + 1 + 1 ≤ 96 ∧ 0 + 1 + 1 ≤ (s.gridAt g.grid).slots ∧ s.inTravel g = false ∧ namesFlag c g 1 1) ∧
    Poised { reads := [95], first := relOf 95 } := by
  refine ⟨meets (seat id slots2) (by decide +kernel) ⟨by decide, by decide +kernel, by decide +kernel, by decide +kernel⟩,
    fun b => ?_,
    meets (seat id slots2) (by decide +kernel) ⟨by decide, by decide +kernel, by decide +kernel, ?_⟩, poised_seat (by decide +kernel)⟩
  · cases b
    · exact ⟨ahead (mapped seat), _, (seat).groupAt 1, 0, 0, List.replicate 128 0, Prod.ext (by decide +kernel) rfl, List.length_replicate .., by decide +kernel⟩
    · exact ⟨mapped seat, _, (seat).groupAt 1, 0, 0, List.replicate 128 0, Prod.ext (by decide +kernel) rfl, List.length_replicate .., by decide +kernel⟩
  · unfold namesFlag; decide +kernel

/-! ### Witnesses: events of the on-die memory -/

/-- A message of the mesh, with number 9. -/
def meshed (m : MeshMsg) (h : State → State := id) : State := h (seat id fun s => { s with mesh := [(9, m)] })

/-- Two lanes of a line whose bytes touch and do not meet, an atomic, and the window of the last core. -/
theorem witness_HomesPerform :
    (let l : List LaneAcc := [{ lane := 0, addr := 0x1000, arg := 7 }, { lane := 31, addr := 0x1004, arg := 8 }]
     let s := meshed (.write 0 0 32 5 l 4 6)
     Map.find s.mesh 9 = some (.write 0 0 32 5 l 4 6) ∧ FirstAtHome s 0 (32 % 24) 9 ∧ s.homeRoom 0 (32 % 24) l.length = true ∧ l.Nodup ∧
     ∀ a ∈ l, ∀ b ∈ l, b ≠ a → apart 4 a.addr b.addr) ∧
    (let a : LaneAcc := { lane := 0, addr := 0x1078 }
     let s := meshed (.atomic 0 0 32 5 .add [a] 8 6)
     Map.find s.mesh 9 = some (.atomic 0 0 32 5 .add [a] 8 6) ∧ FirstAtHome s 0 (32 % 24) 9 ∧ s.homeRoom 0 (32 % 24) 1 = true) ∧
    (let a : LaneAcc := { lane := 0, addr := 0 }
     let s := meshed (.window 7 0 23 5 .load [a] 16 6)
     Map.find s.mesh 9 = some (.window 7 0 23 5 .load [a] 16 6) ∧ FirstAtHome s 7 (coreHome 23) 9) ∧
    (let a : LaneAcc := { lane := 0, addr := 0 }
     let s := meshed (.window 7 0 23 5 .store [a] 16 6)
     Map.find s.mesh 9 = some (.window 7 0 23 5 .store [a] 16 6) ∧ FirstAtHome s 7 (coreHome 23) 9 ∧ s.homeRoom 7 (coreHome 23) 1 = true) ∧
    (let a : LaneAcc := { lane := 0, addr := 0 }
     let s := meshed (.window 7 0 23 5 (.atomic .add) [a] 8 6)
     Map.find s.mesh 9 = some (.window 7 0 23 5 (.atomic .add) [a] 8 6) ∧ FirstAtHome s 7 (coreHome 23) 9 ∧ s.homeRoom 7 (coreHome 23) 1 = true) ∧
    (let s := meshed (.write 0 0 32 5 [] 4 6) (fun s => s.modDie 0 fun d => { d with homeWait := [(8, [3, 9])] })
     Map.find s.mesh 9 = some (.write 0 0 32 5 [] 4 6) ∧ ¬ FirstAtHome s 0 (32 % 24) 9) := by
  unfold FirstAtHome apart
  decide +kernel

/-- The line 32 in the L1 of core 23 of die 0. -/
def shares (x : L1State) (s : State) : State := { s with cores := Map.put s.cores 23 { s.coreAt 23 with l1 := [(32, x)] } }

theorem witness_LinesMove :
    (23 < 24 ∧ Map.find (meshed (.read 0 23 32 none)).mesh 9 = some (.read 0 23 32 none) ∧ FirstAtHome (meshed (.read 0 23 32 none)) 0 (32 % 24) 9) ∧
    (Map.find (meshed (.read 0 23 32 (some 2))).mesh 9 = some (.read 0 23 32 (some 2)) ∧ FirstAtHome (meshed (.read 0 23 32 (some 2))) 0 (32 % 24) 9) ∧
    (let s := meshed (.probe 0 0 32 23 6) (shares (.shared 5 6))
     Map.find s.mesh 9 = some (.probe 0 0 32 23 6) ∧ Map.find (s.coreAt (coreKey 0 23)).l1 32 = some (.shared 5 6) ∧ 6 ≤ 6) ∧
    (let s := meshed (.probe 0 0 32 23 0) (shares (.pending false []))
     Map.find s.mesh 9 = some (.probe 0 0 32 23 0) ∧ Map.find (s.coreAt (coreKey 0 23)).l1 32 = some (.pending false [])) ∧
    (let s := meshed (.probe 0 0 32 23 7) (shares (.shared 5 6))
     Map.find s.mesh 9 = some (.probe 0 0 32 23 7) ∧ Map.find (s.coreAt (coreKey 0 23)).l1 32 = some (.shared 5 6) ∧ 6 < 7) ∧
    Map.find (meshed (.refusal 0 23 32)).mesh 9 = some (.refusal 0 23 32) ∧
    (23 < 24 ∧ Map.find (meshed (.register 0 23 32 1 0)).mesh 9 = some (.register 0 23 32 1 0)) ∧
    (let s := meshed (.fill 0 23 32 5 6 none none none) (shares (.pending false []))
     s.bad = [] ∧ Map.find s.mesh 9 = some (.fill 0 23 32 5 6 none none none) ∧ NoneWait s 0 23 ∧
     Map.find (s.coreAt (coreKey 0 23)).l1 32 = some (.pending false []) ∧ (s.coreAt (coreKey 0 23)).l1.length < Config.l1Lines) := by
  unfold FirstAtHome NoneWait
  decide +kernel

/-- Core 23 has forwarded the line 32 n times, unconfirmed. -/
def forwarded (n : Nat) (s : State) : State :=
  { s with cores := Map.put s.cores 23 { s.coreAt 23 with forwards := [(32, n)], withheld := [(32, 7), (32, 8)] } }

/-- An invalidation meets a Shared line, a Pending one and an unconfirmed forward; an acknowledgement ends a write's hold and an eviction's;
a confirmation is the last one and is not; the answer of a store of one line. -/
theorem witness_InvalidationProtocol :
    (Map.find (meshed (.inval 0 23 32 8) (shares (.shared 5 6))).mesh 9 = some (.inval 0 23 32 8) ∧
     Map.find (meshed (.inval 0 23 32 8) (shares (.pending false []))).mesh 9 = some (.inval 0 23 32 8) ∧
     Map.find (meshed (.inval 0 23 32 8) (forwarded 1)).mesh 9 = some (.inval 0 23 32 8)) ∧
    (∀ n, n < 2 → let x : Hold := { home := 8, count := n, core := 23, line := 32 }
     let s := meshed (.ack 0 7) fun s => { s with dies := [(0, { s.die 0 with holds := [(7, x)] })] }
     Map.find s.mesh 9 = some (.ack 0 7) ∧ Map.find (s.die 0).holds 7 = some x) ∧
    (Map.find (meshed (.confirm 0 23 32) (forwarded 1)).mesh 9 = some (.confirm 0 23 32) ∧
     Map.find (meshed (.confirm 0 23 32) (forwarded 2)).mesh 9 = some (.confirm 0 23 32)) ∧
    (let x : DirEntry := { sharers := 0x800001 }
     (Map.get ((meshed (.refusal 0 0 0) fun s => s.modDie 0 fun d => { d with dir := [(32, x)] }).die 0).dir {} 32).sharers.getLsbD 23 = true) ∧
    (let r : WRec := { groups := [1], lanes := 1, team := 4, grid := 2, die := 0, core := 0, home := 8 }
     let o : MemOp := { kind := .store, g := 1, die := 0, core := 0, team := 4, grid := 2, wp := 47, lanes := [{ lane := 31, addr := 0x1004 }] }
     let l : List LaneAcc := [{ lane := 31, addr := 0x1004, st := .done }]
     let s := meshed (.answer 0 0 (some 32) 5 1 1 l 6) fun s => { s with wrecs := [(6, r)], memOps := [(5, o)] }
     s.bad = [] ∧ NoneWait s 0 0 ∧ (∀ a ∈ l, a.st = .done) ∧ Map.find s.mesh 9 = some (.answer 0 0 (some 32) 5 1 1 l 6) ∧
     Map.find s.wrecs 6 = some r ∧ Map.find s.memOps 5 = some o) := by
  unfold NoneWait
  decide +kernel

/-! ### Witnesses: control -/

theorem witness_BranchesGo :
    Meets { preds := [7] } (fun s c g => goodTargets s c g (takenLanes c g 7 1) (fun _ => targetOf c g (0x7FFFA : BitVec 19))) ∧
    Meets { preds := [7] } (fun s c g => (2 : BitVec 2) ≠ 3 ∧ goodTargets s c g c.lanes (fun _ => targetOf c g (0x3FFFE : BitVec 19))) ∧
    Meets {} (fun s c g => goodTargets s c g c.lanes (fun _ => targetOf c g (0x3FFFFE : BitVec 23))) ∧
    Meets { reads := [105], first := relOf 105 } (fun s c g => goodTargets s c g c.lanes (imageTarget 105 s c g)) := by
  refine ⟨meets seat (by decide +kernel) ?_, meets seat (by decide +kernel) ⟨by decide, ?_⟩, meets seat (by decide +kernel) ?_,
    meets seat (by decide +kernel) ?_⟩ <;> exact ⟨by decide +kernel, by decide +kernel⟩

/-- A grid that gives each thread's area room for one return address. -/
def depth1 (s : State) : State := { s with grids := Map.put s.grids 2 { s.gridAt 2 with packet := BitVec.ofNat 2048 (2 ^ 32) } }

/-- Full stacks. -/
def full : Thread → Thread := fun t => { t with rstack := [8, 8, 8, 16] }
/-- Lane 0 has an empty stack, lane 31 an entry in its area besides a full stack, the others one entry. -/
def mixed : Group → Group := fun g => { g with threads := g.threads.map fun e =>
  (e.1, if e.1 = 0 then e.2 else if e.1 = 31 then { e.2 with rstack := [0x80, 8, 8, 8], rsd := 1 } else { e.2 with rstack := [0x80] }) }

/-- Calls with room on the chip and in the area; one with neither; returns of every kind. -/
theorem witness_CallsReturn :
    Meets {} (fun s c g => goodTargets s c g c.lanes (fun _ => targetOf c g (0x7FFFFA : BitVec 23)) ∧ stacksHaveRoom s c g ∧
      ∀ l, c.lanes.getLsbD l = true → (g.thread l).rstack.length < 4) ∧
    Meets {} (fun s c g => goodTargets s c g c.lanes (fun _ => targetOf c g (0x7FFFFA : BitVec 23)) ∧ stacksHaveRoom s c g ∧
      ∃ l, c.lanes.getLsbD l = true ∧ 4 ≤ (g.thread l).rstack.length) ∧
    Meets { reads := [105], first := relOf 105 } (fun s c g => goodTargets s c g c.lanes (imageTarget 105 s c g) ∧ stacksHaveRoom s c g) ∧
    Meets {} (fun s c g => goodTargets s c g c.lanes (fun _ => targetOf c g (0x7FFFFA : BitVec 23)) ∧ c.lanes.getLsbD 31 = true ∧
      4 ≤ (g.thread 31).rstack.length ∧ (s.gridAt g.grid).depth ≤ (g.thread 31).rsd) ∧
    Meets {} (fun s c g => (∀ l, (returning c g).getLsbD l = true → (g.thread l).rstack.head? = some 0x80) ∧
      targetFault s g (returning c g) (fun _ => 0x80) = none ∧ strayFault s g (returning c g) (fun _ => 0x80) = none ∧
      (returning c g).getLsbD 1 = true ∧ (g.thread 1).rsd = 0 ∧ (returning c g).getLsbD 31 = true ∧ (g.thread 31).rsd ≠ 0 ∧
      c.lanes.getLsbD 0 = true ∧ (g.thread 0).rstack = []) ∧
    Poised {} := by
  refine ⟨meets (seat (threads fun t => { t with rstack := [8, 8, 8] })) (by decide +kernel)
      ⟨⟨by decide +kernel, by decide +kernel⟩, fun l hl => .inl ?_, fun l hl => ?_⟩,
    meets (seat (threads full) depth1) (by decide +kernel) ⟨⟨by decide +kernel, by decide +kernel⟩, fun l hl => .inr ?_, 31, by decide +kernel, by decide +kernel⟩,
    meets (seat (threads id)) (by decide +kernel) ⟨⟨by decide +kernel, by decide +kernel⟩, fun l hl => .inl ?_⟩,
    meets (seat (threads full)) (by decide +kernel) ⟨⟨by decide +kernel, by decide +kernel⟩, by decide +kernel, by decide +kernel, by decide +kernel⟩,
    meets (seat mixed) (by decide +kernel) ⟨fun l hl => ?_, by decide +kernel, by decide +kernel, by decide +kernel, by decide +kernel, by decide +kernel,
      by decide +kernel, by decide +kernel, by decide +kernel⟩,
    poised_seat (by decide +kernel)⟩
  · exact inLanes (fun l => decide ((((seat (threads fun t => { t with rstack := [8, 8, 8] })).groupAt 1).thread l).rstack.length < 4))
      (fun _ => of_decide_eq_true) (by decide +kernel) l hl
  · exact inLanes (fun l => decide ((((seat (threads fun t => { t with rstack := [8, 8, 8] })).groupAt 1).thread l).rstack.length < 4))
      (fun _ => of_decide_eq_true) (by decide +kernel) l hl
  · exact inLanes (fun l => decide ((((seat (threads full) depth1).groupAt 1).thread l).rsd < ((seat (threads full) depth1).gridAt 2).depth))
      (fun _ => of_decide_eq_true) (by decide +kernel) l hl
  · exact inLanes (fun l => decide ((((seat (threads id)).groupAt 1).thread l).rstack.length < 4)) (fun _ => of_decide_eq_true) (by decide +kernel) l hl
  · have h := inLanes (m := returning (path (seat mixed)) ((seat mixed).groupAt 1)) (p := fun l => (returning (path (seat mixed)) ((seat mixed).groupAt 1)).getLsbD l = true →
        (((seat mixed).groupAt 1).thread l).rstack.head? = some 0x80)
      (fun l => !(returning (path (seat mixed)) ((seat mixed).groupAt 1)).getLsbD l || decide ((((seat mixed).groupAt 1).thread l).rstack.head? = some 0x80))
      (fun l h k => by rw [k] at h; exact of_decide_eq_true h) (by decide +kernel)
    exact h l hl hl

/-- Every lane has opened one join set over the whole group; lanes from 16 on wait at the JOIN at 8, or are on their way. -/
def joined (wait : Bool) : Group → Group := fun g => { g with threads := g.threads.map fun e =>
  (e.1, { e.2 with join := [(0xFFFFFFFF, 1)], park := if wait && decide (16 ≤ e.1) then .join 8 0 0 else .none }) }

/-- What presentAt says where all lanes have the set's entry. -/
theorem present_of {c : Issue} {g : Group} {top : Lanes × Nat}
    (h : (List.range 32).all (fun m => decide ((g.thread m).join.head? = some top) &&
      (c.lanes.getLsbD m || decide ((g.thread m).park = .join (c.head g).pc 0 0))) = true) : ∀ m, top.1.getLsbD m = true → presentAt c g top m := by
  refine inLanes _ (fun m hm => ?_) h
  simp only [Bool.and_eq_true, Bool.or_eq_true, decide_eq_true_eq] at hm
  cases e : c.lanes.getLsbD m
  · exact .inr (.inr (.inl ⟨e, hm.1, 0, 0, hm.2.resolve_left (by simp [e])⟩))
  · exact .inr (.inl ⟨e, hm.1⟩)

/-- Also a JOIN by half of a set whose other half is on its way, and one by the half that it still waits for. -/
theorem witness_PathsWait :
    Meets {} (fun s c g => fallFault s c g = none) ∧ Meets {} (fun s c g => nextInSegment s c g) ∧
    Meets {} (fun s c g => nextInSegment s c g ∧ c.lanes.getLsbD 0 = true ∧ (g.thread 0).join.head? = some (0xFFFFFFFF, 1) ∧
      c.lanes.getLsbD 31 = false ∧ (g.thread 31).live = true ∧ (g.thread 31).park = .none ∧ (0xFFFFFFFF, 1) ∈ (g.thread 31).join) ∧
    Meets {} (fun s c g => nextInSegment s c g ∧ c.lanes.getLsbD 0 = true ∧ (g.thread 0).join.head? = some (0xFFFFFFFF, 1) ∧ g.set ≠ .halted ∧
      (∀ m, (0xFFFFFFFF : Lanes).getLsbD m = true → presentAt c g (0xFFFFFFFF, 1) m) ∧
      c.lanes.getLsbD 31 = false ∧ (g.thread 31).join.head? = some (0xFFFFFFFF, 1) ∧ (g.thread 31).park = .join (c.head g).pc 0 0) ∧
    Meets {} (fun s c g => fallFault s c g = none ∧ g.set ≠ .active) ∧
    Meets { preds := [7], scalars := [15] } (fun s c g => s.inTravel g = false ∧ g.latch = none ∧ (c.view g).scalar 15 ≠ 0 ∧
      targetFault s g (takenLanes c g 7 0) (fun _ => targetOf c g (0x7FFFA : BitVec 19)) = none) ∧
    Meets { reads := [103], scalars := [63] } (fun s c g => (103 : BitVec 7) ≠ 104 ∧ s.inTravel g = false ∧ g.latch = none ∧
      (c.view g).scalar 63 ≠ 0) := by
  refine ⟨meets seat (by decide +kernel) (by decide +kernel), meets seat (by decide +kernel) ?_,
    meets (seat (joined false) id 0xFFFF) (by decide +kernel) ⟨?_, by decide +kernel⟩,
    meets (seat (joined true) id 0xFFFF) (by decide +kernel) ⟨?_, by decide +kernel, by decide +kernel, by decide +kernel, present_of (c := path (seat (joined true) id 0xFFFF)) (g := (seat (joined true) id 0xFFFF).groupAt 1) (top := (0xFFFFFFFF, 1)) (by decide +kernel),
      by decide +kernel, by decide +kernel, by decide +kernel⟩,
    meets (seat fun g => { g with set := .halted }) (by decide +kernel) (by decide +kernel),
    meets (seat (regs [(15, 1)] [] [(7, 0xFF)])) (by decide +kernel) ⟨by decide +kernel, by decide +kernel, by decide +kernel, by decide +kernel⟩,
    meets (seat (regs [(63, 1)])) (by decide +kernel) ⟨by decide, by decide +kernel, by decide +kernel, by decide +kernel⟩⟩ <;>
  · unfold nextInSegment; decide +kernel

/-- A clause whose bytes are all held, and one at 128, of which the core holds none. -/
theorem witness_ClausesAndNops :
    Meets {} (fun s c g => g.pend = [] ∧ (s.coreAt (coreKey g.die g.core)).codeWord g.ctx (c.head g).clause = some 0x010000FF ∧
      (s.coreAt (coreKey g.die g.core)).codeWord g.ctx ((c.head g).clause + 4) = some 0 ∧ g.maskClear (BitVec.ofNat 32 0x010000FF) = true ∧
      (∃ e early, (s.coreAt (coreKey g.die g.core)).scan g.ctx (c.head g).clause = .done e early) ∧
      clauseFault s g (c.head g).clause (BitVec.ofNat 32 0x010000FF) ((s.coreAt (coreKey g.die g.core)).scan g.ctx (c.head g).clause) = none) ∧
    Meets {} (fun s c g => g.pend = [] ∧ (s.coreAt (coreKey g.die g.core)).scan g.ctx (c.head g).clause = .missing 128) ∧
    Meets {} (fun s _ g => s.inTravel g = false) :=
  ⟨meets (seat (threads fun t => { t with entered := false, pc := 0 })) (by decide +kernel)
      ⟨by decide +kernel, by decide +kernel, by decide +kernel, by decide +kernel, ⟨10, false, by decide +kernel⟩, by decide +kernel⟩,
    meets (seat (threads fun t => { t with entered := false, pc := 128, clause := 128 })) (by decide +kernel) ⟨by decide +kernel, by decide +kernel⟩,
    meets seat (by decide +kernel) (by decide +kernel)⟩
/-- The launch is a travelling-thread launch whose segment 63 holds the code. -/
def travels (s : State) : State :=
  { s with grids := Map.put s.grids 2 { s.gridAt 2 with packet := BitVec.ofNat 2048 (2 ^ 30), segs := [(63, { valid := true, base := 0, len := 4096 })] } }

theorem witness_TravelInstructions :
    Meets {} (fun s _ g => s.inTravel g = true) ∧ Meets { scalars := [63] } (fun s _ g => s.inTravel g = true) ∧
    Meets { scalars := if (1 : BitVec 4) = 1 then [3] else [] } (fun s c g =>
      (1 : BitVec 4).toNat ≤ 3 ∧ badPair 60 = false ∧ ((1 : BitVec 4) ≠ 1 → (3 : BitVec 6) = 0) ∧ s.inTravel g = true ∧
      ((1 : BitVec 4) = 1 → ((c.view g).scalar 3).toNat < 64 ∧ (Map.get (s.gridAt g.grid).segs {} ((c.view g).scalar 3).toNat).valid = true)) ∧
    Meets { scalars := if (3 : BitVec 4) = 1 then [0] else [] } (fun s _ g =>
      (3 : BitVec 4).toNat ≤ 3 ∧ badPair 60 = false ∧ ((3 : BitVec 4) ≠ 1 → (0 : BitVec 6) = 0) ∧ s.inTravel g = true) ∧
    Meets {} (fun s _ g => (2 : BitVec 4).toNat ≤ 2 ∧ s.inTravel g = true) :=
  ⟨meets (seat id travels) (by decide +kernel) (by decide +kernel), meets (seat id travels) (by decide +kernel) (by decide +kernel),
    meets (seat (regs [(3, 63)]) travels) (by decide +kernel) (by decide +kernel), meets (seat id travels) (by decide +kernel) (by decide +kernel),
    meets (seat id travels) (by decide +kernel) (by decide +kernel)⟩

/-! ### Witnesses: rings, barriers, witnesses -/

/-- Ring 7 of the team of seat. -/
def ring7 (r : Ring) (s : State) : State := { s with teams := Map.put s.teams 4 { s.teamAt 4 with rings := [(7, r)] } }

/-- The geometry of the manual's worked run of the rings (after R89): stages of 20 KiB, n = 2, a = 2; and 16 stages that fill the region. The
clauses on one ring: a full stage with and without the arrivals of the next round, an empty one that is filled and one that is not. -/
theorem witness_RingsAndBarriersWork_rings :
    Meets { scalars := [4, 5] } (fun s c g => s.inTravel g = false ∧ (Map.find s.teams g.team).isSome = true ∧
      ((c.view g).scalar 4).toNat % 128 = 0 ∧ ((c.view g).scalar 5).extractLsb' 16 16 ≠ 0 ∧ ((c.view g).scalar 5).extractLsb' 12 4 = 0 ∧
      ((c.view g).scalar 5).extractLsb' 4 4 = 0 ∧
      (let r := ringOf ((c.view g).scalar 4).toNat ((c.view g).scalar 5).toNat
       r.base + r.n * r.size ≤ (s.teamAt g.team).size) ∧ 7 < (s.teamAt g.team).nrings ∧ s.ringBusy g.team 7 = false) ∧
    (let s := seat (threads fun t => { t with stall := .rcfg 7 0 0x00A00101 })
     let m := maskOf (fun j => match ((s.groupAt 1).thread j).stall with
      | .rcfg r _ _ => ((s.groupAt 1).thread j).live && !s.ringBusy (s.groupAt 1).team r
      | _ => false)
     Map.find s.groups 1 = some (s.groupAt 1) ∧ (s.groupAt 1).set ≠ .halted ∧ (s.groupAt 1).saved = false ∧
     (Map.find s.teams (s.groupAt 1).team).isSome = true ∧ ((s.groupAt 1).thread 0).live = true ∧
     ((s.groupAt 1).thread 0).stall = .rcfg 7 0 0x00A00101 ∧ s.ringBusy (s.groupAt 1).team 7 = false ∧ 0 = lowLane m ∧ m ≠ 0) ∧
    Meets { scalars := [9] } (fun s _ g => usesRing 7 s g) ∧ Meets {} (fun s _ g => usesRing 7 s g) ∧
    (let r : Ring := { conf := true, n := 2, need := 2, stages := [(0, { full := true, count := 1 }), (1, { count := 0 })] }
     (r.stage 0).full = true ∧ (r.stage 0).count < r.need ∧ (r.stage 1).full = false ∧ (r.stage 1).count + 1 < r.need) ∧
    (let r : Ring := { conf := true, n := 2, need := 2, stages := [(0, { full := true, count := 2 }), (1, { count := 1 })] }
     (r.stage 0).full = true ∧ r.need ≤ (r.stage 0).count ∧ (r.stage 1).full = false ∧ r.need ≤ (r.stage 1).count + 1) := by
  refine ⟨meets (seat (regs [(4, 0), (5, 0x0400000F)])) (by decide +kernel) (by decide +kernel), by decide +kernel,
    meets (seat id (ring7 { conf := true })) (by decide +kernel) ?_, meets (seat id (ring7 { conf := true })) (by decide +kernel) ?_,
    by decide, by decide⟩ <;> exact ⟨by decide +kernel, by decide +kernel, by decide +kernel⟩

/-- The whole team arrives, or half of it. -/
theorem witness_RingsAndBarriersWork_barriers :
    Meets {} (fun s c g => s.inTravel g = false ∧ ownerListed s g false ∧ barrierDone (arrived s c g false (ownerOf s g false) 15) (s.covered false (ownerOf s g false)) = true) ∧
    Meets {} (fun s c g => s.inTravel g = false ∧ ownerListed s g true ∧ barrierDone (arrived s c g true (ownerOf s g true) 3) (s.covered true (ownerOf s g true)) = false) := by
  refine ⟨meets seat (by decide +kernel) ⟨by decide +kernel, ?_, by decide +kernel⟩,
    meets (seat id id 0xFFFF) (by decide +kernel) ⟨by decide +kernel, ?_, by decide +kernel⟩⟩ <;>
    · unfold ownerListed; decide +kernel

/-- Two points of home 4, with counts 0x20 and 0x21, of the current incarnation 0: high word form 01 and home 4. -/
def early : Wit := pointWit 0 0 4 0x20
def later : Wit := pointWit 0 0 4 0x21

/-- Scalars s16 to s19 hold the two points, s20 and s21 nothing. -/
def points : Group → Group := regs [(16, early.extractLsb' 0 32), (17, early.extractLsb' 32 32), (18, later.extractLsb' 0 32), (19, later.extractLsb' 32 32)]

theorem witness_WitnessInstructions :
    Meets ((({ preds := [0], dests := witCodes 47 } : Opnds).presentIn 0xFFFFFFFF 56).presentIn 0xFFFFFFFF 57) (fun s c g =>
      guardLanes c g 0 = 0xFFFFFFFF ∧ ∀ l, (guardLanes c g 0).getLsbD l = true → mergeSet g.die g.core (s.die g.die).inc [witOf 56 c g l, witOf 57 c g l] = .wit later) ∧
    Meets (({ preds := [0] } : Opnds).presentIn 0xFFFFFFFF 56) (fun s c g => guardLanes c g 0 = 0xFFFFFFFF ∧
      mergeSet g.die g.core (s.die g.die).inc ((lanesOf (guardLanes c g 0)).map (witOf 56 c g)) = .wit early) ∧
    Meets { dests := witCodes 47 } (fun s _ g => 0 < s.freeTickets (coreKey g.die g.core)) ∧
    Meets (pairOperands 56) (fun _ c g => presentable 56 c g) ∧ Meets (pairOperands 58) (fun s c g => presentable 58 c g ∧
      s.satisfied g.die g.core (witOf 58 c g 0) = true) ∧
    (let s := seat (threads fun t => { t with park := .witness 0 5 })
     Map.find s.groups 1 = some (s.groupAt 1) ∧ (s.groupAt 1).set ≠ .halted ∧ (s.groupAt 1).saved = false ∧
     (Map.find (s.groupAt 1).threads 31).isSome = true ∧ ((s.groupAt 1).thread 31).park = .witness 0 5 ∧ s.setSatisfied (s.groupAt 1) 5 = true) ∧
    (let x : Ticket := { reqs := [.count 4 0] }
     let s := seat id fun s => { s with cores := Map.put s.cores 191 { s.coreAt 191 with tickets := [(1, x)], ticketNext := 2 } }
     Map.find (s.coreAt 191).tickets ((s.coreAt 191).settled + 1) = some x ∧ s.ticketReady (191 / 24) (191 % 24) x = true) := by
  refine ⟨meets (seat points) (by decide +kernel) ⟨by decide +kernel, fun l hl => ?_⟩,
    meets (seat points) (by decide +kernel) ⟨by decide +kernel, by decide +kernel⟩,
    meets seat (by decide +kernel) (by decide +kernel), meets (seat points) (by decide +kernel) ?_, meets (seat points) (by decide +kernel) ⟨?_, by decide +kernel⟩,
    by decide +kernel, by decide +kernel⟩
  · have h : ∀ l, l < 32 → mergeSet ((seat points).groupAt 1).die ((seat points).groupAt 1).core ((seat points).die ((seat points).groupAt 1).die).inc
        [witOf 56 (path (seat points)) ((seat points).groupAt 1) l, witOf 57 (path (seat points)) ((seat points).groupAt 1) l] = .wit later := by
      decide +kernel
    exact h l (BitVec.lt_of_getLsbD hl)
  · unfold presentable; decide +kernel
  · unfold presentable; decide +kernel

/-- A point of another home, one of the core's own home, a frontier, a point and a frontier of another incarnation, the empty witness, and
announcements that two windows have passed over. -/
theorem witness_SatisfactionRule :
    (witForm later = 1 ∧ witInc later = (State.reset.die 0).inc % 16 ∧ pointHome later ≠ coreHome 23) ∧
    (witForm (pointWit 0 0 (coreHome 23) 9) = 1 ∧ pointHome (pointWit 0 0 (coreHome 23) 9) = coreHome 23) ∧
    (witForm (frontierWit 0 0 23 9) = 2 ∧ witInc (frontierWit 0 0 23 9) = (State.reset.die 0).inc % 16) ∧
    (witForm (pointWit 0 1 4 9) = 1 ∧ witInc (pointWit 0 1 4 9) ≠ (State.reset.die 0).inc % 16) ∧
    (witForm (frontierWit 0 1 4 9) = 2 ∧ witInc (frontierWit 0 1 4 9) ≠ (State.reset.die 0).inc % 16) ∧ ((0 : Wit) = 0 ∧ witForm (tokenWit 0 9) = 3) ∧
    (let s : State := { State.reset with dies := [(7, { clock := 64, snaps := [(0, [(3, 4)])] })] }
     (s.die 7).snaps.find? (fun e => decide (e.1 + 2 = (s.die 7).clock / 32)) = some (0, [(3, 4)])) := by
  decide +kernel

/-! ### Witnesses: the matrix unit -/

/-- MmaMay as one computation, the follower given. -/
def mayMma (s : State) (c : Issue) (g : Group) (x : MmaArgs) : Bool :=
  !s.inTravel g && decide (g.role = .unified ∨ g.role = .matrix) && decide (x.ab < 6 ∧ (x.sc = true → x.ab < 5)) &&
  decide (x.tile < (s.teamAt g.team).tiles) && (match g.latch with
    | some l => decide (l.base = 16 * x.ab ∧ (x.sc = true → l.scales.isSome = true))
    | none => true) &&
  (!x.yoke || (match s.follower g with
    | some f => decide (f ≠ g.team)
    | none => false)) &&
  (s.localTeam g (mmaBase x c g) (mmaBytes (mmaClass s g x) x.sc)).isSome && decide (mmaBase x c g % 128 = 0) && decide (mmaFormat s g x = none) &&
  decide (mmaStall s c g x (mmaBytes (mmaClass s g x) x.sc) = none) && decide (s.bad = [])

theorem of_mayMma {s : State} {c : Issue} {g : Group} {x : MmaArgs} (h : mayMma s c g x = true) : MmaMay s c g x := by
  simp only [mayMma, Bool.and_eq_true, Bool.or_eq_true, decide_eq_true_eq, Bool.not_eq_true'] at h
  obtain ⟨⟨⟨⟨⟨⟨⟨⟨⟨⟨h1, h2⟩, h3⟩, h4⟩, h5⟩, h6⟩, h7⟩, h8⟩, h9⟩, h10⟩, h11⟩ := h
  refine ⟨h1, h2, h3, h4, fun l e => ?_, fun e => ?_, h7, h8, h9, h10, h11⟩
  · rw [e] at h5; exact of_decide_eq_true h5
  · rcases h6 with h6 | h6
    · rw [e] at h6; cases h6
    · cases hf : s.follower g with
      | none => rw [hf] at h6; cases h6
      | some f => rw [hf] at h6; exact ⟨f, rfl, of_decide_eq_true h6⟩

theorem meetsMma {x : MmaArgs} (s : State) (h : poised s (path s) (s.groupAt 1) (mmaOperands x (s.groupAt 1)) = true)
    (hm : mayMma s (path s) (s.groupAt 1) x = true) : ∃ s c g, Stands s c g ∧ Clear s c g (mmaOperands x g) ∧ MmaMay s c g x :=
  ⟨s, path s, s.groupAt 1, (of_poised h).1, (of_poised h).2, of_mayMma hm⟩

/-- A scaled, yoked MMA of the last tile and the last scaled block, one of nibbles with the latch held, and one of each 16-bit class. -/
theorem witness_MatrixAccumulates :
    (∃ s c g, Stands s c g ∧ Clear s c g (mmaOperands { tile := 63, sb := 31, wide := none, fdA := 7, fdB := 7, sc := true, yoke := true, keep := true, ab := 4 } g) ∧
      MmaMay s c g { tile := 63, sb := 31, wide := none, fdA := 7, fdB := 7, sc := true, yoke := true, keep := true, ab := 4 }) ∧
    (∃ s c g, Stands s c g ∧ Clear s c g (mmaOperands { tile := 0, sb := 3, wide := none, fdA := 7, fdB := 7, yoke := false, keep := false, ab := 5 } g) ∧
      MmaMay s c g { tile := 0, sb := 3, wide := none, fdA := 7, fdB := 7, yoke := false, keep := false, ab := 5 }) ∧
    (∃ s c g, Stands s c g ∧ Clear s c g (mmaOperands { tile := 63, sb := 3, wide := some .f16, yoke := true, keep := true, ab := 5 } g) ∧
      MmaMay s c g { tile := 63, sb := 3, wide := some .f16, yoke := true, keep := true, ab := 5 }) ∧
    (∃ s c g, Stands s c g ∧ Clear s c g (mmaOperands { tile := 63, sb := 3, wide := some .bf16, yoke := false, keep := false, ab := 0 } g) ∧
      MmaMay s c g { tile := 63, sb := 3, wide := some .bf16, yoke := false, keep := false, ab := 0 }) ∧
    (let y : YokeRun := { g := 1, ins := {}, due := 10, team := 5, tile := 63, b := 0, cls := .f16, fdA := 0, fdB := 0, a := [], scales := none }
     let s := pair 0 (seat id fun s => s.modCore 1 fun c => { c with yokes := [y] })
     (s.coreAt 1).yokes = [y] ∧ s.bad = [] ∧ (Map.find s.groups y.g).isSome = true) :=
  ⟨meetsMma (seat (regs [(31, 0x1FE000)]) (pair 0x18C1E100)) (by decide +kernel) (by decide +kernel),
    meetsMma (seat (fun g => { g with latch := some { base := 80, a := [], scales := none } }) (fd7 0x14404140)) (by decide +kernel) (by decide +kernel),
    meetsMma (seat id (pair 0)) (by decide +kernel) (by decide +kernel), meetsMma seat (by decide +kernel) (by decide +kernel), by decide +kernel⟩

/-- All 64 rows at the last address that they fit, and 32 slices from slice 224 on. -/
theorem witness_TilesMove :
    Meets { scalars := [3], dests := [31] } (fun s c g => s.bad = [] ∧ hasTile s g 63 ∧ sliceIndex c g 3 (31 : BitVec 5) ≤ 255) ∧
    Meets { scalars := [3], reads := [31], first := [31] } (fun s c g => hasTile s g 63 ∧ sliceIndex c g 3 (31 : BitVec 5) ≤ 255) ∧
    Meets {} (fun s _ g => hasTile s g 63) ∧
    Meets { scalars := [6, 7] } (fun s c g => hasTile s g 63 ∧ movesRows c g 7 0 64 ∧ TileRange s c g 6 0x1F8000 (512 * 64) 16 false) ∧
    Meets { scalars := [6, 7] } (fun s c g => hasTile s g 63 ∧ movesRows c g 7 0 64 ∧ TileRange s c g 6 0x1F8000 (512 * 64) 16 true ∧
      s.homeRoom g.die (coreHome g.core) (4 * 64 + 1) = true) ∧
    Meets { scalars := [6, 7] } (fun s c g => hasTile s g 63 ∧ epiScalar ((c.view g).scalar 7) = some (scaleByte 0, 224, 32) ∧
      descValid (s.fd g 7) = true ∧ TileRange s c g 6 0x1FFC00 (32 * 32) 32 true ∧ s.homeRoom g.die (coreHome g.core) 32 = true) := by
  refine ⟨meets (seat (regs [(3, 224)])) (by decide +kernel) ⟨rfl, ⟨by decide +kernel, by decide +kernel⟩, by decide +kernel⟩,
    meets (seat (regs [(3, 224)])) (by decide +kernel) ⟨⟨by decide +kernel, by decide +kernel⟩, by decide +kernel⟩,
    meets seat (by decide +kernel) ⟨by decide +kernel, by decide +kernel⟩,
    meets (seat (regs [(6, 0x1F8000), (7, 0x3F00)])) (by decide +kernel) ⟨⟨by decide +kernel, by decide +kernel⟩, ?_,
      by decide +kernel, by decide +kernel, by decide +kernel, by decide +kernel, rfl⟩,
    meets (seat (regs [(6, 0x1F8000), (7, 0x3F00)])) (by decide +kernel) ⟨⟨by decide +kernel, by decide +kernel⟩, ?_,
      ⟨by decide +kernel, by decide +kernel, by decide +kernel, by decide +kernel, rfl⟩, by decide +kernel⟩,
    meets (seat (regs [(6, 0x1FFC00), (7, 0x1FE000)]) (fd7 0x18C1E100)) (by decide +kernel)
      ⟨⟨by decide +kernel, by decide +kernel⟩, by decide +kernel, by decide +kernel, ⟨by decide +kernel, by decide +kernel, by decide +kernel, by decide +kernel, rfl⟩,
        by decide +kernel⟩⟩
  · unfold movesRows; decide +kernel
  · unfold movesRows; decide +kernel

/-! ### Witnesses: copies and base-die commands -/

/-- The rank-1 shape out512 of the manual's program (18_programs_queues): 128 elements of 4 bytes; and a rank-2 one of them. -/
def row512 : BitVec 128 := 0x0001008000800800
def rows512 : BitVec 128 := 0x0001008000804800

/-- CopyMay as one computation. -/
def mayCopy (s : State) (c : Issue) (g : Group) (f : BitVec 1) (k : Nat) (w : BitVec 6) (entry : Bool) : Bool :=
  decide (g.role = .unified ∨ g.role = .copy) && decide (slotFlag (c.head g) (f = 1) = some k ∧ g.flagOf k < 63) && decide (48 ≤ w.toNat) &&
  decide (presentFault g.die false (laneBit (lowLane c.lanes)) (fun l => (c.view g).wit w.toNat l) = none) && decide (copyStall s g entry = none)

theorem of_mayCopy {s : State} {c : Issue} {g : Group} {f : BitVec 1} {k : Nat} {w : BitVec 6} {entry : Bool}
    (h : mayCopy s c g f k w entry = true) : CopyMay s c g f k w entry := by
  simp only [mayCopy, Bool.and_eq_true, decide_eq_true_eq] at h
  obtain ⟨⟨⟨⟨h1, h2⟩, h3⟩, h4⟩, h5⟩ := h
  exact ⟨h1, h2, h3, h4, h5⟩

/-- Two commands of the group on flag 11, of which the first has its turn in this clock. -/
def two (s : State) : State :=
  let x : Cmd := { kind := .cpy, g := 1, die := 0, core := 0, ctx := 0, team := 4, grid := 2, slot := 0, flag := 11 }
  { s with cmds := [(8, x), (9, x)], pending := [⟨0, 0, .copyRetire 8⟩] }

/-- A CPY of scratchpad that names no ring, to the last 512 bytes of the partition, counting on flag 1; a CPY to the last stage of ring 7; a
GATH and an RDCE of the most rows that fit; a CONV to FP32; a FILLZ. -/
theorem witness_CopiesIssue :
    Meets (copyOperands 2 2 [4] row512 62) (fun s c g => CopyMay s c g 1 1 62 true ∧ goodShape s g (copyShape row512 c g) ∧
      pairAddr (c.view g) 2 = some 0x100000004 ∧ hbmAlign (copyShape row512 c g) 0x100000004 = none ∧
      dieAlign (copyShape row512 c g) (boxBase s g 0 0 ((c.view g).scalar 4).toNat) = none ∧
      dieRange s g .scratch (boxBase s g 0 0 ((c.view g).scalar 4).toNat) 512 = none) ∧
    Meets (copyOperands 2 2 [4] row512 63) (fun s c g => CopyMay s c g 0 0 63 true ∧ goodShape s g (copyShape row512 c g) ∧
      pairAddr (c.view g) 2 = some 4 ∧ hbmAlign (copyShape row512 c g) 4 = none ∧
      dieAlign (copyShape row512 c g) (boxBase s g 1 7 ((c.view g).scalar 4).toNat) = none ∧ s.inTravel g = false ∧
      dieRange s g .team (boxBase s g 1 7 ((c.view g).scalar 4).toNat) 512 = none ∧ 7 < (s.teamAt g.team).nrings ∧
      (s.ringAt g.team 7).conf = true ∧ ((c.view g).scalar 4).toNat % 16 < (s.ringAt g.team 7).n ∧
      ((c.view g).scalar 4).toNat / 16 * 16 + 512 ≤ (s.ringAt g.team 7).size) ∧
    Meets (copyOperands 4 4 [8] rows512 63) (fun s c g => CopyMay s c g 0 0 63 true ∧
      (let sh : Shape := { copyShape rows512 c g with e1 := 1, e2 := 1, e3 := 1 }
       goodShape s g sh ∧ sh.rank = 2 ∧ ((c.view g).scalar 7).toNat ≤ 65536 ∧ ((c.view g).scalar 7).toNat ≠ 0 ∧ sh.narrow = false ∧ (sh.elem = 1 ∨ sh.elem = 2) ∧
       pairAddr (c.view g) 4 = some 0 ∧ hbmAlign sh 0 = none ∧ dieAlign sh ((c.view g).scalar 8).toNat = none ∧
       ((c.view g).scalar 6).toNat % 4 = 0 ∧ s.inTravel g = false ∧
       dieRange s g .team ((c.view g).scalar 8).toNat (sh.pitch (sh.elemOf (fdOf s g sh)) * ((c.view g).scalar 7).toNat) = none ∧
       dieRange s g .team ((c.view g).scalar 6).toNat (4 * ((c.view g).scalar 7).toNat) = none)) ∧
    Meets (copyOperands 4 4 [8] rows512 63) (fun s c g => CopyMay s c g 0 0 63 true ∧
      (let sh : Shape := { copyShape rows512 c g with e1 := 1, e2 := 1, e3 := 1 }
       goodShape s g sh ∧ sh.rank = 2 ∧ (c.view g).scalar 7 = 0 ∧ sh.narrow = false ∧ (sh.elem = 1 ∨ sh.elem = 2) ∧
       pairAddr (c.view g) 4 = some 0 ∧ hbmAlign sh 0 = none ∧ dieAlign sh ((c.view g).scalar 8).toNat = none ∧
       ((c.view g).scalar 6).toNat % 4 = 0 ∧ s.inTravel g = false ∧ dieRange s g .team ((c.view g).scalar 8).toNat 0 = none ∧
       dieRange s g .team ((c.view g).scalar 6).toNat 0 = none)) ∧
    Meets (copyOperands 0 6 [8] row512 63) (fun s c g => CopyMay s c g 0 0 63 false ∧
      (let sh := copyShape row512 c g
       let x := (c.view g).scalar 8
       sh.illegal true = false ∧ pairAddr (c.view g) 0 = some 0 ∧ pairAddr (c.view g) 2 = some 0 ∧ pairAddr (c.view g) 4 = some 0 ∧ sh.e0 ≠ 0 ∧
       x.toNat / 2 ^ 13 = 0 ∧ x.toNat / 32 % 8 = 0 ∧ convFmt (x.toNat / 256 % 32) = .narrow 7 true ∧ convFmt (x.toNat % 32) = .wide fp32 ∧
       convAlign (.narrow 7 true) 0 = none ∧ convAlign (.wide fp32) 0 = none ∧ sh.swizzle ≠ 1 ∧
       descValid (s.fd g (x.toNat / 2 ^ (if x.toNat / 256 % 32 < 8 then 0 else 8) % 8)) = true)) ∧
    Meets (copyOperands 60 3 [] row512 63) (fun s c g => CopyMay s c g 0 0 63 false ∧ goodShape s g (copyShape row512 c g) ∧
      (60 : BitVec 6).toNat + 3 ≤ 63 ∧ pairAddr (c.view g) 60 = some 0 ∧ hbmAlign (copyShape row512 c g) 0 = none ∧ (copyShape row512 c g).swizzle ≠ 1) ∧
    Meets {} (fun s c g => (11 : BitVec 4).toNat < 12 ∧ (g.role = .unified ∨ g.role = .copy) ∧ (s.cmds.map (·.1)).Nodup ∧
      (∃ x, Map.find s.cmds 8 = some x ∧ x.g = c.g ∧ x.flag = 11 ∧ ∃ d ∈ s.pending, d.at_ ≤ s.now ∧ d.ev = .copyRetire 8) ∧
      (∃ x, Map.find s.cmds 9 = some x ∧ x.g = c.g ∧ x.flag = 11 ∧ ∀ d ∈ s.pending, d.ev ≠ .copyRetire 9)) := by
  have shape : ∀ s g sh, sh.illegal false = false → shapeLimits sh (sh.elemOf (fdOf s g sh)) = none → sh.narrow = false → goodShape s g sh :=
    fun s g sh h1 h2 h3 => ⟨h1, h2, fun h => by rw [h3] at h; cases h⟩
  refine ⟨meets (seat (regs [(2, 4), (3, 1), (4, 0xFFE00)])) (by decide +kernel)
      ⟨of_mayCopy (by decide +kernel), shape _ _ _ (by decide +kernel) (by decide +kernel) (by decide +kernel), by decide +kernel⟩,
    meets (seat (regs [(2, 4), (4, 15)]) (ring7 { conf := true, size := 512, n := 16 })) (by decide +kernel)
      ⟨of_mayCopy (by decide +kernel), shape _ _ _ (by decide +kernel) (by decide +kernel) (by decide +kernel), by decide +kernel⟩,
    meets (seat (regs [(6, 0x1FC000), (7, 4064)])) (by decide +kernel)
      ⟨of_mayCopy (by decide +kernel), shape _ _ _ (by decide +kernel) (by decide +kernel) (by decide +kernel), by decide +kernel⟩,
    meets seat (by decide +kernel)
      ⟨of_mayCopy (by decide +kernel), shape _ _ _ (by decide +kernel) (by decide +kernel) (by decide +kernel), by decide +kernel⟩,
    meets (seat (regs [(8, 0x1700)]) (fd7 0x18C1E100)) (by decide +kernel) ⟨of_mayCopy (by decide +kernel), by decide +kernel⟩,
    meets seat (by decide +kernel)
      ⟨of_mayCopy (by decide +kernel), shape _ _ _ (by decide +kernel) (by decide +kernel) (by decide +kernel), by decide +kernel⟩,
    meets (seat id two) (by decide +kernel) ⟨by decide, by decide +kernel, by decide +kernel,
      ⟨_, rfl, rfl, rfl, _, List.mem_singleton.2 rfl, by decide +kernel, rfl⟩, ⟨_, rfl, rfl, rfl, by decide +kernel⟩⟩⟩

/-- A command of one 4-byte element, number 9, at virtual address 4 of page 0, which the core's TLB holds with permissions p. -/
def oneCopy (kind : CmdKind) (p : List (BitVec 64)) (h : Cmd → Cmd := id) : State :=
  seat id fun s => { s with
    cmds := [(9, h { kind := kind, g := 1, die := 0, core := 0, ctx := 0, team := 4, grid := 2, slot := 0, flag := 0
                     shape := [0x0800, 1, 1, 1, 0, 0, 0, 0], va := 4, base := 8, pattern := 0x01020304 })]
    cores := Map.put s.cores 0 { s.coreAt 0 with tlb := p.map fun x => { ctx := 0, base := 0, size := 65536, pte := x } } }

/-- OneElement for the command of oneCopy. -/
theorem one_of (kind : CmdKind) (p : List (BitVec 64)) (x : Cmd) (h1 : Map.find (oneCopy kind p).cmds 9 = some x)
    (h2 : (decide (x.kind = kind) && (oneCopy kind p).ctxRuns x.die x.ctx && decide (x.stage = .queued ∧ x.pos = 0 ∧ x.counts = [] ∧ x.block = none ∧ x.cancel = false) &&
      (oneCopy kind p).satisfied x.die x.core x.wit && (oneCopy kind p).cmdTurn 9 x && (oneCopy kind p).slicesClear x &&
      decide ((shapeOf x.shape).narrow = false ∧ (shapeOf x.shape).packed = false ∧ (shapeOf x.shape).elem < 5 ∧ 4 = 2 ^ (shapeOf x.shape).elem ∧
        (shapeOf x.shape).count = 1 ∧ (shapeOf x.shape).inBounds 0 0 = true ∧ (shapeOf x.shape).swizzle = 0) &&
      decide (x.va % 4 = 0 ∧ x.va < 2 ^ 48 ∧ x.base % 4 = 0) && (List.range 50).all (fun h => (oneCopy kind p).homeRoom x.die h 1) &&
      decide ((oneCopy kind p).bad = [])) = true) : OneElement (oneCopy kind p) 9 x kind 4 := by
  simp only [Bool.and_eq_true, decide_eq_true_eq] at h2
  obtain ⟨⟨⟨⟨⟨⟨⟨⟨⟨a, b⟩, c⟩, d⟩, d'⟩, d''⟩, e⟩, f⟩, g⟩, i⟩ := h2
  exact ⟨h1, a, b, c, d, d', d'', e, f, fun h hh => List.all_eq_true.1 g h (List.mem_range.2 hh), i⟩

def theCopy (s : State) : Cmd := (Map.find s.cmds 9).getD { kind := .cpy, g := 0, die := 0, core := 0, ctx := 0, team := 0, grid := 0, slot := 0, flag := 0 }

/-- Entries with bits 3 to 5, read, write and code, and with none; and no entry and no tables. -/
theorem witness_CopiesRetire :
    (OneElement (oneCopy .cpy [0x39]) 9 (theCopy (oneCopy .cpy [0x39])) .cpy 4 ∧
      ((oneCopy .cpy [0x39]).translate 0 0 0 4 .read).1 = .ok 4) ∧
    (OneElement (oneCopy .cpyo [0x39]) 9 (theCopy (oneCopy .cpyo [0x39])) .cpyo 4 ∧ ((oneCopy .cpyo [0x39]).translate 0 0 0 4 .write).1 = .ok 4) ∧
    (OneElement (oneCopy .fillz [0x39]) 9 (theCopy (oneCopy .fillz [0x39])) .fillz 4 ∧ ((oneCopy .fillz [0x39]).translate 0 0 0 4 .write).1 = .ok 4) ∧
    (OneElement (oneCopy .cpy []) 9 (theCopy (oneCopy .cpy [])) .cpy 4 ∧ ((oneCopy .cpy []).translate 0 0 0 4 .read).1 = .missing) ∧
    (OneElement (oneCopy .cpy [1]) 9 (theCopy (oneCopy .cpy [1])) .cpy 4 ∧ ((oneCopy .cpy [1]).translate 0 0 0 4 .read).1 = .prot) ∧
    (let s := oneCopy .cpy [] fun x => { x with stage := .suspended, faulted := some 4 }
     (theCopy s).stage = .suspended ∧ (s.groupAt 1).set = .active ∧ s.ctxHeld 0 0 = false) ∧
    (let s := oneCopy .cpy [] fun x => { x with stage := .stopped, faulted := some 4 }
     (theCopy s).stage = .stopped ∧ (theCopy s).faulted.isSome = true ∧ (s.groupAt 1).set = .active ∧ s.ctxHeld 0 0 = false) ∧
    (let s := { oneCopy .cpy [] (fun x => { x with stage := .written, counts := [(49, 0)], wp := 62 }) with
        groups := Map.put seat.groups 1 ((seat.groupAt 1).owe 9 [scalarNo 28, scalarNo 29] 0xFFFFFFFF) }
     s.ctxRuns 0 0 = true ∧ (theCopy s).stage = .written ∧ (theCopy s).counts = [(49, 0)] ∧ 0 ≤ (s.die 0).visibleOf 49 ∧ (theCopy s).ring = none ∧
     (theCopy s).flags = 0 ∧ s.inTravel (s.groupAt 1) = false ∧ (s.groupAt 1).landing 9 (scalarNo (2 * (62 - 48))) ≠ 0 ∧
     (s.groupAt 1).landing 9 (scalarNo (2 * (62 - 48) + 1)) ≠ 0) :=
  ⟨⟨one_of _ _ _ (by decide +kernel) (by decide +kernel), by decide +kernel⟩, ⟨one_of _ _ _ (by decide +kernel) (by decide +kernel), by decide +kernel⟩,
    ⟨one_of _ _ _ (by decide +kernel) (by decide +kernel), by decide +kernel⟩, ⟨one_of _ _ _ (by decide +kernel) (by decide +kernel), by decide +kernel⟩,
    ⟨one_of _ _ _ (by decide +kernel) (by decide +kernel), by decide +kernel⟩, by decide +kernel, by decide +kernel, by decide +kernel⟩

/-! ### Witnesses: queues -/

/-- The core holds entry e for handle 0, whose context has one multicast group of the members 100 and 101. -/
def handle0 (e : BitVec 64) (s : State) : State :=
  { s with cores := Map.put s.cores 0 { s.coreAt 0 with handles := [(0, e)] }
           contexts := [(0, { desc := BitVec.ofNat 512 (2 ^ 338 + 2 ^ 368), mcast := [(0, { mask := 3, members := [(0, 100), (1, 101)] })] })] }

/-- Every right on queue 100 of port 0 of die 0, with elements of 16 bytes; and the right to produce for multicast group 0. -/
def right100 : BitVec 64 := 0x0000070100000064
def right1K : BitVec 64 := 0x0000670100000064
def rightAll : BitVec 64 := 0x0000090100000000

theorem names {s : State} {g : Group} {x : Nat} {r : Right} {multi : Bool} {e : BitVec 64}
    (h : (decide (s.entry g (x % 65536) = some e) && decide (handleFault s g x r multi = none)) = true) : Names s g x r multi e := by
  simp only [Bool.and_eq_true, decide_eq_true_eq] at h
  exact ⟨h.1, h.2⟩

/-- Reservations, elements of 32 lanes in the last four registers and of the group and of team memory at its end, a post, a post to a group, and
a QVOID of the last slot of a grant of 32. -/
theorem witness_QueueSends :
    Meets { scalars := [2] } (fun s c g => namesFlag c g 1 1 ∧ goodPair 60 ∧ Names s g ((c.view g).scalar 2).toNat .produce false right100) ∧
    Meets (sendOperands 0 92 right100 [10, 10 + 1] [(scalarNo 10, 2)]) (fun s c g =>
      goodPair 10 ∧ Names s g (pairHandle (c.view g) 10) .produce false right100 ∧ goodSource s c g 0 92 right100 ∧
      0 + countLanes c.lanes ≤ pairSlots (c.view g) 10 ∧
      s.retainedBytes g.die (servingPort g.core) + bytesIn (sentElems s c g 0 92 right100) ≤ Config.retentionBytes) ∧
    Meets (sendOperands 1 88 right1K [10, 10 + 1] [(scalarNo 10, 2)]) (fun s c g =>
      goodPair 10 ∧ Names s g (pairHandle (c.view g) 10) .produce false right1K ∧ goodSource s c g 1 88 right1K ∧
      31 + 1 ≤ pairSlots (c.view g) 10 ∧
      s.retainedBytes g.die (servingPort g.core) + bytesIn (sentElems s c g 1 88 right1K) ≤ Config.retentionBytes) ∧
    Meets (sendOperands 2 4 right100 [10, 10 + 1] [(scalarNo 10, 2)]) (fun s c g =>
      goodPair 10 ∧ Names s g (pairHandle (c.view g) 10) .produce false right100 ∧ goodSource s c g 2 4 right100 ∧
      31 + 1 ≤ pairSlots (c.view g) 10 ∧
      s.retainedBytes g.die (servingPort g.core) + bytesIn (sentElems s c g 2 4 right100) ≤ Config.retentionBytes) ∧
    Meets (sendOperands 0 92 right100 [2] []) (fun s c g => Names s g ((c.view g).scalar 2).toNat .post ((0 : Nat) ≠ 0) right100 ∧
      goodSource s c g 0 92 right100 ∧ s.retainedBytes g.die (servingPort g.core) + bytesIn (sentElems s c g 0 92 right100) ≤ Config.retentionBytes) ∧
    Meets (sendOperands 2 4 rightAll [2] []) (fun s c g => Names s g ((c.view g).scalar 2).toNat .post ((2 : Nat) ≠ 0) rightAll ∧
      goodSource s c g 2 4 rightAll ∧ (s.members g rightAll).length = 2 ∧
      s.retainedBytes g.die (servingPort g.core) + 2 * bytesIn (sentElems s c g 2 4 rightAll) ≤ Config.retentionBytes) ∧
    Meets { scalars := [10, 10 + 1, 4], bases := [(scalarNo 10, 2)] } (fun s c g =>
      goodPair 10 ∧ Names s g (pairHandle (c.view g) 10) .produce false right100 ∧ ((c.view g).scalar 4).toNat / 2 ^ 13 = 0 ∧
      ((c.view g).scalar 4).toNat / 32 % 8 = 0 ∧
      ((c.view g).scalar 4).toNat % 32 + (((c.view g).scalar 4).toNat / 256 % 32 + 1) ≤ pairSlots (c.view g) 10) := by
  have pair : ∀ d : BitVec 6, d = 10 ∨ d = 60 → goodPair d := fun d h => by rcases h with rfl | rfl <;> exact ⟨by decide, by decide⟩
  refine ⟨meets (seat id (handle0 right100)) (by decide +kernel) ⟨?_, pair _ (.inr rfl), names (by decide +kernel)⟩,
    meets (seat (regs [(11, 0x2000)]) (handle0 right100)) (by decide +kernel)
      ⟨pair _ (.inl rfl), names (by decide +kernel), ⟨fun _ => by decide +kernel, fun h => nomatch h⟩, by decide +kernel, by decide +kernel⟩,
    meets (seat (regs [(11, 0x2000)]) (handle0 right1K)) (by decide +kernel)
      ⟨pair _ (.inl rfl), names (by decide +kernel), ⟨fun _ => by decide +kernel, fun h => nomatch h⟩, by decide +kernel, by decide +kernel⟩,
    meets (seat (regs [(4, 0x1FFFF0), (11, 0x2000)]) (handle0 right100)) (by decide +kernel)
      ⟨pair _ (.inl rfl), names (by decide +kernel), ⟨fun h => absurd h (by decide), fun _ => by decide +kernel⟩, by decide +kernel, by decide +kernel⟩,
    meets (seat id (handle0 right100)) (by decide +kernel)
      ⟨names (by decide +kernel), ⟨fun _ => by decide +kernel, fun h => nomatch h⟩, by decide +kernel⟩,
    meets (seat (regs [(4, 0x1FFFF0)]) (handle0 rightAll)) (by decide +kernel)
      ⟨names (by decide +kernel), ⟨fun h => absurd h (by decide), fun _ => by decide +kernel⟩, by decide +kernel, by decide +kernel⟩,
    meets (seat (regs [(4, 31), (11, 0x2000)]) (handle0 right100)) (by decide +kernel)
      ⟨pair _ (.inl rfl), names (by decide +kernel), by decide +kernel, by decide +kernel, by decide +kernel⟩⟩
  unfold namesFlag; decide +kernel

/-- A claim for every lane, one with a token, one into team memory, a QWAIT with and without a count, a QFLUSH, and the last selector. -/
theorem witness_QueueTakes :
    Meets (deqOperands 0 92 2 15 right100) (fun s c g => namesFlag c g 1 1 ∧ Names s g ((c.view g).scalar 2).toNat .consume false right100 ∧
      deqToken (deqTok 15 c g) (entQid right100) = none ∧ queueBlock 0 (eszBytes (entEsz right100)) 92 = true) ∧
    Meets (deqOperands 1 88 2 14 right1K) (fun s c g => namesFlag c g 0 0 ∧ Names s g ((c.view g).scalar 2).toNat .consume false right1K ∧
      deqTok 14 c g ≠ 0 ∧ deqToken (deqTok 14 c g) (entQid right1K) = none ∧ queueBlock 1 (eszBytes (entEsz right1K)) 88 = true ∧
      sleeperStall s g (entQid right1K) = none) ∧
    Meets (deqOperands 2 4 2 15 right100) (fun s c g => namesFlag c g 0 0 ∧ Names s g ((c.view g).scalar 2).toNat .consume false right100 ∧
      deqToken (deqTok 15 c g) (entQid right100) = none ∧ s.inTravel g = false ∧
      elemAddrFault s g ((c.view g).scalar (4 % 64)).toNat (eszBytes (entEsz right100)) = none ∧
      rangeStall s g .team ((s.localTeam g ((c.view g).scalar (4 % 64)).toNat (eszBytes (entEsz right100))).getD 0) (eszBytes (entEsz right100)) true = none) ∧
    Meets { scalars := [2, 4] } (fun s c g => Names s g ((c.view g).scalar 2).toNat .consume false right100 ∧
      ((c.view g).scalar 4).toNat ≠ 0 ∧ sleeperStall s g (entQid right100) = none) ∧
    Meets { scalars := [2] } (fun s c g => namesFlag c g 1 1 ∧ goodPair 60 ∧ Names s g ((c.view g).scalar 2).toNat .post true rightAll ∧ ∀ x ∈ s.retained, x.2.g ≠ c.g) ∧
    Meets { scalars := [2, 4] } (fun s c g => namesFlag c g 1 1 ∧ goodPair 60 ∧ Names s g ((c.view g).scalar 2).toNat .any false right100 ∧
      statSelector ((c.view g).scalar 4).toNat = true) := by
  have t : tokenWit 100 5 = (0xC0000064 : Word) ++ (5 : Word) := by decide
  refine ⟨meets (seat id (handle0 right100)) (by decide +kernel) ⟨?_, names (by decide +kernel), by decide +kernel, by decide +kernel⟩,
    meets (seat (regs [(28, 5), (29, 0xC0000064)]) (handle0 right1K)) (by decide +kernel)
      ⟨?_, names (by decide +kernel), by decide +kernel, by decide +kernel, by decide +kernel, by decide +kernel⟩,
    meets (seat (regs [(4, 0x1FFFF0)]) (handle0 right100)) (by decide +kernel)
      ⟨?_, names (by decide +kernel), by decide +kernel, by decide +kernel, by decide +kernel, by decide +kernel⟩,
    meets (seat (regs [(4, 1)]) (handle0 right100)) (by decide +kernel) ⟨names (by decide +kernel), by decide +kernel, by decide +kernel⟩,
    meets (seat id (handle0 rightAll)) (by decide +kernel) ⟨?_, ⟨by decide, by decide⟩, names (by decide +kernel), by decide +kernel⟩,
    meets (seat (regs [(4, 31)]) (handle0 right100)) (by decide +kernel) ⟨?_, ⟨by decide, by decide⟩, names (by decide +kernel), by decide +kernel⟩⟩ <;>
  · unfold namesFlag; decide +kernel

/-- Queue 100 of port 0 of die 0, open for domain 0 of every module, with a window of 16 slots of 16 bytes. -/
def queue100 (f : Queue → Queue := id) (s : State) : State :=
  { s with queues := [(100, f { desc := BitVec.ofNat 128 (15 * 2 ^ 31 + 2 ^ 6 + 1), acl := [0xC0000000], e := 16 })] }

/-- A message number 8 about queue 100, and the copy number 7 that it answers. -/
def told (m : QMsg) (f : Queue → Queue := id) (h : State → State := id) : State := h (queue100 f (seat id fun s => { s with qmsgs := [(8, m)] }))
def copy7 (r : Retained) (s : State) : State := { s with retained := [(7, r)] }

theorem atHome {n : Nat} {m : QMsg} {k : QKind} {s : State}
    (h : (decide (Map.find s.qmsgs n = some m) && decide (m.kind = k) && decide (m.smod = s.module ∧ m.sdie = qidDie m.qid ∧ qidModule m.qid = s.module) &&
      decide ((s.queueAt (qidKey m.qid)).turnsAway m = none)) = true) : AtHome s n m k := by
  simp only [Bool.and_eq_true, decide_eq_true_eq] at h
  exact ⟨h.1.1.1, h.1.1.2, h.1.2, h.2⟩

/-- An operation number 6 of the group of seat, whose result goes to the pair s60:s61. -/
def asked (o : QOp) (s : State) : State :=
  { s with qops := [(6, o)], groups := Map.put s.groups 1 ((s.groupAt 1).owe 6 ([scalarNo 60, scalarNo 61, predNo 7] ++ block 92 4) 0xFFFFFFFF) }

def qdeqOp : QOp := { kind := .qdeq, g := 1, die := 0, core := 0, ctx := 0, qid := 100, lanes := 0x80000000, pd := 7, dst := 92 }
def pairOp (k : QOpKind) : QOp := { kind := k, g := 1, die := 0, core := 0, ctx := 0, qid := 100, dst := 60 }

/-- The queue whose slot 0 is filled, and the one whose slot 0 is reserved by producer 0. -/
def filled0 (q : Queue) : Queue := { q with c := 1, t := 1, slots := [(0, .filled 0 [1] 0 100 0 true)] }
def reserved0 (q : Queue) : Queue := { q with t := 1, slots := [(0, .reserved 0)] }

/-- The queue whose slot 0 has been taken: its producer was 0, or the slot was never reserved. -/
def past0 (x : Nat) (q : Queue) : Queue := { q with f := 1, h := 1, c := 1, t := 1, e := 17, past := [(0, x)] }

def quietly (s : State) (k : Nat) : Bool :=
  let q := s.queueAt k
  decide ((q.f ≤ q.h ∧ q.h ≤ q.c ∧ q.c ≤ q.t) ∧ q.sleepers = [] ∧ (s.portAt (k / 4096)).held = [])

theorem still {s : State} {k : Nat} (h : quietly s k = true) : Still s k := ⟨(of_decide_eq_true h).2.1, (of_decide_eq_true h).2.2⟩
theorem quiet {s : State} {k : Nat} (h : quietly s k = true) : Quiet s k := ⟨still h, (of_decide_eq_true h).1⟩

theorem outstanding {s : State} {o : QOp}
    (h : decide (Map.find s.qops 6 = some o ∧ Map.find s.groups o.g = some (s.groupAt 1) ∧ (s.groupAt 1).saved = false) = true) :
    OpOf s 6 o (s.groupAt 1) := ⟨(of_decide_eq_true h).1, (of_decide_eq_true h).2.1, (of_decide_eq_true h).2.2⟩

theorem witness_HomesJudge :
    (AtHome (told { kind := .request, qid := 100, cnt := 16 }) 8 { kind := .request, qid := 100, cnt := 16 } .request ∧
      ((told { kind := .request, qid := 100, cnt := 16 }).queueAt 100).fifo = [] ∧
      ((told { kind := .request, qid := 100, cnt := 16 }).queueAt 100).fits 16 = true ∧
      ((told { kind := .request, qid := 100, cnt := 16 }).queueAt 100).fits 17 = false) ∧
    (let s := told { kind := .answer } (fun q => { q with fifo := [{ kind := .request, qid := 100, cnt := 16 }] })
     (s.queueAt 100).fifo = { kind := .request, qid := 100, cnt := 16 } :: [] ∧ (s.queueAt 100).state = 1 ∧ (s.queueAt 100).fits 16 = true) ∧
    (let s := told { kind := .grant, id := 7 } id fun s => asked (pairOp .qres) (copy7 { msg := { kind := .request }, die := 0, port := 0, g := 1, handle := 6 } s)
     Answers s 8 { kind := .grant, id := 7 } { msg := { kind := .request }, die := 0, port := 0, g := 1, handle := 6 } ∧
     OpOf s 6 (pairOp .qres) (s.groupAt 1) ∧ pairLands (s.groupAt 1) 6 60) ∧
    (let m : QMsg := { kind := .element, qid := 100, data := [1], crc := checkCode 100 0 [1] }
     let s := told m reserved0
     AtHome s 8 m .element ∧ Quiet s 100 ∧ (s.queueAt 100).named m.key = some 0 ∧ (s.queueAt 100).h ≤ 0 ∧ 0 < (s.queueAt 100).e ∧
     (s.queueAt 100).slot 0 = some (.reserved m.owner)) ∧
    (let m : QMsg := { kind := .element, qid := 100, data := [1], crc := ~~~ checkCode 100 0 [1] }
     let s := told m reserved0
     AtHome s 8 m .element ∧ (s.queueAt 100).named m.key = some 0 ∧ (s.queueAt 100).slot 0 = some (.reserved m.owner) ∧
     m.crc ≠ checkCode m.qid m.key m.data) ∧
    (∀ x, x < 2 → let m : QMsg := { kind := .element, qid := 100, data := [1], crc := checkCode 100 0 [1] }
     let s := told m (past0 (5 * x))
     AtHome s 8 m .element ∧ (s.queueAt 100).named m.key = some 0 ∧ (s.queueAt 100).slot 0 = none ∧ Map.find (s.queueAt 100).past 0 = some (5 * x)) ∧
    (let m : QMsg := { kind := .post, qid := 100, data := [1], crc := checkCode 100 0 [1] }
     let s := told m
     AtHome s 8 m .post ∧ Quiet s 100 ∧ m.key % 2 ^ 32 = (Map.get (s.queueAt 100).prods {} m.producer).next ∧ (s.queueAt 100).fits 1 = true ∧
     (s.queueAt 100).t < (s.queueAt 100).e ∧ m.crc = checkCode m.qid m.key m.data) ∧
    (let s := told { kind := .answer } filled0 (asked qdeqOp)
     OpOf s 6 qdeqOp (s.groupAt 1) ∧ (qdeqOp.sleepy = false ∧ qdeqOp.registered = false ∧ qdeqOp.want = 1 ∧ s.bad = [] ∧ (s.queueAt 100).state = 1 ∧
       (s.queueAt 100).kind < 2) ∧ Quiet s 100 ∧
     (s.queueAt 100).h < min (s.queueAt 100).c (s.queueAt 100).e ∧ (s.queueAt 100).slot (s.queueAt 100).h = some (.filled 0 [1] 0 100 0 true)) ∧
    (let o : QOp := { qdeqOp with got := [(0, [1])] }
     let s := told { kind := .answer } filled0 (asked o)
     OpOf s 6 o (s.groupAt 1) ∧ Still s 100 ∧ o.form = 0 ∧ o.dst + eszBytes o.esz / 4 ≤ 96 ∧ o.pd ≠ 0 ∧ o.lanes ≠ 0 ∧
     ((s.groupAt 1).landing 6 (predNo 7)).getLsbD 31 = true) ∧
    (let o : QOp := { pairOp .qflush with high := some 0xFFFFFFFF }
     let s := told { kind := .answer } id (asked o)
     OpOf s 6 o (s.groupAt 1) ∧ o.form = 0 ∧ pairLands (s.groupAt 1) 6 60) ∧
    (let s := told { kind := .answer } id (asked (pairOp .qstat))
     OpOf s 6 (pairOp .qstat) (s.groupAt 1) ∧ (pairOp .qstat).sel = 0 ∧ qidModule 100 = s.module ∧ (s.queueAt (qidKey 100)).state = 1 ∧
     pairLands (s.groupAt 1) 6 60) ∧
    (let s := told { kind := .answer } (fun q => { q with e := 15, slots := [(15, .filled 0 [] 0 100 0 false)] })
     (s.queueAt 100).state = 1 ∧ (s.queueAt 100).e < (s.queueAt 100).f + (s.queueAt 100).win ∧ Still s 100 ∧ (s.queueAt 100).h ≤ (s.queueAt 100).e ∧
     (s.queueAt 100).slot (s.queueAt 100).e = some (.filled 0 [] 0 100 0 false)) ∧
    (∀ x ∈ ((told { kind := .answer } filled0).queueAt 100).slots, x.2.isSpilled = false) := by
  refine ⟨⟨atHome (by decide +kernel), by decide +kernel, by decide +kernel, by decide +kernel⟩, by decide +kernel,
    ⟨⟨by decide +kernel, by decide +kernel⟩, outstanding (by decide +kernel), ?_⟩,
    ⟨atHome (by decide +kernel), quiet (by decide +kernel), by decide +kernel, by decide +kernel, by decide +kernel, by decide +kernel⟩,
    ⟨atHome (by decide +kernel), by decide +kernel, by decide +kernel, by decide +kernel⟩,
    fun x hx => ?_,
    ⟨atHome (by decide +kernel), quiet (by decide +kernel), by decide +kernel, by decide +kernel, by decide +kernel, by decide +kernel⟩,
    ⟨outstanding (by decide +kernel), by decide +kernel, quiet (by decide +kernel), by decide +kernel, by decide +kernel⟩,
    ⟨outstanding (by decide +kernel), still (by decide +kernel), by decide +kernel, by decide +kernel, by decide +kernel, by decide +kernel, by decide +kernel⟩,
    ⟨outstanding (by decide +kernel), by decide +kernel, ?_⟩,
    ⟨outstanding (by decide +kernel), by decide +kernel, by decide +kernel, by decide +kernel, ?_⟩,
    ⟨by decide +kernel, by decide +kernel, still (by decide +kernel), by decide +kernel, by decide +kernel⟩, by decide +kernel⟩
  case refine_2 =>
    have h : x = 0 ∨ x = 1 := by omega
    rcases h with rfl | rfl <;> exact ⟨atHome (by decide +kernel), by decide +kernel, by decide +kernel, by decide +kernel⟩
  all_goals exact ⟨by decide +kernel, by decide +kernel⟩

theorem witness_PortsAnswer :
    (let r : Retained := { msg := { kind := .element, qid := 100 }, die := 0, port := 0, g := 1, handle := 0 }
     let m : QMsg := { kind := .answer, ans := 1, id := 7 }
     Answers (told m id (copy7 r)) 8 m r ∧ r.msg.kind = .element ∧ r.msg.hw = false ∧ r.checks < 3 ∧ r.member = none ∧ r.chim = none ∧ r.g ≠ 0 ∧
     inService (told m id (copy7 r)) 1 ((told m id (copy7 r)).groupAt 1)) ∧
    (let r : Retained := { msg := { kind := .post, qid := 4088, hw := true }, die := 0, port := 0, g := 1, handle := 0 }
     let m : QMsg := { kind := .answer, ans := 1, id := 7 }
     Answers (told m id (copy7 r)) 8 m r ∧ m.ans = 1 ∧ r.msg.hw = true ∧ 4088 ≤ qidIndex r.msg.qid ∧
     inService (told m id (copy7 r)) 1 ((told m id (copy7 r)).groupAt 1)) ∧
    (let r : Retained := { msg := { kind := .element, qid := 100 }, die := 0, port := 0, g := 1, handle := 0 }
     let m : QMsg := { kind := .answer, ans := 3, id := 7 }
     let s := told m id fun s => { copy7 r s with
        contexts := [(0, { trans := [(0, 0x0000070100000065)] })], ports := [(portKey 0 0, { seqs := [(100, 5)] })] }
     Answers s 8 m r ∧ (Map.get (s.ctxAt (ctxKey r.die r.msg.ctx)).trans 0 r.handle).getLsbD 32 = true ∧
     entMulti (Map.get (s.ctxAt (ctxKey r.die r.msg.ctx)).trans 0 r.handle) = false ∧
     entQid (Map.get (s.ctxAt (ctxKey r.die r.msg.ctx)).trans 0 r.handle) ≠ r.msg.qid ∧
     (let p := s.portAt (portKey r.die r.port)
      Map.find p.seqs (p.stream 100) = some 5 ∧ p.stream 100 ≠ entQid (Map.get (s.ctxAt (ctxKey r.die r.msg.ctx)).trans 0 r.handle))) ∧
    (let r : Retained := { msg := { kind := .post, qid := 100 }, die := 0, port := 0, g := 1, handle := 0, member := some 63 }
     let m : QMsg := { kind := .answer, ans := 5, id := 7 }
     Answers (told m id (copy7 r)) 8 m r ∧ r.member = some 63 ∧ r.msg.kind ≠ .request ∧
     (r.waiting = false ∧ ∀ e ∈ (told m id (copy7 r)).retained, SameProducer r e.2 → e.1 = m.id ∨ e.2.again = true)) ∧
    (let r : Retained := { msg := { kind := .element, qid := 100 }, die := 0, port := 0, g := 1, handle := 0 }
     let s := told { kind := .answer } id fun s => { copy7 r s with now := 16384 }
     Map.find s.retained 7 = some r ∧ r.waiting = false ∧ r.again = false ∧ r.sent + 16384 ≤ s.now ∧ r.msg.kind ≠ .request) := by
  refine ⟨⟨⟨?_, ?_⟩, by decide +kernel, by decide +kernel, by decide +kernel, by decide +kernel, by decide +kernel, by decide +kernel, ?_⟩,
    ⟨⟨?_, ?_⟩, by decide +kernel, by decide +kernel, by decide +kernel, ?_⟩, ⟨⟨?_, ?_⟩, by decide +kernel, by decide +kernel, by decide +kernel⟩,
    ⟨⟨?_, ?_⟩, by decide +kernel, by decide +kernel, by unfold SameProducer; decide +kernel⟩, by decide +kernel⟩ <;> first | decide +kernel | (unfold inService; decide +kernel)


/-! ### Witnesses: the network -/

/-- The state after reset with message m for the network under number 1. -/
def carrying (m : NetMsg) (f : State → State := id) : State := f { State.reset with netMsgs := [(1, m)] }

/-- The state after reset whose link 23 is x. -/
def link23 (x : Link) : State := { State.reset with links := [(23, x)] }

/-- A flit on channel A, and the link that has sent it as number 3, which its receiver awaits. -/
def flit3 : Flit := { hdr := 0, payload := [], msg := none, dst := 3, cls := 2, chanB := false }
def await3 : Link := { next := 4, unacked := [(3, flit3)], flying := [3], expected := 3 }

/-- Errors in the first n bytes of a flit. -/
def struckBytes (n : Nat) : List (Nat × Byte) := (List.range n).map fun i => (i, 0x80)

/-- The same flit with the reserved class 3. -/
def flit3r : Flit := { flit3 with hdr := 3 * 2 ^ 82 }

/-- The further parity of flit 3, which n errors have struck, has been asked for. -/
def asking (n : Nat) (l : Ladder) : Link := { await3 with ladder := l, asked := [(3, struckBytes n)] }

theorem witness_StreamsAndLinks :
    (∃ (s : State) (n : Nat) (m : NetMsg) (q : QMsg), Map.find s.netMsgs n = some m ∧ m.body = .queue q ∧ (s.streamAt m.key).expected = m.sseq ∧ (s.streamAt m.key).held = [] ∧
      (s.die (endDie m.dst)).mode ≠ .dumped ∧ (s.die (endDie q.dst)).mode ≠ .dumped ∧ q.known = true) ∧
    (∃ (s : State) (n : Nat) (m : NetMsg) (q : QMsg), Map.find s.netMsgs n = some m ∧ m.body = .queue q ∧ 64 ≤ (m.sseq + 65536 - (s.streamAt m.key).expected) % 65536) ∧
    (∃ (s : State) (n : Nat) (m : NetMsg) (src dst cls upto : Nat), Map.find s.netMsgs n = some m ∧ m.body = .deliveryAck src dst cls upto) ∧
    (∃ (s : State) (k : Nat) (e : Nat × NetMsg × Nat), e ∈ (s.streamAt k).kept ∧ e.2.2 + 65536 ≤ s.now) ∧
    (∃ s k q f rest, Awaited s k q f ∧ reservedFlit f = false ∧ (s.linkAt k).flying = q :: rest ∧ (s.linkAt k).ladder = .normal ∧
      f.errors ((s.linkAt k).noise.headD []) = 4 ∧ neighbour (k / 3) (k % 3) = f.dst ∧ (s.linkAt k).standing = [] ∧ (s.linkAt k).withdrawn = false) ∧
    (∃ s k q f rest, Awaited s k q f ∧ (s.linkAt k).flying = q :: rest ∧ (s.linkAt k).ladder = .normal ∧ f.errors ((s.linkAt k).noise.headD []) = 5) ∧
    (∃ s k q f rest, Awaited s k q f ∧ reservedFlit f = true ∧ (s.linkAt k).flying = q :: rest ∧ (s.linkAt k).ladder = .normal ∧
      f.errors ((s.linkAt k).noise.headD []) = 4) := by
  let m : NetMsg := { src := 0, dst := 63, cls := 2, sseq := 0, body := .queue { kind := .answer } }
  have aw : ∀ (x : Link) (f : Flit), x.expected = 3 → x.unacked = [(3, f)] → x.missing = [] → Awaited (link23 x) 23 3 f := fun x f h1 h2 h3 => by
    have e : (link23 x).linkAt 23 = x := rfl
    exact ⟨by rw [e, h1], by rw [e, h2]; rfl, by rw [e, h3]; rfl⟩
  exact ⟨⟨carrying m, 1, m, _, rfl, rfl, by decide +kernel, by decide +kernel, by decide +kernel, by decide +kernel, by decide +kernel⟩,
    ⟨carrying { m with sseq := 64 }, 1, _, _, rfl, rfl, by decide +kernel⟩, ⟨carrying { m with body := .deliveryAck 0 63 2 65535 }, 1, _, 0, 63, 2, 65535, rfl, rfl⟩,
    ⟨{ State.reset with now := 65536, streams := [(5, { kept := [(0, m, 0)] })] }, 5, (0, m, 0), by decide +kernel, by decide +kernel⟩,
    ⟨link23 { await3 with noise := [struckBytes 4] }, 23, 3, flit3, [], aw _ _ rfl rfl rfl, by decide +kernel, by decide +kernel, by decide +kernel,
      by decide +kernel, by decide +kernel, by decide +kernel, by decide +kernel⟩,
    ⟨link23 { await3 with noise := [struckBytes 5] }, 23, 3, flit3, [], aw _ _ rfl rfl rfl, by decide +kernel, by decide +kernel, by decide +kernel⟩,
    ⟨link23 { await3 with unacked := [(3, flit3r)], noise := [struckBytes 4] }, 23, 3, flit3r, [], aw _ _ rfl rfl rfl, by decide +kernel, by decide +kernel,
      by decide +kernel, by decide +kernel⟩⟩

/-- The same statement's clauses on parity, replay, training, buffer entries, withdrawal and channel A. -/
theorem witness_StreamsAndLinks_recovery :
    (∃ s k q f d rest, Awaited s k q f ∧ reservedFlit f = false ∧ (s.linkAt k).training = false ∧ (s.linkAt k).ladder = .parity ∧
      (s.linkAt k).asked = (q, d) :: rest ∧ f.errors d = 8 ∧ (s.linkAt k).heldBack = []) ∧
    (∃ s k q f d rest, Awaited s k q f ∧ (s.linkAt k).training = false ∧ (s.linkAt k).ladder = .parity ∧
      (s.linkAt k).asked = (q, d) :: rest ∧ f.errors d = 9) ∧
    (∃ s k q f d rest, Awaited s k q f ∧ (s.linkAt k).training = false ∧ (s.linkAt k).ladder = .resentParity ∧
      (s.linkAt k).asked = (q, d) :: rest ∧ f.errors d = 9) ∧
    (∃ (s : State) (k : Nat), (s.linkAt k).training = false) ∧ (∃ (s : State) (k : Nat), (s.linkAt k).training = true) ∧
    (∃ (s : State) (k : Nat), (s.linkAt k).withdrawn = false ∧ 13 ≤ (s.linkAt k).good) ∧
    (∃ (s : State) (k : Nat), (s.linkAt k).withdrawn = false ∧ (s.linkAt k).good < 13) ∧
    (∃ (s : State) (die k : Nat), (s.die die).fallbackFor.contains (min k (reverseLink k)) = false ∧
      8 ≤ (spread (withGone k (s.die die).fallbackFor) 8 [0]).length) ∧
    (∃ (s : State) (die k : Nat), (s.die die).fallbackFor.contains (min k (reverseLink k)) = false ∧
      (spread (withGone k (s.die die).fallbackFor) 8 [0]).length < 8) ∧
    (∃ (s : State) (k : Nat), (s.die (k / 3)).fallback = false) ∧
    (∃ (s : State) (k : Nat) (f : Flit), (s.die (k / 3)).fallback = true ∧ f ∈ (s.linkAt k).waiting ∧ f.chanB = false ∧ f.since + 32 ≤ s.now) := by
  have aw : ∀ x : Link, x.expected = 3 → x.unacked = [(3, flit3)] → x.missing = [] → Awaited (link23 x) 23 3 flit3 := fun x h1 h2 h3 => by
    have e : (link23 x).linkAt 23 = x := rfl
    exact ⟨by rw [e, h1], by rw [e, h2]; rfl, by rw [e, h3]; rfl⟩
  exact ⟨⟨link23 (asking 8 .parity), 23, 3, flit3, struckBytes 8, [], aw _ rfl rfl rfl, by decide +kernel, by decide +kernel, by decide +kernel, rfl,
      by decide +kernel, by decide +kernel⟩,
    ⟨link23 (asking 9 .parity), 23, 3, flit3, struckBytes 9, [], aw _ rfl rfl rfl, by decide +kernel, by decide +kernel, rfl, by decide +kernel⟩,
    ⟨link23 (asking 9 .resentParity), 23, 3, flit3, struckBytes 9, [], aw _ rfl rfl rfl, by decide +kernel, by decide +kernel, rfl, by decide +kernel⟩,
    ⟨State.reset, 23, by decide +kernel⟩, ⟨link23 { training := true }, 23, by decide +kernel⟩, ⟨link23 { good := 13 }, 23, by decide +kernel⟩,
    ⟨link23 { good := 12 }, 23, by decide +kernel⟩, ⟨State.reset, 7, 23, by decide +kernel, by decide +kernel⟩,
    ⟨{ State.reset with dies := [(7, { fallbackFor := [1, 2] })] }, 7, 0, by decide +kernel, by decide +kernel⟩, ⟨State.reset, 23, by decide +kernel⟩,
    ⟨{ State.reset with now := 32, dies := [(7, { fallback := true })], links := [(23, { waiting := [flit3] })] }, 23, flit3, by decide +kernel,
      by decide +kernel, by decide +kernel, by decide +kernel⟩⟩

/-- Two hops on x+ and one on y, one hop back on x−, and no fallback tables. -/
theorem witness_RoutesInOrder : (∀ d, (State.reset.die d).fallback = false) ∧
    State.reset.walkLinks 8 0 { flit3 with dst := 6 } = [linkKey 0 0, linkKey 1 0, linkKey 2 2] ∧ State.reset.walkLinks 8 4 { flit3 with dst := 7 } = [linkKey 4 1] :=
  ⟨fun _ => rfl, by decide +kernel, by decide +kernel⟩

/-- Fabric port 15 of die 7 with a packet; the die's domain 1 has the key 5 in slot 1. -/
def port15 (p : Packet) (f : FabricPort → FabricPort := id) : State :=
  { State.reset with fabric := [(15, f { inbox := [p] })], dies := [(7, { keys := [(1, { slot1 := some 5 })] })] }

theorem witness_FabricPorts :
    (∃ s port p rest, Arrived s port p rest false ∧ p.dport = (s.fabricAt port).udp) ∧ (∃ s port p rest, Arrived s port p rest false ∧ p.auth = 5) ∧
    (∃ s port p rest m, Arrived s port p rest true ∧ p.msg.body = .queue m ∧ (s.streamAt (streamKey m.src m.dst m.cls)).held = []) ∧
    (∃ s port p rest u a b k n, Arrived s port p rest true ∧ p.msg.body = .deliveryAck a b k n ∧
      (s.fabricAt port).unacked.find? (fun u => decide (u.psn = p.psn)) = some u) ∧
    (∃ (s : State) (port : Nat) (u : Packet) (rest : List Packet), (s.fabricAt port).unacked = u :: rest) := by
  let q : NetMsg := { src := 0, dst := 63, cls := 2, sseq := 0, body := .queue { kind := .answer } }
  let a : NetMsg := { src := 0, dst := 63, cls := 2, sseq := 0, body := .deliveryAck 0 63 2 0 }
  let u : Packet := { rmod := 3, domain := 1, auth := 5, msg := q, psn := 9 }
  refine ⟨⟨port15 { rmod := 3, domain := 1, auth := 4, msg := q }, 15, _, [], ⟨rfl, ?_⟩, rfl⟩,
    ⟨port15 { rmod := 3, domain := 1, auth := 5, msg := q, dport := 9 }, 15, _, [], ⟨rfl, ?_⟩, rfl⟩,
    ⟨port15 { rmod := 3, domain := 1, auth := 5, msg := q }, 15, _, [], _, ⟨rfl, ?_⟩, rfl, by decide +kernel⟩,
    ⟨port15 { rmod := 3, domain := 1, auth := 5, msg := a, psn := 9 } (fun f => { f with unacked := [u] }), 15, _, [], u, 0, 63, 2, 0, ⟨rfl, ?_⟩, rfl,
      rfl⟩,
    ⟨port15 u (fun f => { f with unacked := [u] }), 15, u, [], rfl⟩⟩ <;> decide +kernel

/-! ### Witnesses: regrouping, travel, the core's resources and the quarters -/

/-- The thread of one lane of a group, changed. -/
def thread1 (l : Nat) (f : Thread → Thread) (g : Group) : Group :=
  { g with threads := g.threads.map fun e => (e.1, if e.1 = l then f e.2 else e.2) }

/-- Lane 0 waits with a bound of 5 for lane 1, which holds the same entry; all threads wait at a pool; the group's second pool mate. -/
theorem witness_JoinsAndPools :
    (∃ s k g l, Map.find (State.groups s) k = some g ∧ g.saved = false ∧ g.set ≠ .halted ∧ (Map.find g.threads l).isSome = true ∧
      (∀ e ∈ g.threads, joinFull g e.2 = false) ∧ joinExpired g (s.die g.die).clock (g.thread l) = true) ∧
    (∃ (s : State) (k : Nat) (g : Group) (a j : Nat) (x : Group), Map.find s.groups k = some g ∧ s.poolDue g = true ∧ g.regroupAt = some a ∧ s.pools = [] ∧
      2 ≤ g.poolN ∧ (j, x) ∈ s.groups ∧ j ≠ k ∧ x.die = g.die ∧ x.core = g.core ∧ x.quarter = g.quarter ∧ x.team = g.team ∧ x.liveLanes ≠ 0) ∧
    (∃ (s : State) (n : Nat) (p : Pool) (k : Nat) (rest : List Nat) (g : Group), Map.find s.pools n = some p ∧ p.outputs = k :: rest ∧
      Map.find s.groups k = some g ∧ s.ctxRuns p.die g.ctx = true ∧ rest ≠ []) := by
  let wait := fun t : Thread => { t with join := [(3, 16)], park := .join 64 0 5 }
  refine ⟨⟨seat (fun g => thread1 0 wait (thread1 1 (fun t => { t with join := [(3, 16)] }) g)) (fun s => { s with dies := [(0, { clock := 5 })] }),
      1, _, 0, rfl, by decide +kernel, by decide +kernel, by decide +kernel, by decide +kernel, by decide +kernel⟩,
    ⟨seat (fun g => { threads (fun t => { t with park := .regroup 64 }) g with poolN := 2 }) (fun s => { s with groups := Map.put s.groups 5 { s.groupAt 1 with slot := 4 } }),
      1, _, 64, 5, _, rfl, by decide +kernel, by decide +kernel, rfl, by decide +kernel, List.mem_cons_of_mem _ (List.mem_singleton.2 rfl), by decide,
      rfl, rfl, rfl, rfl, by decide +kernel⟩,
    ⟨seat id (fun s => { s with pools := [(9, { die := 0, core := 0, quarter := 0, team := 4, addr := 64, isBr := true, n := 2, outputs := [1, 5] })] }),
      9, _, 1, [5], _, rfl, rfl, rfl, by decide +kernel, by decide⟩⟩

/-- The launch travels over cores 0 and 23 in segment 63. -/
def journey (s : State) : State :=
  { s with grids := Map.put s.grids 2 { s.gridAt 2 with packet := BitVec.ofNat 2048 (2 ^ 30), segs := [(63, { valid := true, base := 0, len := 4096, rep := 0x800001 })] } }

/-- The same launch on die 7. -/
def trek : Sys2Proof.Machine.Grid :=
  { die := 7, packet := BitVec.ofNat 2048 (2 ^ 30), segs := [(63, { valid := true, base := 0, len := 4096, rep := 0x800001 })] }

/-- Core 23 of die 7 with a packer, at a die clock. -/
def packing (p : Packer) (clock : Nat) (f : State → State := id) : State :=
  f { State.reset with
    cores := [(191, { packer := p })], dies := [(7, { clock := clock })]
    grids := [(2, trek)] }

theorem witness_ThreadsTravel :
    (∃ (s : State) (k : Nat) (g : Group) (pc seg core : Nat), Map.find s.groups k = some g ∧ s.departing k g ≠ 0 ∧
      pc = (g.thread (lowLane (s.departing k g))).pc ∧ (∀ l, poisonedLane g l = none) ∧ s.replicaFor g pc = some (seg, core) ∧ core < 24 ∧ g.die < 8 ∧
      s.retainedBytes g.die (servingPort g.core) + 512 * 32 ≤ Config.retentionBytes ∧ ticketsFree s g ∧ g.regs.spilled = 0) ∧
    (∃ (s : State) (ck o : Nat) (d : List Byte) (crc qid key : Nat), (s.coreAt ck).packer.staged.length < 128 ∧ (s.coreAt ck).packer.ready = [] ∧ s.packs (ck / 24) (ck % 24) = true ∧
      (let q := s.queueAt (arrivalKey (ck / 24) (ck % 24))
       let r := TRecord.read q.h d
       Quiet s (arrivalKey (ck / 24) (ck % 24)) ∧ q.h < min q.c q.e ∧ q.slot q.h = some (.filled o d crc qid key true) ∧ ((s.coreAt ck).packer.bin r.pc r.cpos).length < 31)) ∧
    (∃ (s : State) (ck : Nat) (b : Nat × Nat × Nat) (recs : List TRecord) (gid slot : Nat) (x : Sys2Proof.Machine.Grid),
      (s.die (ck / 24)).clock % 32 ≠ 0 ∧ BinReady s ck b recs gid slot x) ∧
    (∃ (s : State) (gid n : Nat) (x : Sys2Proof.Machine.Grid) (core : Nat) (rest : List Nat), Map.find s.grids gid = some x ∧ x.stage = .running ∧
      (Map.find x.segs n).isSome = true ∧ (Map.get x.segs {} n).loading = core :: rest) ∧
    (∃ (s : State) (ck k : Nat), (s.die (ck / 24)).clock % 32 = 0 ∧ (s.coreAt ck).packer.starved (s.die (ck / 24)).clock = true ∧
      s.packs (ck / 24) (ck % 24) = true ∧ s.victim (ck / 24) (ck % 24) = some k ∧ (s.groupAt k).die < 8 ∧ ticketsFree s (s.groupAt k) ∧
      (∀ l, poisonedLane (s.groupAt k) l = none) ∧ s.retainedBytes (ck / 24) (servingPort (ck % 24)) + 512 * 32 ≤ Config.retentionBytes) := by
  refine ⟨⟨seat (thread1 31 fun t => { t with park := .depart }) journey, 1, _, 8, 63, 0, rfl, by decide +kernel, by decide +kernel,
      fun _ => rfl, by decide +kernel, by decide, by decide +kernel, by decide +kernel, by unfold ticketsFree; decide +kernel, by decide +kernel⟩,
    ⟨packing {} 0 fun s => { s with queues := [(arrivalKey 7 23, { c := 1, t := 1, e := 512, slots := [(0, .filled 0 [] 0 0 0 true)] })] },
      191, 0, [], 0, 0, 0, by decide +kernel, by decide +kernel, by decide +kernel, quiet (by decide +kernel), by decide +kernel, by decide +kernel, by decide +kernel⟩,
    ⟨packing { staged := [({ pc := 8, tid := 77 }, 0)], ready := [(8, 0, 0)] } 1, 191, (8, 0, 0), [{ pc := 8, tid := 77 }], 2, 0, trek,
      by decide +kernel, ⟨by decide +kernel, by decide +kernel, by decide, by decide +kernel, by decide +kernel, by decide +kernel, by decide +kernel,
        by decide +kernel⟩⟩,
    ⟨{ State.reset with grids := [(2, { stage := .running, segs := [(63, { loading := [23, 0] })] })] }, 2, 63, _, 23, [0], rfl, by decide +kernel, by decide +kernel, by decide +kernel⟩,
    ⟨packing { ready := [(8, 0, 0)] } 32 fun s => { s with groups :=
        [(1, { die := 7, core := 23, grid := 2, set := .fallow, threads := [(31, { live := true, park := .join 64 0 5 })] })] },
      191, 1, by decide +kernel, by decide +kernel, by decide +kernel, by decide +kernel, by decide +kernel, by unfold ticketsFree; decide +kernel,
      fun _ => rfl, by decide +kernel⟩⟩

/-- A page of 64 KiB from 2^30 in context 0 of core 0, with its entry. -/
def paged (pte : BitVec 64) (s : State) : State :=
  { s with cores := Map.put s.cores 0 { s.coreAt 0 with tlb := [{ ctx := 0, base := 2 ^ 30, size := 65536, pte := pte }] } }

theorem witness_CoreResources :
    (∃ s ck r rest g, RequestMet s ck r rest g ∧ r.refill = false ∧ s.waitingPool r.g = none) ∧
    (∃ s ck r rest g n, RequestMet s ck r rest g ∧ r.refill = true ∧ n < 96 ∧ g.regs.spilled = 1#96 <<< n) ∧
    (∃ (s : State) (ck ctx a pa : Nat), (s.translate ck (ck / 24) ctx (a / 128 * 128) .code).1 = .ok pa ∧
      (s.coreAt ck).istore.length < Config.istoreLines) ∧
    (∃ (s : State) (ck ctx a k : Nat) (g : Group), s.groups = [(k, g)] ∧ inService s k g ∧ g.die = ck / 24 ∧ g.core = ck % 24 ∧ g.ctx = ctx ∧ g.pend = [] ∧
      s.linesWanted g (a / 128 * 128) ≠ 0 ∧ (s.translate ck (ck / 24) ctx (a / 128 * 128) .code).1 = .missing) ∧
    (∃ (s : State) (ck ctx a k : Nat) (g : Group), s.groups = [(k, g)] ∧ inService s k g ∧ g.die = ck / 24 ∧ g.core = ck % 24 ∧ g.ctx = ctx ∧ g.pend = [] ∧
      s.linesWanted g (a / 128 * 128) ≠ 0 ∧ (s.translate ck (ck / 24) ctx (a / 128 * 128) .code).1 = .prot) ∧
    (∃ (s : State) (k : Nat) (g : Group) (m l : Nat), Map.find s.groups k = some g ∧ (BitVec.ofNat 32 m).getLsbD l = true ∧
      (g.thread l).stall = .retAddr) := by
  let far := threads fun t => { t with pc := 2 ^ 30 }
  refine ⟨⟨seat (thread1 31 fun t => { t with stall := .register 5 }) (fun s => { s with cores := [(0, { s.coreAt 0 with regReqs := [⟨1, false, 5, 8⟩] })] }),
      0, ⟨1, false, 5, 8⟩, [], _, ⟨rfl, by decide +kernel, by decide +kernel, by decide +kernel, rfl⟩, rfl, by decide +kernel⟩,
    ⟨seat (fun g => { g with regs := { g.regs with spilled := 1#96 <<< 95 } }) (fun s => { s with cores := [(0, { s.coreAt 0 with regReqs := [⟨1, true, 0, 0⟩] })] }),
      0, ⟨1, true, 0, 0⟩, [], _, 95, ⟨rfl, by decide +kernel, by decide +kernel, by decide +kernel, rfl⟩, rfl, by decide, by decide +kernel⟩,
    ⟨seat id (paged 0x39), 0, 0, 2 ^ 30 + 65535, 65408, by decide +kernel, by decide +kernel⟩,
    ⟨seat far, 0, 0, 2 ^ 30, 1, _, rfl, ?_, rfl, rfl, rfl, rfl, by decide +kernel, by decide +kernel⟩,
    ⟨seat far (paged 0x19), 0, 0, 2 ^ 30, 1, _, rfl, ?_, rfl, rfl, rfl, rfl, by decide +kernel, by decide +kernel⟩,
    ⟨seat (thread1 31 fun t => { t with stall := .retAddr }), 1, _, 2 ^ 31, 31, rfl, by decide +kernel, by decide +kernel⟩⟩ <;>
  exact ⟨rfl, by decide +kernel, by decide +kernel⟩

theorem witness_QuarterSets :
    (∃ (s : State) (k : Nat) (g : Group), Map.find s.groups k = some g ∧ g.set = .active ∧ 1024 ≤ g.issues ∧
      (s.quarterAt (coreKey g.die g.core * 4 + g.quarter)).ready ≠ []) ∧
    (∃ (s : State) (k : Nat) (g : Group) (l : Nat), Map.find s.groups k = some g ∧ s.fallowDue k g = true ∧ l < 32 ∧ (g.thread l).live = true ∧
      (g.thread l).park = .none ∧ g.regs.spilled = 0) ∧
    (∃ (s : State) (k : Nat) (g : Group) (l : Nat), Map.find s.groups k = some g ∧ s.fallowDue k g = true ∧ l < 32 ∧ (g.thread l).live = true ∧
      (g.thread l).park = .none ∧ g.regs.spilled ≠ 0) ∧
    (∃ (s : State) (k : Nat) (g : Group) (x : Sys2Proof.Machine.Grid), Map.find s.groups k = some g ∧ s.groupDone g = true ∧ g.pend = [] ∧ s.pools = [] ∧
      Map.find s.grids g.grid = some x) :=
  ⟨⟨seat (fun g => { g with issues := 1024 }) (fun s => { s with quarters := [(0, { active := [1], ready := [9] })] }), 1, _, rfl,
      by decide +kernel, by decide +kernel, by decide +kernel⟩,
    ⟨seat (fun g => { threads (fun t => { t with held := true }) g with set := .fallow }), 1, _, 31, rfl, by decide +kernel, by decide, by decide +kernel, by decide +kernel, by decide +kernel⟩,
    ⟨seat (fun g => { threads (fun t => { t with held := true }) g with set := .fallow, regs := { g.regs with spilled := 1#96 <<< 95 } }), 1, _, 31, rfl, by decide +kernel, by decide,
      by decide +kernel, by decide +kernel, by decide +kernel⟩,
    ⟨seat (threads fun t => { t with live := false }), 1, _, _, rfl, by decide +kernel, rfl, rfl, rfl⟩⟩

/-! ### Witnesses: launches, faults, contexts and dies -/

/-- A launch packet of one team of one group: image at 0, spill stacks at 2^30, one register at least and at most; more adds to it. -/
def packet (more : Nat := 0) : BitVec 2048 := BitVec.ofNat 2048 (2 ^ 356 + 2 ^ 363 + 2 ^ 48 + 2 ^ 222 + more)

/-- Page tables at 0 and at 4096: the first GiB is read, written and run, and the second belongs to the hardware. -/
def tables : Map Byte := [(0, 1), (1, 0x10), (4096, 0x3B), (4104, 0x43)]

/-- A die with context 0 over those tables, a handle for completions, and a packet at the head of launch queue 15. -/
def launching : State :=
  { State.reset with
    hbm := tables, contexts := [(0, { trans := [(0, 0x0000270100000064)] })]
    queues := [(15, { Queue.init 15 with c := 1, t := 1, e := 64, slots := [(0, .filled 0 (bytesOf 256 (packet 0).toNat) 0 15 0 true)] })] }

/-- The launch of that packet, running. -/
def launched (more : Nat := 0) : Sys2Proof.Machine.Grid := { packet := packet more, order := 3 }
def runs (x : Sys2Proof.Machine.Grid) : State := { launching with grids := [(2, x)] }

/-- What the launch unit finds in a packet depends on its die, its context, its packet and its segment map. -/
theorem launchReason_fields (s : State) (x : Sys2Proof.Machine.Grid) (raw : List Byte) :
    s.launchReason x raw = s.launchReason { die := x.die, ctx := x.ctx, packet := x.packet, segs := x.segs } raw := by
  unfold State.launchReason; rfl

theorem launchReason_plain (s : State) (x : Sys2Proof.Machine.Grid) (raw : List Byte) (h : x.travel = false) :
    s.launchReason x raw = s.launchReason { die := x.die, ctx := x.ctx, packet := x.packet } raw := by
  have e : ({ die := x.die, ctx := x.ctx, packet := x.packet } : Sys2Proof.Machine.Grid).travel = false := h
  unfold State.launchReason
  simp only [h, e, Bool.false_and]
  rfl

theorem reason_plain {s : State} {die ctx : Nat} {d : List Byte} {n : Nat} {p : BitVec 2048} (hp : (packetGrid die ctx d).packet = p)
    (ht : (packetGrid die ctx d).travel = false) (h : s.launchReason { die := die, ctx := ctx, packet := p } [] = n) : packetReason s die ctx d n := by
  have hm : packetMap s die ctx d = [] := by simp [packetMap, ht]
  intro x h1 h2 h3 _
  have e : x.travel = false := by unfold Grid.travel Grid.field at ht ⊢; rw [h3]; exact ht
  rw [hm, launchReason_plain _ _ _ e, h1, h2, h3, hp, h]

/-- A packet of a travel launch of one thread over core 0 in segment 0, whose map stands at 8192, and the tables with that map. -/
def travelPacket : BitVec 2048 := packet (2 ^ 30 + 2 ^ 160 + 8192 * 2 ^ 768 + 512 * 2 ^ 832)
def voyage (p : BitVec 2048) (f : State → State := id) : State :=
  f { launching with
      hbm := tables ++ [(8193, 0x80), (8197, 1), (8201, 2)]
      queues := [(15, { Queue.init 15 with c := 1, t := 1, e := 64, slots := [(0, .filled 0 (bytesOf 256 p.toNat) 0 15 0 true)] })] }

/-- That map: segment 0 of 512 doublewords at 0, on core 0. -/
def mapBytes : List Byte := [0, 0x80, 0, 0, 0, 1, 0, 0, 0, 2] ++ List.replicate 1014 0
def oneSegment : Map Segment := [(0, { valid := true, base := 0, len := 512, rep := 1, first := 1 })]

/-- The byte of HBM at a virtual address that translates. -/
def byteAt (s : State) (die ctx va : Nat) (need : Need) : Option Byte :=
  match s.walkCtx die ctx va with
  | .inl (some (p, sz)) => if pteAllows need p then some (Map.get s.hbm 0 (hbmKey die (pteAddr p + va % sz))) else none
  | _ => none

theorem foldl_bytes {F : Option (List Byte) → Nat → Option (List Byte)} {b : Nat → Option Byte}
    (hF : ∀ acc i x, b i = some x → F (some acc) i = some (acc ++ [x])) :
    ∀ (l : List Nat) (acc : List Byte), l.all (fun i => (b i).isSome) = true → l.foldl F (some acc) = some (acc ++ l.map fun i => (b i).getD 0)
  | [], acc, _ => by simp
  | i :: l, acc, h => by
    rw [List.all_cons, Bool.and_eq_true] at h
    obtain ⟨x, hx⟩ := Option.isSome_iff_exists.1 h.1
    rw [List.foldl_cons, hF acc i x hx, foldl_bytes hF l _ h.2, List.map_cons, hx, Option.getD_some, List.append_assoc, List.singleton_append]

/-- A read whose every byte translates is those bytes. -/
theorem readVirtual_bytes {s : State} {die ctx va n : Nat} {need : Need} (h : (upto 0 n).all (fun i => (byteAt s die ctx (va + i) need).isSome) = true) :
    s.readVirtual die ctx va n need = some ((upto 0 n).map fun i => (byteAt s die ctx (va + i) need).getD 0) := by
  unfold State.readVirtual
  refine (foldl_bytes (b := fun i => byteAt s die ctx (va + i) need) (fun acc i x hx => ?_) _ [] h).trans (by rw [List.nil_append])
  unfold byteAt at hx
  split at hx
  · rename_i p sz e
    rw [e]
    split at hx
    · rename_i k
      cases hx
      exact if_pos k
    · cases hx
  · cases hx

/-- Every byte of the map's page is mapped by the same entry. -/
theorem voyage_walk (i : Nat) (hi : i < 1024) : (voyage travelPacket).walkCtx 0 0 (8192 + i) = .inl (some (0x3B, 2 ^ 30)) := by
  have hc : Map.find (voyage travelPacket).contexts (ctxKey 0 0) = some { trans := [(0, 0x0000270100000064)] } := by decide +kernel
  have e0 : (voyage travelPacket).pteAt 0 0 0 = 0x1001 := by decide +kernel
  have e1 : (voyage travelPacket).pteAt 0 4096 0 = 0x3B := by decide +kernel
  have r : Context.root { trans := [(0, 0x0000270100000064)] } = 0 := by decide +kernel
  have i0 : (8192 + i) / 2 ^ 39 % 2 ^ 9 = 0 := by omega
  have i1 : (8192 + i) / 2 ^ 30 % 2 ^ 9 = 0 := by omega
  have d : (voyage travelPacket).inDump 0 (pteAddr 0x3B + (8192 + i) % 2 ^ 30) = false := by
    have h : ((voyage travelPacket).die 0).dump = 2047 := by decide +kernel
    have z : pteAddr 0x3B = 0 := by decide
    unfold State.inDump
    rw [h, z, decide_eq_false_iff_not]
    omega
  have k0 : pteKind 39 4096 0x1001 = .table := by decide
  have k1 : pteKind 30 4096 0x3B = .page := by decide
  have p0 : pteAddr 0x1001 = 4096 := by decide
  unfold State.walkCtx
  simp only [hc, r]
  rw [if_neg (by decide), walkLevels, walk, i0, e0]
  simp only [k0, p0]
  rw [walk, i1, e1]
  simp only [k1]
  rw [d]
  rfl

theorem voyage_byte (i : Nat) (hi : i < 1024) :
    byteAt (voyage travelPacket) 0 0 (8192 + i) .any = some (Map.get (voyage travelPacket).hbm 0 (8192 + i)) := by
  have z : pteAddr 0x3B = 0 := by decide
  have e : hbmKey 0 (pteAddr 0x3B + (8192 + i) % 2 ^ 30) = 8192 + i := by rw [z]; unfold hbmKey; omega
  unfold byteAt
  rw [voyage_walk i hi]
  simp only [e, pteAllows, if_true]

set_option maxRecDepth 20000 in
theorem voyage_map : (voyage travelPacket).readVirtual 0 0 8192 1024 .any = some mapBytes := by
  have h : ∀ i ∈ upto 0 1024, byteAt (voyage travelPacket) 0 0 (8192 + i) .any = some (Map.get (voyage travelPacket).hbm 0 (8192 + i)) := fun i hi =>
    voyage_byte i (by have := (List.all_eq_true.1 (by decide +kernel : (upto 0 1024).all (fun i => decide (i < 1024)) = true)) i hi; simpa using this)
  rw [readVirtual_bytes (List.all_eq_true.2 fun i hi => by rw [h i hi]; rfl), List.map_congr_left (g := fun i => Map.get (voyage travelPacket).hbm 0 (8192 + i))
    (fun i hi => by rw [h i hi]; rfl)]
  decide +kernel

theorem voyage_segments : readSegments mapBytes = oneSegment := by decide +kernel

theorem voyage_reason : packetReason (voyage travelPacket) 0 0 (bytesOf 256 travelPacket.toNat) 0 := by
  intro x h1 h2 h3 h4
  have hp : (packetGrid 0 0 (bytesOf 256 travelPacket.toNat)).packet = travelPacket := by decide +kernel
  have ht : x.travel = true := by unfold Grid.travel Grid.field; rw [h3, hp]; decide +kernel
  have hm : packetMap (voyage travelPacket) 0 0 (bytesOf 256 travelPacket.toNat) = mapBytes := by
    have a : (packetGrid 0 0 (bytesOf 256 travelPacket.toNat)).travel = true ∧ (packetGrid 0 0 (bytesOf 256 travelPacket.toNat)).segmap = 8192 := by
      decide +kernel
    rw [packetMap, if_pos a.1, a.2, voyage_map, Option.getD_some]
  rw [launchReason_fields, h1, h2, h3, h4 ht, hp, hm, voyage_segments]
  decide +kernel

theorem witness_LaunchesRun :
    (∃ s die k ctx d, PacketAt s die k ctx d ∧ packetReason s die ctx d 1 ∧ (packetGrid die ctx d).posts = true ∧
      (s.completionEntry die ctx (packetGrid die ctx d).chandle).isSome = true) ∧
    (∃ (s : State) (die k : Nat) (d : List Byte) (o crc qid key : Nat), s.launchDue die = true ∧ s.nextLaunch die = some k ∧ Still s k ∧
      (s.queueAt k).slot (s.queueAt k).h = some (.filled o d crc qid key true) ∧ s.domainCtx die (o / 65536 / 64 / 8192) = none ∧
      Map.find s.contexts (ctxKey die 0xFFFF) = none) ∧
    (∃ s die k ctx d, PacketAt s die k ctx d ∧ (packetGrid die ctx d).travel = true ∧ packetReason s die ctx d 0) ∧
    (∃ s die k ctx d, PacketAt s die k ctx d ∧ (packetGrid die ctx d).travel = false ∧ packetReason s die ctx d 0) ∧
    (∃ (s : State) (die gid : Nat) (x : Sys2Proof.Machine.Grid) (pos : Nat), s.nextPlot die = some (gid, x, pos) ∧ Map.find s.grids gid = some x) ∧
    (∃ (s : State) (gid : Nat) (x : Sys2Proof.Machine.Grid), Map.find s.grids gid = some x ∧ s.travelReady gid x = true) ∧
    (∃ (s : State) (k : Nat) (tm : Team), Map.find s.teams k = some tm ∧ s.teamDue k tm = true ∧ tm.ended = false) ∧
    (∃ (s : State) (k : Nat) (tm : Team), Map.find s.teams k = some tm ∧ s.teamDue k tm = true ∧ tm.ended = true ∧ tm.ticket = none) ∧
    (∃ (s : State) (k : Nat) (tm : Team), Map.find s.teams k = some tm ∧ s.teamDue k tm = true ∧ tm.ended = true ∧ tm.ticket ≠ none ∧
      (Map.find s.grids tm.grid).isSome = true) ∧
    (∃ (s : State) (gid : Nat) (x : Sys2Proof.Machine.Grid), Map.find s.grids gid = some x ∧ s.gridDue gid x = true ∧ x.travel = false ∧ x.posts = true ∧
      (s.completionEntry x.die x.ctx x.chandle).isSome = true) := by
  have at_ : ∀ p : BitVec 2048, (decide ((voyage p).launchDue 0 = true ∧ (voyage p).nextLaunch 0 = some 15 ∧
      ((voyage p).queueAt 15).slot ((voyage p).queueAt 15).h = some (.filled 0 (bytesOf 256 p.toNat) 0 15 0 true) ∧
      (voyage p).domainCtx 0 0 = some 0) && quietly (voyage p) 15) = true → PacketAt (voyage p) 0 15 0 (bytesOf 256 p.toNat) := fun p h => by
    simp only [Bool.and_eq_true, decide_eq_true_eq] at h
    exact ⟨h.1.1, h.1.2.1, still h.2, 0, 0, 15, 0, h.1.2.2.1, h.1.2.2.2⟩
  refine ⟨⟨voyage (packet (2 ^ 912 + 2 ^ 1008)), 0, 15, 0, _, at_ _ (by decide +kernel),
      reason_plain (p := packet (2 ^ 912 + 2 ^ 1008)) (by decide +kernel) (by decide +kernel) (by decide +kernel), by decide +kernel, by decide +kernel⟩,
    ⟨voyage (packet 0) (fun s => { s with contexts := [] }), 0, 15, bytesOf 256 (packet 0).toNat, 0, 0, 15, 0, by decide +kernel, by decide +kernel,
      still (by decide +kernel), by decide +kernel, by decide +kernel, by decide +kernel⟩,
    ⟨voyage travelPacket, 0, 15, 0, _, at_ _ (by decide +kernel), by decide +kernel, voyage_reason⟩,
    ⟨voyage (packet 0), 0, 15, 0, _, at_ _ (by decide +kernel), by decide +kernel,
      reason_plain (p := packet 0) (by decide +kernel) (by decide +kernel) (by decide +kernel)⟩,
    ⟨runs (launched 0), 0, 2, launched 0, 0, by decide +kernel, by decide +kernel⟩,
    ⟨{ launching with grids := [(2, { trek with stage := .waiting })] , contexts := [] }, 2, { trek with stage := .waiting }, by decide +kernel,
      by decide +kernel⟩,
    ⟨{ State.reset with teams := [(4, { grid := 2 })] }, 4, { grid := 2 }, by decide +kernel, by decide +kernel, by decide⟩,
    ⟨{ State.reset with teams := [(4, { grid := 2, ended := true })] }, 4, { grid := 2, ended := true }, by decide +kernel, by decide +kernel, by decide,
      by decide⟩,
    ⟨{ runs (launched 0) with teams := [(4, { grid := 2, ended := true, ticket := some 1 })], dies := [(0, { table := [(50, 1)] })] }, 4,
      { grid := 2, ended := true, ticket := some 1 }, by decide +kernel, by decide +kernel, by decide, by decide, by decide +kernel⟩,
    ⟨runs { launched (2 ^ 912) with nextPlot := 1, done := [0] }, 2, { launched (2 ^ 912) with nextPlot := 1, done := [0] }, by decide +kernel,
      by decide +kernel, by decide +kernel, by decide +kernel, by decide +kernel⟩⟩

/-- A fault that has waited its 1,024 clocks, a trap that is due with the clock's other path; a strike in tile 63 of team 4, in scratchpad of context 0, and in a cell of queue SRAM that no window covers. -/
theorem witness_TrapsAndDelivery_delivery :
    (∃ (s : State) (k : Nat) (g : Group) (p : PendingFault), Map.find s.groups k = some g ∧ g.pend = [p] ∧ p.info.cls.kind ≠ 0 ∧
      p.info.cls.kind ≠ 2 ∧ p.since + 1024 ≤ (s.die g.die).clock ∧ g.set ≠ .ended ∧ s.ctxHeld g.die g.ctx = false) ∧
    (∃ (s : State) (k : Nat) (g : Group) (p : PendingFault), Map.find s.groups k = some g ∧ g.pend = [p] ∧ p.info.cls.kind ≠ 0 ∧ p.due = true ∧
      g.set ≠ .ended ∧ s.ctxHeld g.die g.ctx = false) ∧
    (∃ (s : State) (die sub key ctx core qid : Nat) (x : Context), s.bad.contains (spaceOfSub sub, key) = true ∧
      s.cellOwner die (spaceOfSub sub) key = some (ctx, core, qid) ∧ Map.find s.contexts (ctxKey die ctx) = some x) ∧
    (∃ (s : State) (die sub key : Nat), s.bad.contains (spaceOfSub sub, key) = true ∧ s.cellOwner die (spaceOfSub sub) key = none) :=
  ⟨⟨seat (fun g => { g with pend := [{ info := { cls := .codeTranslation }, ins := {}, since := 0 }] }) (fun s => s.modDie 0 fun d => { d with clock := 1024 }),
      1, _, _, rfl, rfl, by decide +kernel, by decide +kernel, by decide +kernel, by decide +kernel, by decide +kernel⟩,
    ⟨seat (fun g => { g with pend := [{ info := { cls := .trap }, ins := {}, since := 0, due := true }] }), 1, _, _, rfl, rfl, by decide +kernel,
      rfl, by decide +kernel, by decide +kernel⟩,
    ⟨seat id (fun s => { s with bad := [(.tile, 4 * 2 ^ 19 + 5)] }), 0, 0, 4 * 2 ^ 19 + 5, 0, 0, 0, _, by decide +kernel, by decide +kernel, rfl⟩,
    ⟨{ State.reset with bad := [(.slot, 2 ^ 22)] }, 0, 3, 2 ^ 22, by decide +kernel, by decide +kernel⟩⟩

/-- A grid of context 1 and priority 15 waits for the cores that a team of context 0 holds; a context halts, and is saved. -/
theorem witness_ContextsMove :
    (∃ (s : State) (gid : Nat) (x : Sys2Proof.Machine.Grid) (ctx : Nat) (y : Context), Map.find s.grids gid = some x ∧ s.preemptDue gid x = true ∧
      s.preemptTarget x = some ctx ∧ Map.find s.contexts (ctxKey x.die ctx) = some y) ∧
    (∃ (s : State) (k : Nat) (x : Context), s.saveDue k = true ∧ Map.find s.contexts k = some x) ∧
    (∃ (s : State) (k : Nat) (x : Context), s.restoreDue k = true ∧ Map.find s.contexts k = some x ∧ x.fatal = false ∧
      (∀ j g, Map.find s.groups j = some g → g.pend = [])) := by
  let x : Sys2Proof.Machine.Grid := { launched 0 with ctx := 1, prio := 15, blocked := 4096 }
  refine ⟨⟨seat id (fun s => { s with grids := [(2, {}), (7, x)], contexts := [(0, {}), (1, {})] }), 7, x, 0, {}, by decide +kernel, by decide +kernel,
      by decide +kernel, by decide +kernel⟩,
    ⟨seat id (fun s => { s with contexts := [(0, { stage := .halting 0 })] }), 0, _, by decide +kernel, rfl⟩,
    ⟨seat (fun g => { g with saved := true }) (fun s => { s with contexts := [(0, { stage := .saved, byLaunchUnit := true })], teams := [(4, { s.teamAt 4 with saved := true })] }), 0, _, by decide +kernel,
      rfl, rfl, fun j g h => ?_⟩⟩
  have e : ∀ m : List (Nat × Group), (∀ e ∈ m, e.2.pend = []) → Map.find m j = some g → g.pend = [] := by
    intro m hm hf
    induction m with
    | nil => cases hf
    | cons a m ih =>
      rw [Map.find_cons a.1 a.2] at hf
      split at hf
      · cases hf; exact hm a (List.mem_cons_self)
      · exact ih (fun e he => hm e (List.mem_cons_of_mem _ he)) hf
  exact e _ (by decide +kernel) h

/-- Context 0 halted, with its area at 2^30 in a page of the hardware's, which core 0 has at hand; its group has written an operand-file entry, holds
one register and has spilled another, and a thread has called. -/
def areas : State :=
  seat (fun g => threads (fun t => { t with rstack := [8], rsd := 1, join := [(3, 16)] }) { g with regs := { g.regs with
      v := [(3 * 32 + 31, 7)], vmap := 8, spilled := 1#96 <<< 95, written := 0x80, s := [(63, 9)], lr := [(31, 5)], lrValid := 0x80000000 }, cf := [(1, 2)] })
    (fun s => { s with
      contexts := [(0, { desc := BitVec.ofNat 512 (256 * 2 ^ 400 + 2 ^ 446), stage := .halting 0 })]
      cores := Map.put s.cores 0 { s.coreAt 0 with tickets := [(1, { ctx := 0 })], tlb := [{ ctx := 0, base := 2 ^ 30, size := 2 ^ 30, pte := 0x41 }] } })

theorem witness_ContextArea :
    (∃ s ck, State.saveDue s ck = true) ∧
    (∃ s die ctx core pa e, AreaMaps s die ctx core pa e ∧ AreaFits s die ctx core ∧ (s.areaGroups die ctx core).length = 1 ∧
      (s.areaTeams die ctx core).length = 1 ∧ s.areaPacker die ctx core = false ∧ (∃ x ∈ s.areaGroups die ctx core, x.2.regs.failing = []) ∧
      (((s.coreAt (coreKey die core)).tickets.filter (fun e => decide (e.2.ctx = ctx))).map (·.1))[0]? = some 1) := by
  refine ⟨⟨seat id (fun s => { s with contexts := [(0, { stage := .halting 0 })] }), 0, by decide +kernel⟩,
    areas, 0, 0, 0, 0, { ctx := 0, base := 2 ^ 30, size := 2 ^ 30, pte := 0x41 }, ?_, ?_, by decide +kernel, by decide +kernel, by decide +kernel,
    by decide +kernel, by decide +kernel⟩
  · have d : (areas.die 0).dump = 2047 := by decide +kernel
    refine ⟨⟨[], by decide +kernel⟩, rfl, by decide +kernel, by decide +kernel, by decide +kernel, fun i hi => ?_, by decide +kernel, by decide +kernel⟩
    unfold State.inDump
    rw [d, decide_eq_false_iff_not]
    omega
  · exact ⟨by decide +kernel, by decide +kernel, by decide +kernel, by decide +kernel, by decide +kernel, by decide +kernel, by decide +kernel, by decide +kernel⟩

theorem witness_DiesReset :
    NoneHeld State.reset ∧ (∃ (s : State) (die : Nat), (s.die die).droop = true ∧ 64 ≤ (s.die die).damper) ∧
    (∃ (s : State) (die : Nat), (s.die die).droop = true ∧ (s.die die).damper < 64) ∧
    (∃ (s : State) (die : Nat), (s.die die).mode ≠ .dumped) :=
  ⟨fun _ => rfl, ⟨{ State.reset with dies := [(7, { droop := true, damper := 64 })] }, 7, by decide +kernel, by decide +kernel⟩,
    ⟨{ State.reset with dies := [(7, { droop := true, damper := 63 })] }, 7, by decide +kernel, by decide +kernel⟩,
    ⟨State.reset, 7, by decide +kernel⟩⟩

/-! ### Witnesses: the chimney port -/

/-- The header of a command with a check code of zero (R317). -/
def chimNumber (op die ctx arg addr len : Nat) : Nat := op * 2 ^ 248 + die * 2 ^ 245 + ctx * 2 ^ 224 + arg * 2 ^ 192 + addr * 2 ^ 128 + len * 2 ^ 96

/-- A command of number 0 with its check code. -/
def sealed (n : Nat) (p : List Byte) : ChimCmd := { hdr := BitVec.ofNat 256 (n + (crc32c (bytesOf 32 n ++ p)).toNat), payload := p }
def chim (op die ctx arg addr : Nat) (p : List Byte) (len : Nat := p.length) : ChimCmd := sealed (chimNumber op die ctx arg addr len) p

/-- The command is the next of channel 15, and f changes the rest of the state. -/
def chimney (c : ChimCmd) (f : State → State := id) : State := { f State.reset with channels := [(15, { inbox := [c] })] }

theorem atHead {c : ChimCmd} {f : State → State} {ev : Ev} (h1 : (chimney c f).chimEvent 15 c = ev) (h2 : (chimney c f).dieTakes c = true)
    (h3 : c.len ≤ 65536) : AtHead (chimney c f) 15 c [] ev := ⟨rfl, h1, h2, h3⟩

theorem sealed_crc (n : Nat) (p : List Byte) (h : n % 2 ^ 32 = 0) (h2 : n < 2 ^ 256) :
    crc32c (bytesOf 32 ((sealed n p).hdr &&& ~~~ 0xFFFFFFFF#256).toNat ++ p) = (sealed n p).hdr.extractLsb' 0 32 := by
  have hc := (crc32c (bytesOf 32 n ++ p)).isLt
  have e : ((sealed n p).hdr &&& ~~~ 0xFFFFFFFF#256).toNat = n := by
    have m : ∀ x : BitVec 256, x &&& ~~~ 0xFFFFFFFF#256 = (x >>> 32) <<< 32 := by
      intro x
      have hm : ~~~ 0xFFFFFFFF#256 = BitVec.allOnes 256 <<< 32 := by decide
      apply BitVec.eq_of_getLsbD_eq
      intro i hi
      rw [hm, BitVec.getLsbD_and, BitVec.getLsbD_shiftLeft, BitVec.getLsbD_shiftLeft, BitVec.getLsbD_ushiftRight, BitVec.getLsbD_allOnes]
      by_cases h : i < 32
      · simp [h]
      · have e : 32 + (i - 32) = i := by omega
        have l : i - 32 < 256 := by omega
        simp [h, hi, e, l]
    rw [m]
    simp only [sealed, BitVec.toNat_shiftLeft, BitVec.toNat_ushiftRight, BitVec.toNat_ofNat, Nat.shiftLeft_eq, Nat.shiftRight_eq_div_pow]
    omega
  rw [e]
  apply BitVec.eq_of_toNat_eq
  simp only [sealed, BitVec.extractLsb'_toNat, BitVec.toNat_ofNat, Nat.shiftRight_eq_div_pow]
  omega

theorem row5 {s : State} {c : ChimCmd} (hw : c.whole = true) (hs : c.seq = (s.chanAt 15).expect) (hr : c.reserved = false) (ho : c.op = 5) :
    s.chimEvent 15 c = if c.addr = Config.resetRegister.toNat then .managementReset 15 else .mgmtRegisterWrite 15 := by
  simp [State.chimEvent, hw, hs, hr, ho]

/-- The write of the register at a, and its fields. -/
def writeTo (a : Nat) : ChimCmd := chim 5 7 0xFFFF 0 a (bytesOf 8 1)

theorem writeTo_field (a lo n : Nat) (ha : a < 2 ^ 48) (h : 32 ≤ lo) :
    (writeTo a).field lo n = (5 * 2 ^ 248 + 7 * 2 ^ 245 + 0xFFFF * 2 ^ 224 + a * 2 ^ 128 + 8 * 2 ^ 96) / 2 ^ lo % 2 ^ n := by
  have e : chimNumber 5 7 0xFFFF 0 a 8 = 5 * 2 ^ 248 + 7 * 2 ^ 245 + 0xFFFF * 2 ^ 224 + a * 2 ^ 128 + 8 * 2 ^ 96 := by unfold chimNumber; omega
  have hc := (crc32c (bytesOf 32 (chimNumber 5 7 0xFFFF 0 a 8) ++ bytesOf 8 1)).isLt
  obtain ⟨m, rfl⟩ : ∃ m, lo = 32 + m := ⟨lo - 32, by omega⟩
  show ((BitVec.ofNat 256 (chimNumber 5 7 0xFFFF 0 a 8 + (crc32c (bytesOf 32 (chimNumber 5 7 0xFFFF 0 a 8) ++ bytesOf 8 1)).toNat)).extractLsb' _ n).toNat = _
  generalize (crc32c (bytesOf 32 (chimNumber 5 7 0xFFFF 0 a 8) ++ bytesOf 8 1)).toNat = r at hc
  rw [BitVec.extractLsb'_toNat, BitVec.toNat_ofNat, Nat.shiftRight_eq_div_pow, Nat.pow_add, ← Nat.div_div_eq_div_mul, ← Nat.div_div_eq_div_mul, e]
  congr 2
  omega

theorem writeTo_event (a : Nat) (ha : a < 2 ^ 48) :
    (chimney (writeTo a)).chimEvent 15 (writeTo a) = (if a = Config.resetRegister.toNat then .managementReset 15 else .mgmtRegisterWrite 15) ∧
    (writeTo a).len = 8 := by
  have hseq : (writeTo a).seq = 0 := by rw [ChimCmd.seq, writeTo_field a 64 32 ha (by decide)]; omega
  have hop : (writeTo a).op = 5 := by rw [ChimCmd.op, writeTo_field a 248 8 ha (by decide)]; omega
  have hlen : (writeTo a).len = 8 := by rw [ChimCmd.len, writeTo_field a 96 32 ha (by decide)]; omega
  have haddr : (writeTo a).addr = a := by rw [ChimCmd.addr, writeTo_field a 128 48 ha (by decide)]; omega
  have hwhole : (writeTo a).whole = true := by
    unfold ChimCmd.whole
    rw [hop, hlen]
    have := sealed_crc (chimNumber 5 7 0xFFFF 0 a 8) (bytesOf 8 1) (by unfold chimNumber; omega) (by unfold chimNumber; omega)
    exact Bool.and_eq_true_iff.2 ⟨decide_eq_true this, rfl⟩
  have hres : (writeTo a).reserved = false := by
    unfold ChimCmd.reserved
    rw [hop, writeTo_field a 240 5 ha (by decide), writeTo_field a 208 16 ha (by decide), writeTo_field a 176 16 ha (by decide),
      writeTo_field a 32 32 ha (by decide)]
    simp only [Bool.or_eq_false_iff, decide_eq_false_iff_not]
    omega
  refine ⟨?_, hlen⟩
  rw [row5 hwhole (by rw [hseq]; rfl) hres hop, haddr]

/-- A context of domain 0 with one MiB of scratchpad and one multicast group. -/
def context1 : Context := { desc := BitVec.ofNat 512 (2 ^ 338 + 2 ^ 368) }

/-- Context 1 of die 7, with one multicast group, over the tables that are in the HBM of die 7. -/
def ctx1 (x : Context := context1) (s : State) : State :=
  { s with contexts := [(ctxKey 7 1, x)], hbm := tables.map fun e => (hbmKey 7 e.1, e.2) }

theorem atHead_does {c : ChimCmd} {f : State → State} {ev : Ev}
    (h : (decide ((chimney c f).chimEvent 15 c = ev) && (chimney c f).dieTakes c && decide (c.len ≤ 65536)) = true) :
    AtHead (chimney c f) 15 c [] ev := by
  simp only [Bool.and_eq_true, decide_eq_true_eq] at h
  exact atHead h.1.1 h.1.2 h.2

/-- A command that stands at the head of channel 15 and meets p. -/
def Commands (ev : Nat → Ev) (p : State → ChimCmd → Prop) : Prop := ∃ s chan c rest, AtHead s chan c rest (ev chan) ∧ p s c

theorem commands {ev : Nat → Ev} {p : State → ChimCmd → Prop} (c : ChimCmd) (f : State → State)
    (h : (decide ((chimney c f).chimEvent 15 c = ev 15) && (chimney c f).dieTakes c && decide (c.len ≤ 65536)) = true) (hp : p (chimney c f) c) :
    Commands ev p := ⟨_, 15, c, [], atHead_does h, hp⟩

set_option maxRecDepth 20000 in
/-- Bytes at the end of HBM and in a context's page; reads; a domain key of 32 bytes and none; a quote. -/
theorem witness_ChimneyAccess :
    Commands .hbmWrite (fun s c => ∃ pa, oneRun s c c.payload.length pa ∧ c.ctx = 0xFFFF) ∧
    Commands .hbmWrite (fun s c => ∃ pa, oneRun s c c.payload.length pa ∧ c.ctx ≠ 0xFFFF) ∧
    Commands .hbmRead (fun s c => ∃ pa, oneRun s c c.len pa) ∧
    Commands .hbmRead (fun s c => c.ctx ≠ 0xFFFF ∧ s.cmdCtx c = none ∧ 0 < c.len) ∧
    Commands .mgmtRegisterWrite (fun _ c => c.payload.length = 8) ∧ Commands .mgmtRegisterRead (fun _ _ => True) ∧
    Commands .managementReset (fun _ _ => True) ∧ Commands .counterAssign (fun _ _ => True) ∧
    Commands .keyInstall (fun _ c => c.payload.length = 36 ∧ c.num 2 1 ≤ 1 ∧ c.arg ≤ 1) ∧
    Commands .keyInstall (fun _ c => c.payload.length = 4 ∧ c.num 2 1 ≤ 1 ∧ c.arg ≤ 1) ∧
    Commands .attestationQuote (fun _ c => c.payload.length = 32) := by
  have run : ∀ a : Nat, a < 2 ^ 48 → (chimney (writeTo a)).dieTakes (writeTo a) = true := fun _ _ => rfl
  refine ⟨commands (chim 1 7 0xFFFF 0 (2 ^ 37 - 8) (bytesOf 8 1)) id (by decide +kernel) ⟨2 ^ 37 - 8, .inl ?_, by decide +kernel⟩,
    commands (chim 1 7 1 0 120 (bytesOf 8 1)) ctx1 (by decide +kernel) ⟨120, .inr ?_, by decide +kernel⟩,
    commands (chim 2 7 1 0 128 [] 128) ctx1 (by decide +kernel) ⟨128, .inr ?_⟩,
    commands (chim 2 7 1 0 128 [] 128) id (by decide +kernel) ?_, ?_,
    commands (chim 6 7 0xFFFF 0 128 []) id (by decide +kernel) trivial, ?_,
    commands (chim 15 7 0xFFFF 65535 128 []) id (by decide +kernel) trivial,
    commands (chim 14 7 0xFFFF 1 0 (bytesOf 36 0x10001)) id (by decide +kernel) ?_, commands (chim 14 7 0xFFFF 0 0 (bytesOf 4 1)) id (by decide +kernel) ?_,
    commands (chim 16 7 0xFFFF 0 0 (bytesOf 32 1)) id (by decide +kernel) ?_⟩
  · decide +kernel
  · decide +kernel
  · decide +kernel
  · decide +kernel
  · have h : ∃ a : Nat, a < 2 ^ 48 ∧ a ≠ Config.resetRegister.toNat := by
      by_cases h : Config.resetRegister.toNat = 0
      · exact ⟨1, by decide, by omega⟩
      · exact ⟨0, by decide, Ne.symm h⟩
    obtain ⟨a, ha, hn⟩ := h
    have e := writeTo_event a ha
    exact ⟨_, 15, _, [], atHead (by rw [e.1, if_neg hn]) (run a ha) (by rw [e.2]; decide), rfl⟩
  · have e := writeTo_event _ Config.resetRegister.isLt
    exact ⟨_, 15, _, [], atHead (by rw [e.1, if_pos rfl]) (run _ Config.resetRegister.isLt) (by rw [e.2]; decide), trivial⟩
  · decide +kernel
  · decide +kernel
  · decide +kernel

/-- Queue 0x1C064 of die 7, port 0, index 100. -/
def queueD (x : Queue) (f : State → State := id) (s : State) : State := { f s with queues := [(0x1C064, x)] }
/-- Its descriptor: open, of kind k, a window of 16 slots of 16 bytes, or with a window at the end of the SRAM that does not fit. -/
def descD (k : Nat := 2) (more : Nat := 0) : Nat := 15 * 2 ^ 31 + 2 ^ 6 + k * 2 ^ 4 + more

set_option maxRecDepth 20000 in
theorem witness_ChimneyQueues :
    Commands .enqueue (fun s c => ∃ x esz, s.cmdCtx c = some x ∧ sizeCode c.payload.length = some esz ∧ c.addr < 2 ^ 30) ∧
    Commands .dequeue (fun s c => ∃ o d b1 b2 b3 b4, ownQueue s c ∧ Still s (qidKey c.addr) ∧
      (let q := s.queueAt (qidKey c.addr)
       q.state = 1 ∧ q.kind = 2 ∧ q.h < min q.c q.e ∧ q.slot q.h = some (.filled o d b1 b2 b3 b4))) ∧
    Commands .dequeue (fun s c => ownQueue s c ∧ Still s (qidKey c.addr) ∧
      (let q := s.queueAt (qidKey c.addr)
       q.state = 1 ∧ q.kind = 2 ∧ min q.c q.e ≤ q.h)) ∧
    Commands .queueTranslationWrite (fun s c => (∃ x, s.cmdCtx c = some x ∧ c.addr < x.tableSize) ∧ c.payload.length = 8 ∧
      (BitVec.ofNat 64 (c.num 0 8)).extractLsb' 33 7 = 0) ∧
    Commands .multicastGroupWrite (fun s c => (∃ x, s.cmdCtx c = some x ∧ c.addr < x.groupCount) ∧ c.payload.length = 264) ∧
    Commands .queueDescriptorWrite (fun s c => ownQueue s c ∧ c.payload.length = 16 ∧
      s.descriptorBad c.die (qidPort c.addr) (qidIndex c.addr) (queueOf c) = false ∧ (s.queueAt (qidKey c.addr)).state ≠ 1 ∧ (queueOf c).state = 1) ∧
    Commands .queueDescriptorWrite (fun s c => ownQueue s c ∧ c.payload.length = 16 ∧
      s.descriptorBad c.die (qidPort c.addr) (qidIndex c.addr) (queueOf c) = false ∧ (queueOf c).state = 0 ∧ (s.queueAt (qidKey c.addr)).state = 1) ∧
    Commands .queueDescriptorWrite (fun s c => ownQueue s c ∧ s.descriptorBad c.die (qidPort c.addr) (qidIndex c.addr) (queueOf c) = true) ∧
    Commands .accessListWrite (fun s c => ownQueue s c ∧ c.arg ≤ 3 ∧ c.payload.length ≤ 32 ∧ c.payload.length % 4 = 0) ∧
    Commands .queueMove (fun s c => ownQueue s c ∧ c.payload.length = 4 ∧ c.num 0 4 < 2 ^ 30 ∧ qidModule (c.num 0 4) = s.module ∧ c.addr ≠ c.num 0 4 ∧ (s.portAt (qidKey (c.num 0 4) / 4096)).held = [] ∧
      (let old := s.queueAt (qidKey c.addr)
       old.state = 1 ∧ (s.queueAt (qidKey (c.num 0 4))).state ≠ 1 ∧
       s.descriptorBad (qidDie (c.num 0 4)) (qidPort (c.num 0 4)) (qidIndex (c.num 0 4)) old = false ∧
       (qidDie (c.num 0 4) ≠ c.die ∧ old.sleepers = [] ∧ ∀ x ∈ old.slots, ∀ o n b, x.2 ≠ .claimed o n b))) := by
  refine ⟨commands (chim 3 7 1 0 (2 ^ 30 - 1) (bytesOf 16 1)) ctx1 (by decide +kernel) ⟨context1, 0, by decide +kernel, by decide +kernel, by decide +kernel⟩,
    commands (chim 4 7 1 0 0x1C064 []) (queueD { desc := BitVec.ofNat 128 (descD 2), c := 1, t := 1, e := 16, slots := [(0, .filled 0 [1] 0 100 0 true)] })
      (by decide +kernel) ⟨0, [1], 0, 100, 0, true, ⟨by decide +kernel, by decide +kernel, by decide +kernel⟩, still (by decide +kernel), by decide +kernel⟩,
    commands (chim 4 7 1 0 0x1C064 []) (queueD { desc := BitVec.ofNat 128 (descD 2), c := 1, t := 1, e := 0 })
      (by decide +kernel) ⟨⟨by decide +kernel, by decide +kernel, by decide +kernel⟩, still (by decide +kernel), by decide +kernel⟩,
    commands (chim 9 7 1 0 0 (bytesOf 8 0x0000070100000064)) ctx1 (by decide +kernel) ⟨⟨context1, by decide +kernel, by decide +kernel⟩, by decide +kernel, by decide +kernel⟩,
    commands (chim 9 7 1 1 0 (bytesOf 264 1)) ctx1 (by decide +kernel) ⟨⟨context1, by decide +kernel, by decide +kernel⟩, by decide +kernel⟩,
    commands (chim 9 7 1 2 0x1C064 (bytesOf 16 (descD 2))) id (by decide +kernel) ⟨⟨?_, ?_, ?_⟩, ?_, ?_, ?_, ?_⟩,
    commands (chim 9 7 1 2 0x1C064 (bytesOf 16 0)) (queueD { desc := BitVec.ofNat 128 (descD 2), e := 16 }) (by decide +kernel)
      ⟨⟨?_, ?_, ?_⟩, ?_, ?_, ?_, ?_⟩,
    commands (chim 9 7 1 2 0x1C064 (bytesOf 16 (descD 2 (0x7FFFF * 2 ^ 12)))) id (by decide +kernel) ⟨⟨?_, ?_, ?_⟩, ?_⟩,
    commands (chim 9 7 1 3 0x1C064 (bytesOf 32 1)) id (by decide +kernel) ⟨⟨?_, ?_, ?_⟩, ?_, ?_, ?_⟩,
    commands (chim 10 7 1 0 0x1C064 (bytesOf 4 0x64)) (queueD { desc := BitVec.ofNat 128 (descD 2), e := 16 }) (by decide +kernel)
      ⟨⟨?_, ?_, ?_⟩, ?_, ?_, ?_, ?_, ?_, ?_, ?_, ?_, ?_, ?_, ?_⟩⟩
  all_goals first | decide +kernel | (intro x hx; cases hx)

/-- A context descriptor of domain d with a context area, and more. -/
def desc7 (d : Nat) (more : Nat := 0) : Nat := d + 2 ^ 338 + 0x82 * 2 ^ 400 + more

/-- A group of context 1 of die 7 that halts, in the context. -/
def halted1 (kind : HaltKind) (s : State) : State :=
  { ctx1 context1 s with groups := [(1, { die := 7, ctx := 1, grid := 2, set := .halted, halt := kind })] }

/-- A suspended copy of that group besides. -/
def suspended9 (s : State) : State :=
  { halted1 .plain s with cmds := [(9, { kind := .cpy, g := 1, die := 7, core := 0, ctx := 1, team := 4, grid := 2, slot := 0, flag := 0, stage := .suspended })] }

theorem haltOk_of {accepts : HaltKind → Bool} {s : State} {c : ChimCmd}
    (h : ((s.cmdCtx c).isSome && decide (c.payload.length = 20 ∧ c.num 4 4 ≤ 3 ∧ c.arg ≤ 3) && !s.ctxHeld c.die c.ctx &&
      (haltOk.haltsOf s c).all (fun e => accepts e.2.halt && !s.recordOut e.1)) = true) : haltOk accepts s c := by
  simp only [Bool.and_eq_true, decide_eq_true_eq, Bool.not_eq_true', List.all_eq_true] at h
  exact ⟨h.1.1.1, h.1.1.2.1, h.1.1.2.2.1, h.1.1.2.2.2, h.1.2, fun k g hk => h.2 (k, g) hk⟩

set_option maxRecDepth 20000 in
theorem witness_ChimneyContexts :
    Commands .contextCreate (fun s c => c.payload.length = 64 ∧ descReserved (ctxOf c).desc = false ∧ s.descInvalid c (ctxOf c) = false) ∧
    Commands .contextCreate (fun _ c => c.payload.length = 64 ∧ descReserved (ctxOf c).desc = true) ∧
    Commands .contextCreate (fun s c => c.payload.length = 64 ∧ descReserved (ctxOf c).desc = false ∧ s.descInvalid c (ctxOf c) = true) ∧
    Commands .contextDestroy (fun s c => c.arg = 1 ∧ (s.cmdCtx c).isSome = true ∧ NoneHeld s ∧ (s.ctxAt (ctxKey c.die c.ctx)).asker = none ∧
      ∀ x ∈ s.retained, x.2.msg.ctx = c.ctx → x.2.chim = none) ∧
    Commands .contextDestroy (fun s c => c.arg = 1 ∧ (s.cmdCtx c).isSome = true ∧ (s.ctxAt (ctxKey c.die c.ctx)).asker = some (3, 9)) ∧
    Commands .tlbInvalidate (fun s c => (s.cmdCtx c).isSome = true ∧ c.payload.length = 16) ∧
    Commands .preempt (fun s c => (s.cmdCtx c).isSome = true ∧ s.ctxHeld c.die c.ctx = false) ∧
    Commands .preempt (fun s c => (s.cmdCtx c).isSome = true ∧ s.ctxHeld c.die c.ctx = true) ∧
    Commands .restore (fun s c => (∃ x, s.cmdCtx c = some x ∧ x.stage = .saved ∧ x.fatal = false) ∧ s.restorable c.die c.ctx = true ∧
      (∀ k g, Map.find s.groups k = some g → g.pend = [])) ∧
    Commands .restore (fun s c => (s.ctxAt (ctxKey c.die c.ctx)).stage ≠ .saved) ∧
    Commands .haltRetry (fun s c => haltOk (fun h => decide (h ≠ .killOnly)) s c ∧ haltOk.haltsOf s c ≠ []) ∧
    Commands .haltSkip (fun s c => haltOk (fun h => decide (h = .plain)) s c ∧ haltOk.haltsOf s c ≠ []) ∧
    Commands .haltResumeCopy (fun s c => haltOk (fun h => decide (h = .plain)) s c ∧ ∃ k g n x, (k, g) ∈ haltOk.haltsOf s c ∧
      Map.find s.cmds n = some x ∧ x.g = k ∧ x.stage = .suspended) ∧
    Commands .haltKill (fun s c => haltOk (fun _ => true) s c ∧ haltOk.haltsOf s c ≠ []) := by
  refine ⟨commands (chim 7 7 1 0 0 (bytesOf 64 (desc7 5))) id (by decide +kernel) (by decide +kernel),
    commands (chim 7 7 1 0 0 (bytesOf 64 (desc7 5 (2 ^ 511)))) id (by decide +kernel) (by decide +kernel),
    commands (chim 7 7 1 0 0 (bytesOf 64 (desc7 5))) ctx1 (by decide +kernel) (by decide +kernel),
    commands (chim 7 7 1 1 0 []) ctx1 (by decide +kernel) ⟨by decide +kernel, by decide +kernel, fun _ => rfl, by decide +kernel, fun _ h => nomatch h⟩,
    commands (chim 7 7 1 1 0 []) (ctx1 { context1 with asker := some (3, 9) }) (by decide +kernel) (by decide +kernel),
    commands (chim 8 7 1 0 0 (bytesOf 16 (2 ^ 64))) ctx1 (by decide +kernel) (by decide +kernel),
    commands (chim 11 7 1 0 0 []) ctx1 (by decide +kernel) (by decide +kernel),
    commands (chim 11 7 1 0 0 []) (ctx1 { context1 with stage := .saved }) (by decide +kernel) (by decide +kernel),
    commands (chim 12 7 1 0 0 []) (ctx1 { context1 with stage := .saved }) (by decide +kernel)
      ⟨⟨{ context1 with stage := .saved }, by decide +kernel, by decide +kernel, by decide +kernel⟩, by decide +kernel, fun _ _ h => nomatch h⟩,
    commands (chim 12 7 1 0 0 []) ctx1 (by decide +kernel) (by decide +kernel),
    commands (chim 13 7 1 0 0 (bytesOf 20 (3 * 2 ^ 32))) (halted1 .header) (by decide +kernel) ⟨haltOk_of (by decide +kernel), by decide +kernel⟩,
    commands (chim 13 7 1 1 0 (bytesOf 20 (3 * 2 ^ 32))) (halted1 .plain) (by decide +kernel) ⟨haltOk_of (by decide +kernel), by decide +kernel⟩,
    commands (chim 13 7 1 2 0 (bytesOf 20 (3 * 2 ^ 32))) suspended9 (by decide +kernel) ⟨haltOk_of (by decide +kernel), 1,
      { die := 7, ctx := 1, grid := 2, set := .halted, halt := .plain }, 9, _, by decide +kernel, rfl, rfl, rfl⟩,
    commands (chim 13 7 1 3 0 (bytesOf 20 (3 * 2 ^ 32))) (halted1 .killOnly) (by decide +kernel) ⟨haltOk_of (by decide +kernel), by decide +kernel⟩⟩

set_option maxRecDepth 20000 in
theorem witness_ChimneyDiscipline :
    (∃ (s : State) (chan : Nat) (c : ChimCmd) (rest : List ChimCmd), (s.chanAt chan).inbox = c :: rest ∧ c.whole = false) ∧
    (∃ (s : State) (chan : Nat) (c : ChimCmd) (rest : List ChimCmd), (s.chanAt chan).inbox = c :: rest ∧ c.whole = true ∧ c.seq ≠ (s.chanAt chan).expect) ∧
    (∃ (s : State) (chan : Nat) (c : ChimCmd) (rest : List ChimCmd), (s.chanAt chan).inbox = c :: rest ∧ c.whole = true ∧
      c.seq = (s.chanAt chan).expect ∧ c.reserved = true) ∧
    (∃ (s : State) (chan : Nat) (c : ChimCmd) (rest : List ChimCmd), (s.chanAt chan).inbox = c :: rest ∧ s.chimEvent chan c = .hbmRead chan ∧
      s.dieTakes c = false) ∧
    (∃ (s : State) (chan : Nat) (c : ChimCmd) (rest : List ChimCmd), (s.chanAt chan).inbox = c :: rest ∧ s.chimEvent chan c = .hbmRead chan ∧
      s.dieTakes c = true ∧ c.len = 65537) ∧ (Instr.hbmRead, Ev.hbmRead) ∈ chimRows :=
  ⟨⟨chimney { hdr := 0, payload := [] }, 15, _, _, rfl, by decide +kernel⟩,
    ⟨chimney (sealed (chimNumber 2 7 0xFFFF 0 0 8 + 2 ^ 64) []), 15, _, _, rfl, by decide +kernel, by decide +kernel⟩,
    ⟨chimney (chim 17 7 0xFFFF 0 0 []), 15, _, _, rfl, by decide +kernel, by decide +kernel, by decide +kernel⟩,
    ⟨chimney (chim 2 7 0xFFFF 0 0 [] 8) (fun s => { s with dies := [(7, { mode := .recovery })] }), 15, _, _, rfl, by decide +kernel, by decide +kernel⟩,
    ⟨chimney (chim 2 7 0xFFFF 0 0 [] 65537), 15, _, _, rfl, by decide +kernel, by decide +kernel, by decide +kernel⟩,
    List.mem_cons_of_mem _ List.mem_cons_self⟩

/-! ### Witnesses: faults, decoding, the step -/

/-- Context 0 of the state of withFetchWord. -/
def context0 : Context := { desc := BitVec.ofNat 512 (1 * 2 ^ 338) }

/-- A group of the same team with the number 5, under policy 01. -/
def teamed : State := seat id fun s => { s with
  groups := Map.put s.groups 5 { s.groupAt 1 with slot := 4 }, grids := Map.put s.grids 2 { s.gridAt 2 with packet := BitVec.ofNat 2048 (2 ^ 28) } }

/-- A last instruction in a travel launch without segments strays; operand code 110 is reserved; element 31 of v95 is poisoned. -/
theorem witness_FaultsTaken :
    (∃ (s : State) (c : Issue) (g : Group) (f : FaultInfo) (x : Context), Map.find s.groups c.g = some g ∧ g.set ≠ .halted ∧ g.set ≠ .ended ∧
      Map.find s.contexts (ctxKey g.die g.ctx) = some x ∧ f.cls.kind = 0) ∧
    (∃ (s : State) (c : Issue) (g : Group) (f : FaultInfo) (x : Context), Map.find s.groups c.g = some g ∧ g.set ≠ .halted ∧ g.set ≠ .ended ∧
      Map.find s.contexts (ctxKey g.die g.ctx) = some x ∧ f.cls.kind = 0 ∧ (s.gridAt g.grid).policy = 1 ∧
      (∃ k h, Map.find s.groups k = some h ∧ k ≠ c.g ∧ inTeam s g h ∧ h.set ≠ .ended) ∧
      ∃ k, k ≠ c.g ∧ ∀ h, (k, h) ∈ s.groups → ¬ inTeam s g h) ∧
    (∃ (s : State) (c : Issue) (g : Group) (o : Opnds), (checksOf s c g o none none none false).isSome = true) ∧
    Meets {} (fun s _ g => g.set = .active ∧ (Map.find s.contexts (ctxKey g.die g.ctx)).isSome = true ∧
      (codeFault { reads := [110, 0], first := relOf 110, second := relOf 0, preds := [7], dests := [105] }).isSome = true) ∧
    Meets {} (fun s c g => g.set = .active ∧ s.ctxHeld g.die g.ctx = false ∧ fallFault s c g = none ∧
      poisonRead { reads := [95, 0], first := relOf 95, second := relOf 0, preds := [7], dests := [105] } c g = some 95) :=
  by
  refine ⟨⟨seat, path seat, _, { cls := .misalignment }, context0, rfl, by decide +kernel, by decide +kernel, by decide +kernel, rfl⟩,
    ⟨teamed, path teamed, _, { cls := .misalignment }, context0, rfl, by decide +kernel, by decide +kernel, by decide +kernel, rfl, by decide +kernel,
      ⟨5, _, rfl, by decide, ⟨by decide +kernel, by decide +kernel, by decide +kernel, .inl (by decide +kernel)⟩, by decide +kernel⟩,
      6, by decide, fun h hm => ?_⟩,
    ⟨seat, path seat, (seat).groupAt 1, { reads := [110] }, by decide +kernel⟩,
    meets seat (by decide +kernel) (by decide +kernel),
    meets (seat fun g => { g with regs := { g.regs with poison := [95 * 32 + 31] } }) (by decide +kernel) (by decide +kernel)⟩
  have e : ∀ x ∈ teamed.groups, x.1 ≠ 6 := by decide +kernel
  exact absurd rfl (e _ hm)

theorem witness_TrapsAndDelivery :
    Meets {} (fun s c _ => s.issue.any (fun x => decide (x.g = c.g)) = true) ∧
    Meets {} (fun s c g => g.set = .active ∧ s.issue.any (fun x => decide (x.g = c.g)) = false ∧ Map.find s.contexts (ctxKey g.die g.ctx) = some context0) ∧
    ((0x3F001E#32).getLsbD 0 = true → (0x3F001E#32).extractLsb' 1 7 ≠ 0x4B#7 ∧ ((0x3F001E#32).extractLsb' 1 7 < 0x68#7 ∨ 0x6B#7 < (0x3F001E#32).extractLsb' 1 7)) ∧
    ((0xFF#32).getLsbD 0 = true → (0xFF#32).extractLsb' 1 7 ≠ 0x4B#7 ∧ ((0xFF#32).extractLsb' 1 7 < 0x68#7 ∨ 0x6B#7 < (0xFF#32).extractLsb' 1 7)) ∧
    Meets {} (fun s _ g => g.set = .active ∧ Map.find s.contexts (ctxKey g.die g.ctx) = some context0 ∧ (roleFault g .copy).isSome = true ∧
      (0xD7#32).getLsbD 0 = true ∧ 0x68#7 ≤ (0xD7#32).extractLsb' 1 7 ∧ (0xD7#32).extractLsb' 1 7 ≤ 0x6B#7) :=
  ⟨meets (seat id (fun s => { s with issue := [{ g := 1, lanes := 1 }] }) 0xFFFFFFFE) (by decide +kernel) (by decide +kernel),
    meets seat (by decide +kernel) (by decide +kernel), by decide, by decide,
    meets (seat fun g => { g with role := .matrix }) (by decide +kernel) (by decide +kernel)⟩

theorem witness_InstructionLengths :
    (∃ w i n, decode w = .ok i n ∧ n = 4) ∧ (∃ (c : Core) (ctx va : Nat), (c.codeLine ctx va).isSome = true) ∧
    (∃ (c : Core) (ctx va n w : Nat), va < 2 ^ 48 ∧ c.fetch ctx va = some (n, w) ∧ n = 2) :=
  ⟨⟨0x01418331, .fadd 0 5 3 3, 4, by decide +kernel, rfl⟩, ⟨(seat).coreAt 0, 0, 127, by decide +kernel⟩, ⟨(seat).coreAt 0, 0, 8, 2, 0, by decide, by decide +kernel, rfl⟩⟩

theorem witness_DecodedWords :
    (∃ w, w < 65536 ∧ w % 2 = 0 ∧ w / 2 % 16 = 15 ∧ w ≠ 0x1E) ∧ (∃ w m, w % 2 = 1 ∧ w / 2 % 128 = m ∧ m ∈ [0x12, 0x7F]) :=
  ⟨⟨0xFFFE, by decide⟩, 0xFFFFFFFF, 0x7F, by decide⟩

theorem witness_DecodeInvertsEncode :
    (∃ i w, encode i = some w) ∧ (∃ w i n, w < 2 ^ (8 * lengthOf w) ∧ decode w = .ok i n) :=
  ⟨⟨.fadd 0 5 3 3, 0b000_0000101_0000011_0000011_0011000_1, by decide +kernel⟩,
    0b000_0000101_0000011_0000011_0011000_1, .fadd 0 5 3 3, 4, by decide +kernel, by decide +kernel⟩

/-- The state in which the word w is the next to run. -/
def next (w : Nat) (f : Group → Group := id) : State :=
  let s := State.reset.withFetchWord 32 w
  { s with groups := Map.put s.groups 1 (f (s.groupAt 1)) }

/-- Its path. -/
def path1 : Issue := { g := 1, lanes := 0xFFFFFFFF }

theorem witness_StepRunsDecoded :
    ((next 0x01418331).nextMove = .path path1 [] ∧ ∃ c', (next 0x01418331).turn path1 = .run c' ∧ decode c'.word = .ok (.fadd 0 5 3 3) 4) ∧
    ((next 0xFFFFFFFF).nextMove = .path path1 [] ∧ ∃ c', (next 0xFFFFFFFF).turn path1 = .run c' ∧ ∃ m n, decode c'.word = .illegal m n) ∧
    ((next 0 (threads fun t => { t with pc := 0, entered := false })).nextMove = .path path1 [] ∧
      ∃ c', (next 0 (threads fun t => { t with pc := 0, entered := false })).turn path1 = .enter c') ∧
    ({ State.reset with pending := [⟨0, 0, .flueApply 7⟩] } : State).nextMove = .event (.flueApply 7) [] ∧ State.reset.nextMove = .tick := by
  refine ⟨⟨rfl, { path1 with word := 0x01418331, len := 4 }, by decide +kernel, by decide +kernel⟩,
    ⟨rfl, { path1 with word := 0xFFFFFFFF, len := 4 }, by decide +kernel, _, 4, rfl⟩, ⟨rfl, path1, by decide +kernel⟩, rfl, rfl⟩

theorem witness_EveryStepGoes : ∃ i s f, exec i s = .fault f := ⟨.nop, State.reset, .noIssuingPath, rfl⟩

theorem witness_StepKeepsMemories : ∃ s t : State, s.memoriesWf = true ∧ step s = .next t :=
  ⟨State.reset, _, by decide +kernel, rfl⟩

/-! ### Single steps, with results worked out in the manual

The group stands at the word w of withFetchWord; q looks at it after the step. -/

noncomputable def ran (w : Nat) (f : Group → Group) (q : Group → Bool) (h : State → State := id) : Bool :=
  match step (h (next w f)) with
  | .next t => q (t.groupAt 1)
  | _ => false

/-- Main registers mapped, with the values of lane 0. -/
def lane0 (l : List (Nat × Word)) (g : Group) : Group :=
  { g with regs := { g.regs with v := l.map (fun e => (e.1 * 32, e.2)), vmap := BitVec.allOnes 96 } }

/-- fd0 is the S1E4M3 format of R54's worked descriptors. -/
def fd0 (s : State) : State := { s with teams := Map.put s.teams 4 { s.teamAt 4 with fds := [(0, 0x18C1E100)] } }

/-- The worked run on choosing a scale: AMAX v8, v0, #4 of 0.75, 100, -3.5 and 12. -/
theorem test_amax : ran 0x0400088D (lane0 [(0, 0x3F400000), (1, 0x42C80000), (2, 0xC0600000), (3, 0x41400000)])
    (fun g => decide (g.regs.main 8 0 = 0x42C80000)) = true := by decide +kernel
/-- FEXPN v9, v8 of 100 is 6, and IADDI v9, v9, #-7 makes it -1. -/
theorem test_fexpn : ran 0x03440981 (lane0 [(8, 0x42C80000)]) (fun g => decide (g.regs.main 9 0 = 6)) = true := by decide +kernel
theorem test_iaddi : ran 0xFE448961 (lane0 [(9, 6)]) (fun g => decide (g.regs.main 9 0 = 0xFFFFFFFF)) = true := by decide +kernel
/-- QNT4 v10, v0, v9, fd0 gives 0x5CCE_743C and raises NX; DQNT4 v12, v10, v9, fd0 reads 96 back for 100. -/
theorem test_qnt4 : ran 0x02400A87 (lane0 [(0, 0x3F400000), (1, 0x42C80000), (2, 0xC0600000), (3, 0x41400000), (9, 0xFFFFFFFF)])
    (fun g => decide (g.regs.main 10 0 = 0x5CCE743C ∧ g.flagsNow = 0x10)) fd0 = true := by decide +kernel
theorem test_dqnt4 : ran 0x0122868B (lane0 [(9, 0xFFFFFFFF), (10, 0x5CCE743C)])
    (fun g => decide (g.regs.main 12 0 = 0x3F400000 ∧ g.regs.main 13 0 = 0x42C00000 ∧ g.regs.main 14 0 = 0xC0600000 ∧ g.regs.main 15 0 = 0x41400000))
    fd0 = true := by decide +kernel
/-- The worked run on quantising with a chosen scale: 0.75, 100, 150 and -0.001 under scale -2; NX, UF and SAT. -/
theorem test_qnt4_saturates : ran 0x02400A87 (lane0 [(0, 0x3F400000), (1, 0x42C80000), (2, 0x43160000), (3, 0xBA83126F), (9, 0xFE)])
    (fun g => decide (g.regs.main 10 0 = 0x827E7C44 ∧ g.flagsNow = 0x38)) fd0 = true := by decide +kernel
/-- One operand, end to end: FMAC v5, v4, o2 of 0.25, 1.5 and 2. -/
theorem test_fmac : ran 0b000_1100010_0000100_0000101_0011011_1
    (fun g => { lane0 [(4, 0x3FC00000), (5, 0x3E800000)] g with regs := { (lane0 [(4, 0x3FC00000), (5, 0x3E800000)] g).regs with o := [(64, 0x40000000)] } })
    (fun g => decide (g.regs.main 5 0 = 0x40500000)) = true := by decide +kernel
/-- R139: IADD v1, v2, v3 wraps. -/
theorem test_iadd : ran 0x00C10101 (lane0 [(2, 0x7FFFFFFF), (3, 1)]) (fun g => decide (g.regs.main 1 0 = 0x80000000)) = true := by decide +kernel
/-- SHI s10, #0xFE0 after SLIT s10, #0 is 1.0. -/
theorem test_shi : ran 0x03F80AA7 id (fun g => decide (g.regs.scalar 10 = 0x3F800000)) = true := by decide +kernel
/-- ICMPS.EQ p2, v2, zero: lane 0 holds 1, every other lane zero. -/
theorem test_icmps : ran 0x0D208279 (lane0 [(2, 1)]) (fun g => decide (g.regs.pred 2 = 0xFFFFFFFE)) = true := by decide +kernel
/-- TRAP #0x2A: the group halts, and the record has class 48, kind 10, the immediate and the word. -/
theorem test_trap : (match step (next 0x00002AFD) with
    | .next t => decide ((t.groupAt 1).set = .halted) && t.retained.any (fun e => decide (recField e.2.msg.data 208 8 = 48 ∧
        recField e.2.msg.data 198 2 = 2 ∧ recField e.2.msg.data 0 32 = 0x2A ∧ recField e.2.msg.data 352 32 = 0xFFFFFFFF))
    | _ => false) = true := by decide +kernel

/-- The witness of step 6a, the ticket of the reduced witness, and QIDs of R1's road and the post to 12 peers. -/
theorem test_words : pointWit 3 2 0 0x1F4A = 0x4640000000001F4A ∧ frontierWit 3 2 5 0x401 = 0x8645000000000401 ∧
    qidOf 0 6 2 0x1A = 0x0001A01A ∧ qidOf 498 0 1 0x40 = 0x03E41040 := by decide +kernel

end Sys2Proof.Machine.Tests
end

section
/-!
Family 03_numbers: the packed 16-bit instructions (R51, R141).
-/
namespace Sys2Proof.Machine

/-! ### V3 instructions under the group's mode -/

/-- An instruction that runs as a V3 operation gives what that operation makes of the group's rounding mode and its two sources (R138). -/
theorem v3Mode_of_exec {i : BitVec 3 → BitVec 7 → BitVec 7 → BitVec 7 → Instr} {h : RMode → Word → Word → Word × FFlags}
    {f : Group → Word → Word → Word × FFlags} {carry : Carry} {lat : Nat}
    (hi : ∀ p b a d s, exec (i p b a d) s = v3 p.toNat b.toNat a.toNat d.toNat f s carry lat)
    (hf : ∀ g x y, f g x y = h (RMode.ofCode g.rmode) x y) : V3Mode i h := by
  intro p b a d
  have key := laneOp_gives (ok := always) (fun g r l => f g (r.read a.toNat l) (r.read b.toNat l)) (fun s _ _ => hi p b a d s)
  simp only [hf] at key
  exact key

/-- As v3Mode_of_exec, for an operation that also reads its destination as accumulator (R138). -/
theorem v3Acc_of_exec {i : BitVec 3 → BitVec 7 → BitVec 7 → BitVec 7 → Instr} {h : RMode → Word → Word → Word → Word × FFlags}
    {f : Group → Word → Word → Word → Word × FFlags}
    (hi : ∀ p b a d s, exec (i p b a d) s = v3Acc p.toNat b.toNat a.toNat d.toNat f s)
    (hf : ∀ g z x y, f g z x y = h (RMode.ofCode g.rmode) z x y) : V3Acc i h := by
  intro p b a d
  have key := laneOp_gives (ok := always) (fun g r l => f g (r.read d.toNat l) (r.read a.toNat l) (r.read b.toNat l))
    (fun s _ _ => hi p b a d s)
  simp only [hf] at key
  exact key

/-! ### Packing two halves (R51) -/

/-- Element 1 stands above element 0, each cut to 16 bits. -/
theorem ofNat_halves (hi lo : Nat) :
    BitVec.ofNat 32 (lo % 65536 + 65536 * (hi % 65536)) = BitVec.ofNat 16 hi ++ BitVec.ofNat 16 lo := by
  apply BitVec.eq_of_toNat_eq
  have hlo : lo % 2 ^ 16 < 2 ^ 16 := Nat.mod_lt _ (by decide)
  rw [BitVec.toNat_append, BitVec.toNat_ofNat, BitVec.toNat_ofNat, BitVec.toNat_ofNat, ← Nat.shiftLeft_add_eq_or_of_lt hlo,
    Nat.shiftLeft_eq]
  omega

theorem pack16_eq (lo hi : Nat × FFlags) : pack16 lo hi = (BitVec.ofNat 16 hi.1 ++ BitVec.ofNat 16 lo.1, lo.2 ||| hi.2) :=
  congrArg (·, lo.2 ||| hi.2) (ofNat_halves hi.1 lo.1)

theorem packedOp_eq_bothHalves (f : RMode → Nat → Nat → Nat × FFlags) (g : Group) (x y : Word) :
    packedOp f g x y = bothHalves (f (RMode.ofCode g.rmode)) x y := pack16_eq _ _

/-! ### The packed instructions (R141) -/

/-- A V3 instruction that runs as a packed operation acts on both halves of an element. -/
theorem v3Mode_of_packedOp {i : BitVec 3 → BitVec 7 → BitVec 7 → BitVec 7 → Instr} {f : RMode → Nat → Nat → Nat × FFlags} {carry : Carry}
    (hi : ∀ p b a d s, exec (i p b a d) s = v3 p.toNat b.toNat a.toNat d.toNat (packedOp f) s carry) :
    V3Mode i (fun m => bothHalves (f m)) :=
  v3Mode_of_exec hi (packedOp_eq_bothHalves f)

/-- A fused multiply-add that runs packed accumulates both halves of an element. -/
theorem v3Acc_of_packedMac {i : BitVec 3 → BitVec 7 → BitVec 7 → BitVec 7 → Instr} {fm : Fmt}
    (hi : ∀ p b a d s, exec (i p b a d) s = v3Acc p.toNat b.toNat a.toNat d.toNat (packedMac fm) s) :
    V3Acc i (fun m z x y =>
      let lo := fm.fma m (z.toNat % 65536) (x.toNat % 65536) (y.toNat % 65536)
      let hi := fm.fma m (z.toNat / 65536) (x.toNat / 65536) (y.toNat / 65536)
      (BitVec.ofNat 16 hi.1 ++ BitVec.ofNat 16 lo.1, lo.2 ||| hi.2)) :=
  v3Acc_of_exec hi (fun _ _ _ _ => pack16_eq _ _)

/-- Settles O4: each packed instruction runs as a lane-wise V3 operation on the two halves, whose packed results stand one above the other. -/
theorem packedResults : Obligations.PackedResults := by
  refine ⟨?hadd2, ?hsub2, ?hmul2, ?hmin2, ?hmax2, ?hfmac2, ?badd2, ?bsub2, ?bmul2, ?bmin2, ?bmax2, ?bfmac2⟩
  case hfmac2 | bfmac2 => exact v3Acc_of_packedMac (fun _ _ _ _ _ => rfl)
  all_goals exact v3Mode_of_packedOp (fun _ _ _ _ _ => rfl)

end Sys2Proof.Machine
end
